-- ==== Sys2Proof/Word.lean ====
section
/-! DEFINITION. The word types of the Colfeash: a word is 64 bits, a halfword 16 bits (R3), a row 1,024 bits (R17). -/
namespace Sys2Proof

/-- A byte of storage. -/
abbrev Byte := BitVec 8

/-- A halfword: an instruction line is 32 of them (R25). -/
abbrev Half := BitVec 16

/-- A 64-bit word (R3). -/
abbrev Word := BitVec 64

/-- A tile row, track row or vector register: 1,024 bits (R17, R268, R313). -/
abbrev Row := BitVec 1024

/-- A physical core number (R13). -/
abbrev CoreId := BitVec 13

/-- A barrel slot of a core (R13, R67). -/
abbrev SlotId := Fin 16

end Sys2Proof
end

