-- ==== Sys2Proof/Syntax.lean ====
section
/-! DEFINITION. The instructions and steps of the Colfeash: one constructor per row of the opcode table.
The first part holds the encoded instructions (R52 to R59), the second the steps of the engines, of system
software's register writes, of the host and of the control complex (95_what_each_step_holds.md); the inputs a
step takes from outside the module (a temperature, a pager decision, a host word) are its arguments. -/
namespace Sys2Proof

/-- A scalar register number (R38). -/
abbrev SReg := BitVec 5
/-- A condition register number (R38). -/
abbrev CReg := BitVec 4
/-- A key register number (R38). -/
abbrev KReg := BitVec 3
/-- A directional register number (R38). -/
abbrev DReg := BitVec 4
/-- A vector register number (R38). -/
abbrev VReg := BitVec 5
/-- A tile number (R38). -/
abbrev TileId := BitVec 2
/-- A track number (R334). -/
abbrev TrackId := BitVec 6
/-- A tensor id (R33, R245). -/
abbrev TensorId := BitVec 8

/-- A source field with its wait bit (R34): an `s` or a `v` register. -/
structure Src where
  reg  : BitVec 5
  wait : Bool
  deriving DecidableEq, Repr, Inhabited

/-- A directional source with its wait bit (R305). -/
structure DSrc where
  reg  : DReg
  wait : Bool
  deriving DecidableEq, Repr, Inhabited

/-- A key source with its wait bit (R185, R186, R374). -/
structure KSrc where
  reg  : KReg
  wait : Bool
  deriving DecidableEq, Repr, Inhabited

/-- A branch immediate: line delta and head index (R32). -/
structure BTarget where
  delta : BitVec 11
  index : BitVec 5
  deriving DecidableEq, Repr, Inhabited

/-- Memory operand of modes 000 and 001 (R35). -/
inductive MemI
  | base  (key : KReg) (imm : Half)
  | index (key : KReg) (x : Src) (imm : Half)
  deriving DecidableEq, Repr, Inhabited

/-- Memory operand of modes 010 and 011 (R35). -/
structure MemX where
  key : KReg
  x   : Src
  deriving DecidableEq, Repr, Inhabited

/-- Memory operand of modes 000 to 010 (R202). -/
inductive MemA
  | imm (m : MemI)
  | idx (m : MemX)
  deriving DecidableEq, Repr, Inhabited

/-- Access size (R35). -/
inductive Size | b8 | b16 | b32 | b64
  deriving DecidableEq, Repr, Inhabited

/-- Rounding modes (R135). -/
inductive RMode | rne | rtz | rdn | rup | rna
  deriving DecidableEq, Repr, Inhabited

/-- Rounding field of a TF tail (R36). -/
inductive Rnd | fixed (m : RMode) | dyn
  deriving DecidableEq, Repr, Inhabited

/-- Precision of a TF tail (R36). -/
inductive Prec | d | s
  deriving DecidableEq, Repr, Inhabited

/-- Tile element types, codes 0 to 9 of R235. -/
inductive ETy | f64 | f32 | bf16 | f16 | e4m3 | e5m2 | i32 | i16 | i8 | i4
  deriving DecidableEq, Repr, Inhabited

/-- The TV2 modifiers (R33, R37, R59): SAT, the type override, and the rounding bits as coded. -/
structure Mods where
  sat : Bool
  ovr : Option ETy
  rnd : BitVec 3
  deriving DecidableEq, Repr, Inhabited

/-- TV2 modifiers of a row whose rounding bits are reserved (R59). -/
structure ModsQ where
  sat : Bool
  ovr : Option ETy
  deriving DecidableEq, Repr, Inhabited

/-- F codes of ADD, SUB, ADDI (R121). -/
inductive AddF | wrap | satS | satU | word
  deriving DecidableEq, Repr, Inhabited
/-- F codes of MULH (R122). -/
inductive MulhF | ss | uu | su
  deriving DecidableEq, Repr, Inhabited
/-- Shift amount forms (R125): register, or immediate 0 to 63. -/
inductive ShAmt | reg (b : Src) | imm (n : BitVec 6)
  deriving DecidableEq, Repr, Inhabited
/-- Relations of CMP (R127). -/
inductive Rel | eq | ne | lt | ge | ltu | geu | tst
  deriving DecidableEq, Repr, Inhabited
/-- Forms of FMA and VFMA (R154). -/
inductive FmaF | pp | pm | mp | mm
  deriving DecidableEq, Repr, Inhabited
/-- Functions of FMINMAX and VMINMAX (R155). -/
inductive MinMaxF | min | max | minnum | maxnum
  deriving DecidableEq, Repr, Inhabited
/-- Functions of FCMP (R156). -/
inductive FCmpF | eq | lt | le | un | ltq | leq
  deriving DecidableEq, Repr, Inhabited
/-- Conversions of FCVT (R56). -/
inductive CvtK | ff | toI64 | toU64 | toI32 | toU32 | ofI64 | ofU64
  deriving DecidableEq, Repr, Inhabited
/-- Functions of FSGN (R159). -/
inductive SgnF | cp | cpn | xor
  deriving DecidableEq, Repr, Inhabited
/-- Sync modes of LDS (R199). -/
inductive LdsMode | full | take | any | state
  deriving DecidableEq, Repr, Inhabited
/-- Sync modes of STS (R199). -/
inductive StsMode | fill | set | clear
  deriving DecidableEq, Repr, Inhabited
/-- Operations of AMO (R202). -/
inductive AmoF | add | swap | cas | and | or | xor | min | max | minu | maxu
  deriving DecidableEq, Repr, Inhabited
/-- Fields of KINFO (R186). -/
inductive KInfoF | base | limit | rights | tenant | place | tag
  deriving DecidableEq, Repr, Inhabited
/-- Levels of the launch hierarchy (R76). -/
inductive Lvl | launch | graph | phase | job
  deriving DecidableEq, Repr, Inhabited
/-- Scopes of FENCE (R203). -/
inductive Scope | core | cluster | package | system
  deriving DecidableEq, Repr, Inhabited
/-- Neighbour ports (R226). -/
inductive Port | n | e | s | w
  deriving DecidableEq, Repr, Inhabited
/-- Sources of MLDW and MMA (R284). -/
inductive ASrc | tile | track | ls
  deriving DecidableEq, Repr, Inhabited
/-- Relations of VCMP (R291). -/
inductive VRel | eq | ne | lt | le | un
  deriving DecidableEq, Repr, Inhabited
/-- Reductions of VRED (R294). -/
inductive RedF | sum | min | max | and | or | xor
  deriving DecidableEq, Repr, Inhabited
/-- Functions of VSFU (R297). -/
inductive SfuF | rcp | rsqrt | sqrt | exp2 | log2 | exp | tanh | sigm
  deriving DecidableEq, Repr, Inhabited
/-- Operations of VLOGIC (R296). -/
inductive LogicF | and | or | xor | andn | not | shl | shr | sar
  deriving DecidableEq, Repr, Inhabited
/-- Policies of ROUTE (R394). -/
inductive Policy | drop | pass | next
  deriving DecidableEq, Repr, Inhabited

/-- What the pager answers to a queued request (R175, R178, R179): a frame for the page, or a refusal. `mid` and
`low` are frames for page tables it must add. -/
inductive PagerAnswer
  | grant (frame mid low : Nat) (w x sec : Bool)
  | unmapped
  | quota
  deriving DecidableEq, Repr, Inhabited

/-- What ECC finds uncorrectable (R414). -/
inductive EccSite
  | icache (core : CoreId) (line : Nat)
  | device (word : Nat)
  | local (core : CoreId) (word : Nat)
  | track (core : CoreId) (t : TrackId) (pos : BitVec 8)
  | code (core : CoreId) (t : TrackId) (pos : BitVec 8) (reads : Option (BitVec 8))
  | sreg (core : CoreId) (slot : SlotId) (r : SReg)
  | kreg (core : CoreId) (slot : SlotId) (r : KReg)
  | dreg (core : CoreId) (slot : SlotId) (r : DReg)
  | tileRow (core : CoreId) (tile : TileId) (row : VReg)
  /-- `s8` + `r` of the resident window of the `w`-th caller (R102) -/
  | window (core : CoreId) (slot : SlotId) (w : Nat) (r : BitVec 4)
  /-- word `w` of the `e`-th entry of an inbox -/
  | inbox (core : CoreId) (e : Nat) (w : BitVec 3)
  deriving DecidableEq, Repr, Inhabited

/-- What an access of another part asks of this one (R427). -/
inductive FarOp
  | ld (n : Nat)
  | st (n : Nat) (v : Word)
  | ldb (off len : Nat)
  | stb (off len : Nat) (v : Word)
  | lds (m : LdsMode)
  | sts (m : StsMode) (v : Word)
  | amo (f : AmoF) (n : Nat) (a b : Word)
  /-- whole words, with their tags, read or written -/
  | read (n : Nat)
  | write (ws : List Word)
  | kst (w0 w1 : Word) (tag : Bool)
  deriving DecidableEq, Repr, Inhabited

/-- How an access of this part ended at the part that it went to (R427): done, refused or past the quota (R179), on poison (R180), or
before a full wait list (R201). -/
inductive FarEnd | ok | refused | quota | poison | full
  deriving DecidableEq, Repr, Inhabited

/-- One datum another part sends over Gildoza (R427): the end of an access of this part, an access of that part, a word of a node there,
or a member's contribution to a collective (R363). -/
inductive FabricBody
  | reply (req : Nat) (data : List Word) (how : FarEnd)
  | access (src num : Nat) (tenant : BitVec 9) (addr : Nat) (op : FarOp)
  | write (tenant : BitVec 9) (addr : Nat) (data : Word)
  | contribution (group rank op elem : Nat) (data : List Byte)
  | corrupt
  deriving DecidableEq, Repr, Inhabited

/-- A host address of a CXL.mem access (R416): the head at which it comes, and the address there. -/
structure HdmAddr where
  head : BitVec 2
  addr : Nat
  deriving DecidableEq, Repr, Inhabited

/-- A `.track` image (R46, R323): its place if it names one, the track, the first position and the rows. -/
structure TrackImage where
  place : Option Nat
  track : TrackId
  pos   : Nat
  rows  : List Row
  deriving DecidableEq, Repr, Inhabited

/-- What the loader brings with a launch: `.track` images, `.tensor` images of eight words (R259), and the key pairs of
`.key` images at their device virtual addresses (R47). -/
structure LoadImages where
  tracks  : List TrackImage
  tensors : List (TensorId × List Word)
  keys    : List (Nat × Word × Word)
  deriving DecidableEq, Repr, Inhabited

/-- The instructions and steps, one constructor per row of the opcode table, in its order. -/
inductive Instr
  -- control (R52)
  | nop (d : BitVec 6) (hints : List Half)
  | br (t : BTarget)
  | bc (n : Bool) (c : CReg) (t : BTarget)
  | jmp (s : SReg)
  | callw (t : BTarget)
  | callwx (s : SReg)
  | retw
  | loop (cnt : SReg) (e : BTarget)
  | loopImm (cnt : Half) (e : BTarget)
  | park (c : CReg)
  | yield
  | halt
  | trap (n : Half)
  | eret
  | xret
  | csrr (d : SReg) (n : BitVec 12)
  | csrw (s : SReg) (n : BitVec 12)
  -- integer (R53)
  | add (f : AddF) (d : SReg) (a b : Src)
  | sub (f : AddF) (d : SReg) (a b : Src)
  | addi (f : AddF) (d : SReg) (a : Src) (imm : Half)
  | mul (d : SReg) (a b : Src)
  | mulh (f : MulhF) (d : SReg) (a b : Src)
  | div (u : Bool) (d : SReg) (a b : Src)
  | rem (u : Bool) (d : SReg) (a b : Src)
  | and (d : SReg) (a b : Src)
  | or (d : SReg) (a b : Src)
  | xor (d : SReg) (a b : Src)
  | andn (d : SReg) (a b : Src)
  | shl (d : SReg) (a : Src) (m : ShAmt)
  | shr (d : SReg) (a : Src) (m : ShAmt)
  | sar (d : SReg) (a : Src) (m : ShAmt)
  | rotr (d : SReg) (a : Src) (m : ShAmt)
  | min (u : Bool) (d : SReg) (a b : Src)
  | max (u : Bool) (d : SReg) (a b : Src)
  | cmp (r : Rel) (d : BitVec 3) (a b : Src)
  | cmpi (r : Rel) (d : BitVec 3) (a : Src) (imm : Half)
  | sel (d : SReg) (a b : Src) (c : CReg)
  | li (d : SReg) (imm : Half)
  | lih (pos : BitVec 2) (d : SReg) (a : Src) (imm : Half)
  | clz (trail : Bool) (d : SReg) (a : Src)
  | popc (d : SReg) (a : Src)
  | bfx (sgn : Bool) (d : SReg) (a : Src) (pos : BitVec 6) (len : BitVec 7)
  | bfi (d : SReg) (a b : Src) (pos : BitVec 6) (len : BitVec 7)
  | clmul (hi : Bool) (d : SReg) (a b : Src)
  | movc (d : SReg)
  | movcWr (a : Src)
  -- services and floating point (R55)
  | pair (d : SReg) (a : Src)
  | pairOff (d : SReg) (a : Src)
  | pairSt (d : SReg) (a : Src)
  | harvest (d : SReg) (a b : Src)
  | xlw (k : KReg) (a b : Src)
  | fadd (p : Prec) (r : Rnd) (d : SReg) (a b : Src)
  | fsub (p : Prec) (r : Rnd) (d : SReg) (a b : Src)
  | fmul (p : Prec) (r : Rnd) (d : SReg) (a b : Src)
  | fdiv (p : Prec) (r : Rnd) (d : SReg) (a b : Src)
  | fsqrt (p : Prec) (r : Rnd) (d : SReg) (a : Src)
  | fma (f : FmaF) (p : Prec) (r : Rnd) (d : SReg) (a b c : Src)
  | fminmax (f : MinMaxF) (p : Prec) (d : SReg) (a b : Src)
  | fcmp (f : FCmpF) (p : Prec) (d : BitVec 3) (a b : Src)
  | fcvt (k : CvtK) (p : Prec) (r : Rnd) (d : SReg) (a : Src)
  | fclass (p : Prec) (d : SReg) (a : Src)
  | fsgn (f : SgnF) (p : Prec) (d : SReg) (a b : Src)
  | frint (x : Bool) (p : Prec) (r : Rnd) (d : SReg) (a : Src)
  -- descriptors, tasks, memory, stitched tensors (R57)
  | tdset (t : TensorId) (k : KReg) (x : SReg)
  | tdget (d : SReg) (t : TensorId) (x : SReg)
  | tdgetVer (d : SReg) (t : TensorId)
  | taskCopy (d x : SReg) (a b : Src) (go : Bool)
  | taskGather (d : SReg) (t : TensorId) (x : SReg) (a b : Src) (go : Bool)
  | taskScatter (d : SReg) (t : TensorId) (x : SReg) (a b : Src) (go : Bool)
  | taskScatterAdd (d : SReg) (t : TensorId) (x : SReg) (a b : Src) (go : Bool)
  | taskReduce (d x : SReg) (a b : Src) (go : Bool)
  | taskCollective (d x : SReg) (a b : Src) (go : Bool)
  | taskMigratePage (d x : SReg) (a b : Src) (go : Bool)
  | tdep (a b : Src)
  | tdepGo (a : Src)
  | ld (z : Size) (sx rlx : Bool) (d : SReg) (m : MemI)
  | ldIndexed (z : Size) (sx rlx : Bool) (d : SReg) (m : MemX)
  | ldPostinc (z : Size) (sx rlx : Bool) (d : SReg) (m : MemX)
  | st (z : Size) (rlx : Bool) (d : SReg) (m : MemI)
  | stIndexed (z : Size) (rlx : Bool) (d : SReg) (m : MemX)
  | stPostinc (z : Size) (rlx : Bool) (d : SReg) (m : MemX)
  | ldb (sx : Bool) (d : SReg) (m : MemX)
  | stb (d : SReg) (m : MemX)
  | lds (f : LdsMode) (d : SReg) (m : MemI)
  | ldsIndexed (f : LdsMode) (d : SReg) (m : MemX)
  | sts (f : StsMode) (d : SReg) (m : MemI)
  | stsIndexed (f : StsMode) (d : SReg) (m : MemX)
  | amo (f : AmoF) (wide : Bool) (d : SReg) (m : MemA) (a b : Src)
  | fence (sc : Scope)
  | ldv (rlx : Bool) (v : VReg) (m : MemI)
  | ldvIndexed (rlx : Bool) (v : VReg) (m : MemX)
  | stv (rlx : Bool) (v : VReg) (m : MemI)
  | stvIndexed (rlx : Bool) (v : VReg) (m : MemX)
  | kld (k : KReg) (m : MemI)
  | kldIndexed (k : KReg) (m : MemX)
  | kst (k : KReg) (m : MemI)
  | kstIndexed (k : KReg) (m : MemX)
  | knarrow (d : KReg) (k : KSrc) (off len mask : Src)
  | kinfo (f : KInfoF) (d : SReg) (k : KSrc)
  | spliceIns (d : SReg) (t : TensorId) (x : SReg) (k : KSrc) (b : Src)
  | spliceRem (d : SReg) (t : TensorId) (x : SReg)
  | spliceRep (d : SReg) (t : TensorId) (x : SReg) (k : KSrc) (b : Src)
  | spin (d : SReg) (t : TensorId)
  | spinUn (t : TensorId) (x : SReg)
  -- messages, threads, tracks (R58)
  | send (p : SReg) (n : BitVec 3) (a b : Src)
  | recv (d : SReg)
  | nsend (d : SReg) (p : Port)
  | nrecv (d : SReg) (p : Port)
  | spawn (d : SReg) (spread : Bool) (cnt rng args q : Src) (e : BTarget)
  | cancel (l : Lvl) (a : Src)
  | join (l : Lvl) (a : Src)
  | migr (d : SReg)
  | hclm (d : SReg) (t : TrackId)
  | hclmAny (d : SReg)
  | hrel (t : TrackId)
  | hseek (t : TrackId) (p : BitVec 8)
  | hseekReg (t : TrackId) (s : SReg)
  | hrds (t : TrackId) (v : VReg) (nb : Bool) (step : BitVec 6)
  | hwrs (t : TrackId) (v : Src) (step : BitVec 6)
  | hrwd (t : TrackId)
  | hrwdR (t : TrackId)
  | hpos (d : SReg) (t : TrackId)
  | hfill (t : TrackId) (v : Src) (step : BitVec 6) (a : Src)
  | rret (d : SReg) (v : Src)
  | rtbl (a b : Src)
  | rtblRm (a : Src)
  -- array class (R59)
  | abind (t : TileId) (ty : ETy)
  | abindOff
  | asave (t : TileId) (m : MemI)
  | asaveIndexed (t : TileId) (m : MemX)
  | aload (t : TileId) (m : MemI)
  | aloadIndexed (t : TileId) (m : MemX)
  | azero (t : TileId) (first : BitVec 5) (count : BitVec 6)
  | mcfg (a : Src)
  | mldw (tr : Bool) (src : ASrc) (t : TensorId) (x : SReg)
  | mswap
  | mma (ow : Bool) (src : ASrc) (d : TileId) (t : TensorId) (x : SReg)
  | vadd (sc : Bool) (d : VReg) (a b : Src)
  | vaddTv2 (sc : Bool) (d : VReg) (a b : Src) (m : Mods)
  | vsub (sc : Bool) (d : VReg) (a b : Src)
  | vsubTv2 (sc : Bool) (d : VReg) (a b : Src) (m : Mods)
  | vmul (sc : Bool) (d : VReg) (a b : Src)
  | vmulTv2 (sc : Bool) (d : VReg) (a b : Src) (m : Mods)
  | vfma (f : FmaF) (d : VReg) (a b c : Src) (m : Mods)
  | vminmax (f : MinMaxF) (d : VReg) (a b : Src)
  | vminmaxTv2 (f : MinMaxF) (d : VReg) (a b : Src) (m : ModsQ)
  | vcmp (r : VRel) (d : VReg) (a b : Src)
  | vcmpTv2 (r : VRel) (d : VReg) (a b : Src) (m : ModsQ)
  | vsel (d : VReg) (a b c : Src) (m : ModsQ)
  | vcvt (src : ETy) (d : VReg) (a : Src)
  | vcvtTv2 (src : ETy) (d : VReg) (a : Src) (p : BitVec 3) (m : Mods)
  | vred (f : RedF) (d : VReg) (a : Src)
  | vredTv2 (f : RedF) (d : VReg) (a : Src) (m : ModsQ)
  | vbcst (d : VReg) (a : Src)
  | vbcstLane (d : VReg) (a b : Src)
  | vperm (z : Bool) (d : VReg) (a b : Src)
  | vpermTv2 (z : Bool) (d : VReg) (a b : Src) (m : ModsQ)
  | vsfu (f : SfuF) (d : VReg) (a : Src)
  | vsfuTv2 (f : SfuF) (d : VReg) (a : Src) (m : ModsQ)
  | vlogic (f : LogicF) (d : VReg) (a b : Src)
  | vlogicTv2 (f : LogicF) (d : VReg) (a b : Src) (m : ModsQ)
  | vdq (d : VReg) (t : TensorId) (x : SReg)
  | vlane (d : SReg) (a b : Src)
  | vlaneImm (d : SReg) (a : Src) (lane : BitVec 5)
  | route (pol : Policy) (top2 : Bool) (t : TileId) (a b c : Src) (f32 : Bool)
  | dcvt (bf : Bool) (d : DReg) (a : Src)
  | dcvtToRow (bf : Bool) (d : DReg) (v : VReg)
  | ddot (sc : Bool) (d : SReg) (a b : DSrc)
  | dadd (sb : Bool) (d : DReg) (a b : DSrc)
  | dscl (neg : Bool) (d : DReg) (a : DSrc) (b : Src)
  -- steps of slots and the breakwater
  | spillStep (c : CoreId)
  | slotGrant (c : CoreId)
  | contextWritten (c : CoreId) (s : SlotId)
  | drainingComplete (c : CoreId) (s : SlotId)
  | threadWake (c : CoreId) (s : SlotId)
  | breakwaterEvaluation (c : CoreId) (tempC : Nat) (powerMw : Nat) (hottest : Bool)
  | thermalRankingRewrite (p : BitVec 6) (ranking : List CoreId)
  -- steps of memory and the network
  | clusterPortTranslation (r : Nat)
  | pageTableWalk (r : Nat)
  | pageRequestEntry (die : BitVec 3)
  | pageFaultService (die : BitVec 3) (idx : Nat) (ans : PagerAnswer)
  | perform (r : Nat)
  | syncRetry (r : Nat)
  | accessReply (r : Nat)
  | fenceProbe (r : Nat)
  | probeEcho (r : Nat)
  | fetchAddCombine (r1 r2 : Nat)
  | combinedReplySplit (r : Nat)
  | messageAcceptance (m : Nat)
  | bounceReturn (m : Nat)
  | retryNotice (m : Nat)
  | bounceRetransmit (m : Nat)
  | neighbourWordArrival (m : Nat)
  | reservationRequest (m : Nat)
  | reservationGrant (m : Nat)
  | reservationResend (m : Nat)
  | migrationPacketArrival (m : Nat)
  | windowStackRelease (m : Nat)
  -- steps of task nodes and table copies
  | nodeDispatch (cl : BitVec 9) (n : BitVec 10)
  | chunkStaging (cl : BitVec 9) (n : BitVec 10)
  | chunkCommit (cl : BitVec 9) (n : BitVec 10)
  | nodeDrainEnd (cl : BitVec 9) (n : BitVec 10)
  | descriptorUpdateApply (cl : BitVec 9)
  | berthTableUpdateApply (cl : BitVec 9)
  -- steps of the array, the special-function and directional units
  | mcfgRetire (c : CoreId)
  | mldwStart (c : CoreId)
  | mldwComplete (c : CoreId)
  | mswapExecute (c : CoreId)
  | mmaStart (c : CoreId)
  | mmaRowFill (c : CoreId)
  | vsfuStart (c : CoreId)
  | vsfuResult (c : CoreId) (i : Nat)
  | vdqFill (c : CoreId) (i : Nat)
  | directionalFill (c : CoreId) (i : Nat)
  -- steps of the tracks
  | shiftMoveStart (c : CoreId)
  | shiftMoveEnd (c : CoreId) (t : TrackId)
  | scrubComplete (c : CoreId) (t : TrackId)
  | recalibrationEnd (c : CoreId) (t : TrackId)
  -- steps of routing
  | routeRowSend (c : CoreId) (e : BitVec 3)
  | rowMessageArrival (m : Nat)
  | rowRefusal (m : Nat)
  | rowReturn (m : Nat)
  | tideDeadline (c : CoreId) (e : BitVec 3)
  -- control-register writes with a rule of their own
  | lvlctlSelect (s : SReg)
  | lvlctlOpen (s : SReg)
  | lvlctlSeal (s : SReg)
  | lvlctlFree (s : SReg)
  | wspWrite (s : SReg)
  | fsrWrite (s : SReg)
  | aownWrite (t : TileId) (s : SReg)
  | mownWrite (s : SReg)
  | hownWrite (t : TrackId) (s : SReg)
  | hownScrub (t : TrackId) (s : SReg)
  | qownWrite (s : SReg)
  | threadSuspension (c : CoreId) (s : SlotId)
  | suspbWrite (s : SReg)
  | worldWrite (s : SReg)
  | keyringDraw (t : BitVec 9)
  | keyringDiscard (t : BitVec 9)
  | keyringChangeDone
  -- reliability
  | pairCheckpoint (i : BitVec 12) (agree : Bool)
  | eccUncorrectableError (site : EccSite)
  | lvrRecord
  | lvrReplay
  -- paging commands and tables
  | translationInvalidate (t : BitVec 9) (base len : Nat)
  | translationInvalidateDone
  | dirtyMapTrack (frame : Nat)
  | dirtyMapRelease (frame : Nat)
  | placeTableWrite (p : BitVec 6) (place : CoreId) (v : Half)
  | partitionTableWrite (p : BitVec 6) (base len : Nat)
  | controlWindowWrite (master : BitVec 2) (off : Nat) (v : Word)
  -- host
  | cxlMemWrite (addr : HdmAddr) (data : List Byte)
  | cxlMemRead (addr : HdmAddr)
  | doorbell (master : BitVec 2) (ctx : BitVec 12) (slot : BitVec 4)
  | commandAcceptance (ctx : BitVec 12) (slot : BitVec 4)
  | launchCommand (seq : Nat) (images : LoadImages)
  | cancelCommand (seq : Nat)
  | levelCommand (seq : Nat)
  | queryCommand (seq : Nat)
  | heldLaunch
  | ownctlClaim (m : BitVec 2)
  | ownctlOffer (m dest : BitVec 2)
  | ownctlAccept (m : BitVec 2)
  | ownerLinkTimeout
  | heartbeat (w : BitVec 1)
  | takeOver (w : BitVec 1)
  | lockInterfaceRequest (ctx : BitVec 12)
  | getDeviceInterfaceReport (ctx : BitVec 12)
  | startInterfaceRequest (ctx : BitVec 12)
  | stopInterfaceRequest (ctx : BitVec 12)
  | frozenItemWrite (ctx : BitVec 12)
  | gildozaFlit (port : BitVec 7) (seq : Nat) (body : FabricBody)
  | powerOn (sigOk : Bool) (stPass : List Word)
  | warmReset (stPass : List Word)
  | dieOvertemperature (die : BitVec 3)
  | encodingFault (hcount head tail sub : Nat)
  | commandSlotWrite (master : BitVec 2) (ctx : BitVec 12) (slot : BitVec 4) (data : List Word)
  | hostLinkDown (m : BitVec 2)
  | hostLinkUp (m : BitVec 2)
  | configWrite (ctx : BitVec 12) (item : Nat) (v : Word)
  deriving DecidableEq, Repr, Inhabited

end Sys2Proof
end

