-- ==== Sys2Proof/Decode.lean ====
section
/-! DEFINITION. Instruction words: tails (R33), fields (R38), the decoder of one head with its tails, total and refusing
by the fault of R40, the placement of heads and tails in a line (R25, R26), and after the decoder the encoder, written
from the same tables (R50 to R59). -/
namespace Sys2Proof

/-- An encoding fault of one head: SUB 0 to 5 and the TAIL number of R40 (0 for the head). -/
structure EncFault where
  sub  : Nat
  tail : Nat
  deriving DecidableEq, Repr, Inhabited

/-- The fields of a head (R28). -/
structure HeadW where
  op : BitVec 7
  tl : BitVec 2
  p  : Bool
  d  : BitVec 6
  deriving DecidableEq, Repr, Inhabited

def unpackHead (w : Half) : HeadW :=
  ⟨w.extractLsb' 9 7, w.extractLsb' 7 2, w.getLsbD 6, w.extractLsb' 0 6⟩

def packHead (h : HeadW) : Half := 
  BitVec.ofNat 16 (h.op.toNat * 512 + h.tl.toNat * 128 + h.p.toNat * 64 + h.d.toNat)

/-- TR, TV and TF tails (R33); in a TF, `f` holds precision and rounding. -/
structure TR where
  a  : BitVec 5
  b  : BitVec 5
  wa : Bool
  wb : Bool
  f  : BitVec 4
  deriving DecidableEq, Repr, Inhabited

def unpackTR (w : Half) : TR :=
  ⟨w.extractLsb' 11 5, w.extractLsb' 6 5, w.getLsbD 5, w.getLsbD 4, w.extractLsb' 0 4⟩

def packTR (t : TR) : Half := 
  BitVec.ofNat 16 (t.a.toNat * 2048 + t.b.toNat * 64 + t.wa.toNat * 32 + t.wb.toNat * 16 + t.f.toNat)

/-- TM tail (R33, R35). -/
structure TM where
  x    : BitVec 5
  key  : BitVec 3
  rlx  : Bool
  wx   : Bool
  size : BitVec 2
  sx   : Bool
  mode : BitVec 3
  deriving DecidableEq, Repr, Inhabited

def unpackTM (w : Half) : TM :=
  ⟨w.extractLsb' 11 5, w.extractLsb' 8 3, w.getLsbD 7, w.getLsbD 6, w.extractLsb' 4 2, w.getLsbD 3, w.extractLsb' 0 3⟩

def packTM (t : TM) : Half :=
  BitVec.ofNat 16 (t.x.toNat * 2048 + t.key.toNat * 256 + t.rlx.toNat * 128 + t.wx.toNat * 64 + t.size.toNat * 16
    + t.sx.toNat * 8 + t.mode.toNat)

/-- TV2 tail (R33, R37). -/
structure TV2 where
  c   : BitVec 5
  wc  : Bool
  sat : Bool
  ovr : BitVec 3
  hi  : BitVec 3
  lo  : BitVec 3
  deriving DecidableEq, Repr, Inhabited

def unpackTV2 (w : Half) : TV2 :=
  ⟨w.extractLsb' 11 5, w.getLsbD 10, w.getLsbD 9, w.extractLsb' 6 3, w.extractLsb' 3 3, w.extractLsb' 0 3⟩

def packTV2 (t : TV2) : Half :=
  BitVec.ofNat 16 (t.c.toNat * 2048 + t.wc.toNat * 1024 + t.sat.toNat * 512 + t.ovr.toNat * 64 + t.hi.toNat * 8
    + t.lo.toNat)

/-- TX tail (R33). -/
structure TX where
  t : TensorId
  x : SReg
  f : BitVec 3
  deriving DecidableEq, Repr, Inhabited

def unpackTX (w : Half) : TX := ⟨w.extractLsb' 8 8, w.extractLsb' 3 5, w.extractLsb' 0 3⟩

def packTX (t : TX) : Half := BitVec.ofNat 16 (t.t.toNat * 256 + t.x.toNat * 8 + t.f.toNat)

/-- A branch immediate (R32). -/
def unpackBT (w : Half) : BTarget := ⟨w.extractLsb' 5 11, w.extractLsb' 0 5⟩

def packBT (t : BTarget) : Half := BitVec.ofNat 16 (t.delta.toNat * 32 + t.index.toNat)

/-! ## Codes of the tables, each with its inverse -/

def AddF.code : AddF → BitVec 4 | .wrap => 0 | .satS => 1 | .satU => 2 | .word => 4
def AddF.ofCode (c : BitVec 4) : Option AddF :=
  if c = 0 then some .wrap else if c = 1 then some .satS else if c = 2 then some .satU
  else if c = 4 then some .word else none

def MulhF.code : MulhF → BitVec 4 | .ss => 0 | .uu => 1 | .su => 2
def MulhF.ofCode (c : BitVec 4) : Option MulhF :=
  if c = 0 then some .ss else if c = 1 then some .uu else if c = 2 then some .su else none

def Rel.code : Rel → BitVec 4 | .eq => 0 | .ne => 1 | .lt => 2 | .ge => 3 | .ltu => 4 | .geu => 5 | .tst => 6
def Rel.ofCode (c : BitVec 4) : Option Rel :=
  if c = 0 then some .eq else if c = 1 then some .ne else if c = 2 then some .lt else if c = 3 then some .ge
  else if c = 4 then some .ltu else if c = 5 then some .geu else if c = 6 then some .tst else none

def FmaF.code : FmaF → BitVec 4 | .pp => 0 | .pm => 1 | .mp => 2 | .mm => 3
def FmaF.ofCode (c : BitVec 4) : Option FmaF :=
  if c = 0 then some .pp else if c = 1 then some .pm else if c = 2 then some .mp
  else if c = 3 then some .mm else none

def MinMaxF.code : MinMaxF → BitVec 4 | .min => 0 | .max => 1 | .minnum => 2 | .maxnum => 3
def MinMaxF.ofCode (c : BitVec 4) : Option MinMaxF :=
  if c = 0 then some .min else if c = 1 then some .max else if c = 2 then some .minnum
  else if c = 3 then some .maxnum else none

def FCmpF.code : FCmpF → BitVec 4 | .eq => 0 | .lt => 1 | .le => 2 | .un => 3 | .ltq => 4 | .leq => 5
def FCmpF.ofCode (c : BitVec 4) : Option FCmpF :=
  if c = 0 then some .eq else if c = 1 then some .lt else if c = 2 then some .le else if c = 3 then some .un
  else if c = 4 then some .ltq else if c = 5 then some .leq else none

def CvtK.code : CvtK → BitVec 5
  | .ff => 0 | .toI64 => 1 | .toU64 => 2 | .toI32 => 3 | .toU32 => 4 | .ofI64 => 5 | .ofU64 => 6
def CvtK.ofCode (c : BitVec 5) : Option CvtK :=
  if c = 0 then some .ff else if c = 1 then some .toI64 else if c = 2 then some .toU64
  else if c = 3 then some .toI32 else if c = 4 then some .toU32 else if c = 5 then some .ofI64
  else if c = 6 then some .ofU64 else none

def SgnF.code : SgnF → BitVec 4 | .cp => 0 | .cpn => 1 | .xor => 2
def SgnF.ofCode (c : BitVec 4) : Option SgnF :=
  if c = 0 then some .cp else if c = 1 then some .cpn else if c = 2 then some .xor else none

def RMode.code : RMode → BitVec 3 | .rne => 0 | .rtz => 1 | .rdn => 2 | .rup => 3 | .rna => 4
def Rnd.code : Rnd → BitVec 3 | .fixed m => m.code | .dyn => 7
def RMode.ofCode (c : BitVec 3) : Option RMode :=
  if c = 0 then some .rne else if c = 1 then some .rtz else if c = 2 then some .rdn
  else if c = 3 then some .rup else if c = 4 then some .rna else none
def Rnd.ofCode (c : BitVec 3) : Option Rnd :=
  if c = 7 then some .dyn else (RMode.ofCode c).map .fixed

def Prec.code : Prec → Bool | .d => false | .s => true
def Prec.ofCode (b : Bool) : Prec := if b then .s else .d

def Size.code : Size → BitVec 2 | .b8 => 0 | .b16 => 1 | .b32 => 2 | .b64 => 3
def Size.ofCode (c : BitVec 2) : Size :=
  if c = 0 then .b8 else if c = 1 then .b16 else if c = 2 then .b32 else .b64

def LdsMode.code : LdsMode → BitVec 2 | .full => 0 | .take => 1 | .any => 2 | .state => 3
def LdsMode.ofCode (c : BitVec 2) : LdsMode :=
  if c = 0 then .full else if c = 1 then .take else if c = 2 then .any else .state

def StsMode.code : StsMode → BitVec 2 | .fill => 0 | .set => 1 | .clear => 2
def StsMode.ofCode (c : BitVec 2) : Option StsMode :=
  if c = 0 then some .fill else if c = 1 then some .set else if c = 2 then some .clear else none

def AmoF.code : AmoF → BitVec 4
  | .add => 0 | .swap => 1 | .cas => 2 | .and => 3 | .or => 4 | .xor => 5
  | .min => 6 | .max => 7 | .minu => 8 | .maxu => 9
def AmoF.ofCode (c : BitVec 4) : Option AmoF :=
  if c = 0 then some .add else if c = 1 then some .swap else if c = 2 then some .cas
  else if c = 3 then some .and else if c = 4 then some .or else if c = 5 then some .xor
  else if c = 6 then some .min else if c = 7 then some .max else if c = 8 then some .minu
  else if c = 9 then some .maxu else none

def KInfoF.code : KInfoF → BitVec 4
  | .base => 0 | .limit => 1 | .rights => 2 | .tenant => 3 | .place => 4 | .tag => 5
def KInfoF.ofCode (c : BitVec 4) : Option KInfoF :=
  if c = 0 then some .base else if c = 1 then some .limit else if c = 2 then some .rights
  else if c = 3 then some .tenant else if c = 4 then some .place else if c = 5 then some .tag else none

def Lvl.code : Lvl → BitVec 4 | .launch => 0 | .graph => 1 | .phase => 2 | .job => 3
def Lvl.ofCode (c : BitVec 4) : Option Lvl :=
  if c = 0 then some .launch else if c = 1 then some .graph else if c = 2 then some .phase
  else if c = 3 then some .job else none

def Scope.code : Scope → BitVec 6 | .core => 0 | .cluster => 1 | .package => 2 | .system => 3
def Scope.ofCode (c : BitVec 6) : Option Scope :=
  if c = 0 then some .core else if c = 1 then some .cluster else if c = 2 then some .package
  else if c = 3 then some .system else none

def Port.code : Port → Half | .n => 0 | .e => 1 | .s => 2 | .w => 3
def Port.ofCode (c : Half) : Option Port :=
  if c = 0 then some .n else if c = 1 then some .e else if c = 2 then some .s else if c = 3 then some .w else none

def ASrc.code : ASrc → BitVec 2 | .tile => 0 | .track => 1 | .ls => 2
def ASrc.ofCode (c : BitVec 2) : Option ASrc :=
  if c = 0 then some .tile else if c = 1 then some .track else if c = 2 then some .ls else none

def VRel.code : VRel → BitVec 4 | .eq => 0 | .ne => 1 | .lt => 2 | .le => 3 | .un => 4
def VRel.ofCode (c : BitVec 4) : Option VRel :=
  if c = 0 then some .eq else if c = 1 then some .ne else if c = 2 then some .lt else if c = 3 then some .le
  else if c = 4 then some .un else none

def RedF.code : RedF → BitVec 4 | .sum => 0 | .min => 1 | .max => 2 | .and => 3 | .or => 4 | .xor => 5
def RedF.ofCode (c : BitVec 4) : Option RedF :=
  if c = 0 then some .sum else if c = 1 then some .min else if c = 2 then some .max else if c = 3 then some .and
  else if c = 4 then some .or else if c = 5 then some .xor else none

def SfuF.code : SfuF → BitVec 4
  | .rcp => 0 | .rsqrt => 1 | .sqrt => 2 | .exp2 => 3 | .log2 => 4 | .exp => 5 | .tanh => 6 | .sigm => 7
def SfuF.ofCode (c : BitVec 4) : Option SfuF :=
  if c = 0 then some .rcp else if c = 1 then some .rsqrt else if c = 2 then some .sqrt
  else if c = 3 then some .exp2 else if c = 4 then some .log2 else if c = 5 then some .exp
  else if c = 6 then some .tanh else if c = 7 then some .sigm else none

def LogicF.code : LogicF → BitVec 4
  | .and => 0 | .or => 1 | .xor => 2 | .andn => 3 | .not => 4 | .shl => 5 | .shr => 6 | .sar => 7
def LogicF.ofCode (c : BitVec 4) : Option LogicF :=
  if c = 0 then some .and else if c = 1 then some .or else if c = 2 then some .xor else if c = 3 then some .andn
  else if c = 4 then some .not else if c = 5 then some .shl else if c = 6 then some .shr
  else if c = 7 then some .sar else none

/-- ROUTE F: policy and top-2; NEXT with top-2 is reserved (R59, R394). -/
def routeCode (p : Policy) (t2 : Bool) : BitVec 4 :=
  (match p with | .drop => 0 | .pass => 1 | .next => 2) + (if t2 then 4 else 0)
def routeOfCode (c : BitVec 4) : Option (Policy × Bool) :=
  if c = 0 then some (.drop, false) else if c = 1 then some (.pass, false) else if c = 2 then some (.next, false)
  else if c = 4 then some (.drop, true) else if c = 5 then some (.pass, true) else none

/-- Element types, codes 0 to 9 (R235). -/
def ETy.code : ETy → BitVec 4
  | .f64 => 0 | .f32 => 1 | .bf16 => 2 | .f16 => 3 | .e4m3 => 4 | .e5m2 => 5 | .i32 => 6 | .i16 => 7 | .i8 => 8 | .i4 => 9
def ETy.ofCode (c : BitVec 4) : Option ETy :=
  if c = 0 then some .f64 else if c = 1 then some .f32 else if c = 2 then some .bf16 else if c = 3 then some .f16
  else if c = 4 then some .e4m3 else if c = 5 then some .e5m2 else if c = 6 then some .i32 else if c = 7 then some .i16
  else if c = 8 then some .i8 else if c = 9 then some .i4 else none

/-- Whether an element type is a floating one. -/
def ETy.isFloat : ETy → Bool
  | .f64 | .f32 | .bf16 | .f16 | .e4m3 | .e5m2 => true
  | .i32 | .i16 | .i8 | .i4 => false

/-- Type override codes (R37): E5M2, INT16 and INT4 have none. -/
def ovrCode : Option ETy → Option (BitVec 3)
  | none => some 0 | some .f64 => some 1 | some .f32 => some 2 | some .bf16 => some 3 | some .f16 => some 4
  | some .e4m3 => some 5 | some .i32 => some 6 | some .i8 => some 7
  | some .e5m2 => none | some .i16 => none | some .i4 => none
def ovrOfCode (c : BitVec 3) : Option ETy :=
  if c = 1 then some .f64 else if c = 2 then some .f32 else if c = 3 then some .bf16 else if c = 4 then some .f16
  else if c = 5 then some .e4m3 else if c = 6 then some .i32 else if c = 7 then some .i8 else none

/-! ## The decoder -/

/-- A value that must be present, else the fault `sub` at `tail`. -/
def need (sub tail : Nat) (o : Option α) : Except EncFault α :=
  match o with
  | some x => .ok x
  | none => .error ⟨sub, tail⟩

/-- A condition that must hold, else the fault `sub` at `tail`. -/
def req (sub tail : Nat) (b : Bool) : Except EncFault Unit := if b then .ok () else .error ⟨sub, tail⟩

/-- D as a register of each class (R38); D as a condition destination is below 8. -/
def sOfD (d : BitVec 6) : Option SReg := if d.toNat < 32 then some (d.setWidth 5) else none
def c8OfD (d : BitVec 6) : Option (BitVec 3) := if d.toNat < 8 then some (d.setWidth 3) else none
def cOfD (d : BitVec 6) : Option CReg := if d.toNat < 16 then some (d.setWidth 4) else none
def tileOfD (d : BitVec 6) : Option TileId := if d.toNat < 4 then some (d.setWidth 2) else none
def kOfA (a : BitVec 5) : Option KReg := if a.toNat < 8 then some (a.setWidth 3) else none
def dOfA (a : BitVec 5) : Option DReg := if a.toNat < 16 then some (a.setWidth 4) else none

/-- The tails of a head, in order; a tail that is not there reads as zero, so that SUB 4 is what shows (R40). -/
structure Tails where
  t1 : Half
  t2 : Half
  t3 : Half
  deriving DecidableEq, Repr, Inhabited

def TR.srcA (t : TR) : Src := ⟨t.a, t.wa⟩
def TR.srcB (t : TR) : Src := ⟨t.b, t.wb⟩
def TR.noA (t : TR) : Bool := t.a == 0 && !t.wa
def TR.noB (t : TR) : Bool := t.b == 0 && !t.wb

/-- TF bits [2:0] and [3] (R33, R36). -/
def TR.rnd (t : TR) : BitVec 3 := t.f.setWidth 3
def TR.prec (t : TR) : Prec := Prec.ofCode (t.f.getLsbD 3)

/-- `d := A op B` with an F code (TR(A,B)). -/
def decABf (ofCode : BitVec 4 → Option F) (mk : F → SReg → Src → Src → Instr) (h : HeadW) (w : Tails) :
    Except EncFault Instr := do
  let t := unpackTR w.t1
  let f ← need 1 1 (ofCode t.f)
  req 4 0 (h.tl == 1)
  let d ← need 5 0 (sOfD h.d)
  pure (mk f d t.srcA t.srcB)

/-- F 0 only. -/
def f0 (c : BitVec 4) : Option Unit := if c = 0 then some () else none
/-- F 0 or 1. -/
def f01 (c : BitVec 4) : Option Bool := if c = 0 then some false else if c = 1 then some true else none
/-- All 16 codes. -/
def fAll (c : BitVec 4) : Option (BitVec 4) := some c

def decShift (mk : SReg → Src → ShAmt → Instr) (h : HeadW) (w : Tails) : Except EncFault Instr := do
  let t := unpackTR w.t1
  req 1 1 (t.f == 0 || t.f == 1 || t.f == 2)
  req 4 0 (h.tl == 1)
  let d ← need 5 0 (sOfD h.d)
  req 5 1 (t.f == 0 || !t.wb)
  pure (mk d t.srcA (if t.f = 0 then .reg t.srcB
    else if t.f = 1 then .imm (BitVec.ofNat 6 t.b.toNat) else .imm (BitVec.ofNat 6 (32 + t.b.toNat))))

/-- TF(A,B) with a rounding code (R55). -/
def decTF (mk : Prec → Rnd → SReg → Src → Src → Instr) (h : HeadW) (w : Tails) : Except EncFault Instr := do
  let t := unpackTR w.t1
  let r ← need 2 1 (Rnd.ofCode t.rnd)
  req 4 0 (h.tl == 1)
  let d ← need 5 0 (sOfD h.d)
  pure (mk t.prec r d t.srcA t.srcB)

/-- TF(A,B) with a function code in bits [2:0] (R55). -/
def decTFf (ofCode : BitVec 4 → Option F) (mk : F → Prec → SReg → Src → Src → Instr) (h : HeadW) (w : Tails) :
    Except EncFault Instr := do
  let t := unpackTR w.t1
  let f ← need 1 1 (ofCode (t.rnd.setWidth 4))
  req 4 0 (h.tl == 1)
  let d ← need 5 0 (sOfD h.d)
  pure (mk f t.prec d t.srcA t.srcB)

/-- The number of tails a TM tail with its mode takes (R57). -/
def memTL (mode : BitVec 3) : BitVec 2 := if mode = 0 ∨ mode = 1 then 2 else 1

def TM.memI (t : TM) (imm : Half) : MemI :=
  if t.mode = 0 then .base t.key imm else .index t.key ⟨t.x, t.wx⟩ imm
def TM.memX (t : TM) : MemX := ⟨t.key, ⟨t.x, t.wx⟩⟩
/-- In mode 000, X and WX are unused and must be zero (R39, R57). -/
def TM.xOk (t : TM) : Bool := t.mode != 0 || (t.x == 0 && !t.wx)

/-- A memory operand of modes 000 to 010 on a row whose size must be 11 and whose sign-extend must be 0; `rlxOk` says
whether RLX may be set. -/
def decMem64 (rlxOk : Bool) (dOk : BitVec 6 → Bool) (mkI : Bool → BitVec 6 → MemI → Instr)
    (mkX : Bool → BitVec 6 → MemX → Instr) (h : HeadW) (w : Tails) : Except EncFault Instr := do
  let t := unpackTM w.t1
  req 3 1 (t.mode.toNat < 3)
  req 4 0 (h.tl == memTL t.mode)
  req 5 0 (dOk h.d)
  req 5 1 (t.size == 3 && !t.sx && (rlxOk || !t.rlx) && t.xOk)
  pure (if t.mode = 2 then mkX t.rlx h.d t.memX else mkI t.rlx h.d (t.memI w.t2))

def decLdSt (load : Bool) (h : HeadW) (w : Tails) : Except EncFault Instr := do
  let t := unpackTM w.t1
  req 3 1 (t.mode.toNat < 4)
  req 4 0 (h.tl == memTL t.mode)
  let d ← need 5 0 (sOfD h.d)
  req 5 1 (t.xOk && (!t.sx || (load && t.size != 3)) && !(load && t.mode == 3 && d == t.x))
  let z := Size.ofCode t.size
  pure (if load then
      if t.mode = 2 then .ldIndexed z t.sx t.rlx d t.memX
      else if t.mode = 3 then .ldPostinc z t.sx t.rlx d t.memX
      else .ld z t.sx t.rlx d (t.memI w.t2)
    else
      if t.mode = 2 then .stIndexed z t.rlx d t.memX
      else if t.mode = 3 then .stPostinc z t.rlx d t.memX
      else .st z t.rlx d (t.memI w.t2))

def decBits (load : Bool) (h : HeadW) (w : Tails) : Except EncFault Instr := do
  let t := unpackTM w.t1
  req 3 1 (t.mode == 4 || h.tl == 0)
  req 4 0 (h.tl == 1)
  let d ← need 5 0 (sOfD h.d)
  req 5 1 (t.size == 0 && !t.rlx && (load || !t.sx))
  pure (if load then .ldb t.sx d t.memX else .stb d t.memX)

def decLds (h : HeadW) (w : Tails) : Except EncFault Instr := do
  let t := unpackTM w.t1
  req 3 1 (t.mode.toNat < 3)
  req 4 0 (h.tl == memTL t.mode)
  let d ← need 5 0 (sOfD h.d)
  req 5 1 (!t.rlx && !t.sx && t.xOk)
  let f := LdsMode.ofCode t.size
  pure (if t.mode = 2 then .ldsIndexed f d t.memX else .lds f d (t.memI w.t2))

def decSts (h : HeadW) (w : Tails) : Except EncFault Instr := do
  let t := unpackTM w.t1
  req 3 1 (t.mode.toNat < 3)
  req 4 0 (h.tl == memTL t.mode)
  let d ← need 5 0 (sOfD h.d)
  req 5 1 (!t.rlx && !t.sx && t.xOk)
  let f ← need 5 1 (StsMode.ofCode t.size)
  pure (if t.mode = 2 then .stsIndexed f d t.memX else .sts f d (t.memI w.t2))

/-- `AMO` (R57). Its TR stands after `m`: at tail 2 where R57 gives m = 1 (modes 010 to 100), at tail 3 where it gives 2. A
reserved F there comes before the mode, as the lower SUB (R40). Modes 101 to 111 have no m, so no tail is read as a TR and
the mode alone is reported: the model's choice (log entry 91). -/
def decAmo (h : HeadW) (w : Tails) : Except EncFault Instr := do
  let t := unpackTM w.t1
  let x := decide (t.mode = 2)
  let one := decide (2 ≤ t.mode.toNat)
  let r := unpackTR (if one then w.t2 else w.t3)
  req 1 (if one then 2 else 3) (decide (5 ≤ t.mode.toNat) || (AmoF.ofCode r.f).isSome)
  req 3 1 (t.mode.toNat < 3)
  let f ← need 1 (if x then 2 else 3) (AmoF.ofCode r.f)
  req 4 0 (h.tl == (if x then 2 else 3))
  let d ← need 5 0 (sOfD h.d)
  req 5 1 (t.size.getLsbD 1 && !t.rlx && !t.sx && t.xOk)
  req 5 (if x then 2 else 3) (f == .cas || r.noB)
  pure (.amo f (t.size == 3) d (if x then .idx t.memX else .imm (t.memI w.t2)) r.srcA r.srcB)

def decTask (h : HeadW) (w : Tails) : Except EncFault Instr := do
  let x := unpackTX w.t1
  let r := unpackTR w.t2
  req 1 1 (x.f != 7)
  let go ← need 1 2 (f01 r.f)
  req 4 0 (h.tl == 2)
  let d ← need 5 0 (sOfD h.d)
  req 5 1 (x.f == 1 || x.f == 2 || x.f == 3 || x.t == 0)
  pure (if x.f = 0 then .taskCopy d x.x r.srcA r.srcB go
    else if x.f = 1 then .taskGather d x.t x.x r.srcA r.srcB go
    else if x.f = 2 then .taskScatter d x.t x.x r.srcA r.srcB go
    else if x.f = 3 then .taskScatterAdd d x.t x.x r.srcA r.srcB go
    else if x.f = 4 then .taskReduce d x.x r.srcA r.srcB go
    else if x.f = 5 then .taskCollective d x.x r.srcA r.srcB go
    else .taskMigratePage d x.x r.srcA r.srcB go)

def decSplice (h : HeadW) (w : Tails) : Except EncFault Instr := do
  let x := unpackTX w.t1
  let r := unpackTR w.t2
  req 1 1 (x.f.toNat < 3)
  req 1 2 (r.f == 0)
  req 4 0 (h.tl == 2)
  let d ← need 5 0 (sOfD h.d)
  let k ← need 5 2 (kOfA r.a)
  req 5 2 (x.f != 1 || (r.noA && r.noB))
  pure (if x.f = 0 then .spliceIns d x.t x.x ⟨k, r.wa⟩ r.srcB
    else if x.f = 1 then .spliceRem d x.t x.x
    else .spliceRep d x.t x.x ⟨k, r.wa⟩ r.srcB)

/-! ### Vector rows -/

/-- TL 1 stands for a TV2 with C, SAT and override 0 and rounding DYN (R59). -/
def TV2.mods (t : TV2) : Mods := ⟨t.sat, ovrOfCode t.ovr, t.lo⟩
def TV2.modsQ (t : TV2) : ModsQ := ⟨t.sat, ovrOfCode t.ovr⟩
def TV2.noC (t : TV2) : Bool := t.c == 0 && !t.wc

/-- The checks of R37, R59 and R277 that depend on the element type `t`: an F code the type forbids (SUB 1), a reserved
rounding code of a floating operation (SUB 2), SAT with a floating type and rounding bits under an integer type (SUB 5).
`rounds` says whether the operation rounds; `fOk` whether the type allows the F code. `tv2` is the TAIL of the modifiers.
`lo` is `none` for a row without rounding. -/
def typeFault (t : ETy) (fOk rounds sat : Bool) (lo : Option (BitVec 3)) (tv2 : Nat) : Option EncFault :=
  if !fOk then some ⟨1, 1⟩
  else if rounds && (lo == some 5 || lo == some 6) then some ⟨2, tv2⟩
  else if sat && t.isFloat then some ⟨5, tv2⟩
  else if !rounds && lo.getD 0 != 0 then some ⟨5, tv2⟩
  else none

/-- The type checks at decoding: only where an override fixes the type. -/
def reqTy (ovr : Option ETy) (k : ETy → Option EncFault) : Except EncFault Unit :=
  match ovr with
  | none => .ok ()
  | some t => match k t with
    | none => .ok ()
    | some e => .error e

/-- Whether an F code of each row suits an element type (R59, R291, R294, R296, R297). -/
def MinMaxF.okFor (f : MinMaxF) (t : ETy) : Bool := t.isFloat || f == .min || f == .max
def VRel.okFor (r : VRel) (t : ETy) : Bool := t.isFloat || r != .un
def RedF.okFor (f : RedF) (t : ETy) : Bool := !t.isFloat || f == .sum || f == .min || f == .max
def LogicF.okFor (f : LogicF) (t : ETy) : Bool := !t.isFloat || !(f == .shl || f == .shr || f == .sar)

/-- The check of SUB 1 and 2 that a type override brings forward, then the rest at SUB 5: R40 reports the lowest. -/
def reqTyLow (ovr : Option ETy) (k : ETy → Option EncFault) : Except EncFault Unit :=
  reqTy ovr fun t => match k t with
    | some e => if e.sub < 4 then some e else none
    | none => none

/-- Rows "TV(A,B), [TV2]" whose operation rounds. -/
def decV2r (mk1 : Bool → VReg → Src → Src → Instr) (mk2 : Bool → VReg → Src → Src → Mods → Instr) (h : HeadW)
    (w : Tails) : Except EncFault Instr := do
  let t := unpackTR w.t1
  let m := unpackTV2 w.t2
  let f ← need 1 1 (f01 t.f)
  let k := fun ty : ETy => typeFault ty true ty.isFloat m.sat (some m.lo) 2
  reqTyLow (ovrOfCode m.ovr) k
  req 4 0 (h.tl == 1 || h.tl == 2)
  let d ← need 5 0 (sOfD h.d)
  if h.tl == 1 then pure (mk1 f d t.srcA t.srcB)
  else do
    req 5 2 (m.noC && m.hi == 0)
    reqTy (ovrOfCode m.ovr) k
    pure (mk2 f d t.srcA t.srcB m.mods)

/-- Rows "TV(A,B), [TV2]" without rounding. `satOk`: the entry has `.sat`; without it SAT is a field the instruction does
not use (R39). -/
def decV2q (satOk : Bool) (ofCode : BitVec 4 → Option F) (okFor : F → ETy → Bool) (abOk : F → TR → Bool)
    (mk1 : F → VReg → TR → Instr) (mk2 : F → VReg → TR → ModsQ → Instr) (h : HeadW) (w : Tails) :
    Except EncFault Instr := do
  let t := unpackTR w.t1
  let m := unpackTV2 w.t2
  let f ← need 1 1 (ofCode t.f)
  let k := fun ty : ETy => typeFault ty (okFor f ty) false m.sat none 2
  reqTyLow (ovrOfCode m.ovr) k
  req 4 0 (h.tl == 1 || h.tl == 2)
  let d ← need 5 0 (sOfD h.d)
  req 5 1 (abOk f t)
  if h.tl == 1 then pure (mk1 f d t)
  else do
    req 5 2 (m.noC && m.hi == 0 && m.lo == 0 && (satOk || !m.sat))
    reqTy (ovrOfCode m.ovr) k
    pure (mk2 f d t m.modsQ)

def decVfma (h : HeadW) (w : Tails) : Except EncFault Instr := do
  let t := unpackTR w.t1
  let m := unpackTV2 w.t2
  let f ← need 1 1 (FmaF.ofCode t.f)
  let k := fun ty : ETy => typeFault ty true ty.isFloat m.sat (some m.lo) 2
  reqTyLow (ovrOfCode m.ovr) k
  req 4 0 (h.tl == 2)
  let d ← need 5 0 (sOfD h.d)
  req 5 2 (m.hi == 0)
  reqTy (ovrOfCode m.ovr) k
  pure (.vfma f d t.srcA t.srcB ⟨m.c, m.wc⟩ m.mods)

def decVsel (h : HeadW) (w : Tails) : Except EncFault Instr := do
  let t := unpackTR w.t1
  let m := unpackTV2 w.t2
  req 1 1 (t.f == 0)
  req 4 0 (h.tl == 2)
  let d ← need 5 0 (sOfD h.d)
  req 5 2 (m.hi == 0 && m.lo == 0 && !m.sat)
  pure (.vsel d t.srcA t.srcB ⟨m.c, m.wc⟩ m.modsQ)

/-- Lanes of a row by element type (R270). -/
def ETy.lanes : ETy → Nat
  | .f64 => 16
  | .f32 => 32
  | .bf16 => 64
  | .f16 => 64
  | .e4m3 => 128
  | .e5m2 => 128
  | .i32 => 32
  | .i16 => 64
  | .i8 => 128
  | .i4 => 256

/-- The part index of a `VCVT` (R292). -/
def partOk (src dst : ETy) (p : Nat) : Bool := p < max src.lanes dst.lanes / min src.lanes dst.lanes

/-- `VCVT` (R59, R292). From a floating source every conversion rounds, so its rounding code is checked here, whatever type
the binding gives. -/
def decVcvt (h : HeadW) (w : Tails) : Except EncFault Instr := do
  let t := unpackTR w.t1
  let m := unpackTV2 w.t2
  let s ← need 1 1 (ETy.ofCode t.f)
  let k := fun ty : ETy => typeFault ty true (s.isFloat || ty.isFloat) m.sat (some m.lo) 2
  req 2 2 (!(s.isFloat && (m.lo == 5 || m.lo == 6)))
  reqTyLow (ovrOfCode m.ovr) k
  req 4 0 (h.tl == 1 || h.tl == 2)
  let d ← need 5 0 (sOfD h.d)
  req 5 1 t.noB
  if h.tl == 1 then pure (.vcvt s d t.srcA)
  else do
    req 5 2 m.noC
    reqTy (ovrOfCode m.ovr) fun ty => if partOk s ty m.hi.toNat then k ty else some ⟨5, 2⟩
    pure (.vcvtTv2 s d t.srcA m.hi m.mods)

/-- `ROUTE` (R59, R394). R59 lets every row with a TV2 take a type override; R394 gives this row 000 and 010 alone. Another
override is a reserved value of the field, SUB 5: the model's choice (log entry 94). -/
def decRoute (h : HeadW) (w : Tails) : Except EncFault Instr := do
  let t := unpackTR w.t1
  let m := unpackTV2 w.t2
  let f ← need 1 1 (routeOfCode t.f)
  req 4 0 (h.tl == 2)
  let d ← need 5 0 (tileOfD h.d)
  req 5 2 (!m.sat && (m.ovr == 0 || m.ovr == 2) && m.hi == 0 && m.lo == 0)
  pure (.route f.1 f.2 d t.srcA t.srcB ⟨m.c, m.wc⟩ (m.ovr == 2))

/-! ### Track rows -/

/-- The signed step of a track instruction lies in −16 to 16 (R58). -/
def stepOk (s : BitVec 6) : Bool := decide (-16 ≤ s.toInt) && decide (s.toInt ≤ 16)
def TV2.step (t : TV2) : BitVec 6 := BitVec.ofNat 6 (t.hi.toNat * 8 + t.lo.toNat)

/-- One head with its tails (R50 to R59). Each row checks its fields in rising order of SUB (R40). Where several fields of
the head fail with the same SUB, R40 does not say which TAIL is shown: each row takes D before the tails and the tails in
their order, so the lowest TAIL is shown, the model's choice (log entry 90). -/
def decodeHead (h : HeadW) (w : Tails) : Except EncFault Instr :=
  let r := unpackTR w.t1
  let r2 := unpackTR w.t2
  let x := unpackTX w.t1
  match h.op.toNat with
  | 0x00 => .ok (.nop h.d ([w.t1, w.t2, w.t3].take h.tl.toNat))
  | 0x01 => do req 4 0 (h.tl == 1); req 5 0 (h.d == 0); pure (.br (unpackBT w.t1))
  | 0x02 => do
    req 4 0 (h.tl == 1); req 5 0 (!h.d.getLsbD 4)
    pure (.bc (h.d.getLsbD 5) (h.d.setWidth 4) (unpackBT w.t1))
  | 0x03 => do req 4 0 (h.tl == 0); let d ← need 5 0 (sOfD h.d); pure (.jmp d)
  | 0x04 => do req 4 0 (h.tl == 1); req 5 0 (h.d == 0); pure (.callw (unpackBT w.t1))
  | 0x05 => do req 4 0 (h.tl == 0); let d ← need 5 0 (sOfD h.d); pure (.callwx d)
  | 0x06 => do req 4 0 (h.tl == 0); req 5 0 (h.d == 0); pure .retw
  | 0x07 => do
    let i := h.d.getLsbD 5
    req 4 0 (h.tl == if i then 2 else 1)
    req 5 0 (!i || h.d.setWidth 5 == 0)
    pure (if i then .loopImm w.t2 (unpackBT w.t1) else .loop (h.d.setWidth 5) (unpackBT w.t1))
  | 0x08 => do req 4 0 (h.tl == 0); let c ← need 5 0 (cOfD h.d); pure (.park c)
  | 0x09 => do req 4 0 (h.tl == 0); req 5 0 (h.d == 0); pure .yield
  | 0x0A => do req 4 0 (h.tl == 0); req 5 0 (h.d == 0); pure .halt
  | 0x0B => do req 4 0 (h.tl == 1); req 5 0 (h.d == 0); pure (.trap w.t1)
  | 0x0C => do req 4 0 (h.tl == 0); req 5 0 (h.d == 0); pure .eret
  | 0x0D => do req 4 0 (h.tl == 0); req 5 0 (h.d == 0); pure .xret
  | 0x0E => do
    req 4 0 (h.tl == 1); let d ← need 5 0 (sOfD h.d); req 5 1 (w.t1.extractLsb' 12 4 == 0)
    pure (.csrr d (w.t1.setWidth 12))
  | 0x0F => do
    req 4 0 (h.tl == 1); let d ← need 5 0 (sOfD h.d); req 5 1 (w.t1.extractLsb' 12 4 == 0)
    pure (.csrw d (w.t1.setWidth 12))
  | 0x10 => decABf AddF.ofCode .add h w
  | 0x11 => decABf AddF.ofCode .sub h w
  | 0x12 => do
    let f ← need 1 1 (AddF.ofCode r.f)
    req 4 0 (h.tl == 2); let d ← need 5 0 (sOfD h.d); req 5 1 r.noB
    pure (.addi f d r.srcA w.t2)
  | 0x13 => decABf f0 (fun _ => .mul) h w
  | 0x14 => decABf MulhF.ofCode .mulh h w
  | 0x15 => decABf f01 .div h w
  | 0x16 => decABf f01 .rem h w
  | 0x17 => decABf f0 (fun _ => .and) h w
  | 0x18 => decABf f0 (fun _ => .or) h w
  | 0x19 => decABf f0 (fun _ => .xor) h w
  | 0x1A => decABf f0 (fun _ => .andn) h w
  | 0x1B => decShift .shl h w
  | 0x1C => decShift .shr h w
  | 0x1D => decShift .sar h w
  | 0x1E => decShift .rotr h w
  | 0x1F => decABf f01 .min h w
  | 0x20 => decABf f01 .max h w
  | 0x21 => do
    let f ← need 1 1 (Rel.ofCode r.f)
    req 4 0 (h.tl == 1); let d ← need 5 0 (c8OfD h.d)
    pure (.cmp f d r.srcA r.srcB)
  | 0x22 => do
    let f ← need 1 1 (Rel.ofCode r.f)
    req 4 0 (h.tl == 2); let d ← need 5 0 (c8OfD h.d); req 5 1 r.noB
    pure (.cmpi f d r.srcA w.t2)
  | 0x23 => decABf fAll (fun c d a b => .sel d a b c) h w
  | 0x24 => do req 4 0 (h.tl == 1); let d ← need 5 0 (sOfD h.d); pure (.li d w.t1)
  | 0x25 => do
    req 1 1 (r.f.toNat < 4)
    req 4 0 (h.tl == 2); let d ← need 5 0 (sOfD h.d); req 5 1 r.noB
    pure (.lih (r.f.setWidth 2) d r.srcA w.t2)
  | 0x26 => do
    let f ← need 1 1 (f01 r.f)
    req 4 0 (h.tl == 1); let d ← need 5 0 (sOfD h.d); req 5 1 r.noB
    pure (.clz f d r.srcA)
  | 0x27 => do
    req 1 1 (r.f == 0)
    req 4 0 (h.tl == 1); let d ← need 5 0 (sOfD h.d); req 5 1 r.noB
    pure (.popc d r.srcA)
  | 0x28 => do
    let f ← need 1 1 (f01 r.f)
    req 4 0 (h.tl == 2); let d ← need 5 0 (sOfD h.d); req 5 1 r.noB
    let pos : BitVec 6 := w.t2.setWidth 6
    let len : BitVec 7 := w.t2.extractLsb' 6 7
    req 5 2 (w.t2.extractLsb' 13 3 == 0 && 1 ≤ len.toNat && pos.toNat + len.toNat ≤ 64)
    pure (.bfx f d r.srcA pos len)
  | 0x29 => do
    req 1 1 (r.f == 0)
    req 4 0 (h.tl == 2); let d ← need 5 0 (sOfD h.d)
    let pos : BitVec 6 := w.t2.setWidth 6
    let len : BitVec 7 := w.t2.extractLsb' 6 7
    req 5 2 (w.t2.extractLsb' 13 3 == 0 && 1 ≤ len.toNat && pos.toNat + len.toNat ≤ 64)
    pure (.bfi d r.srcA r.srcB pos len)
  | 0x2A => decABf f01 .clmul h w
  | 0x2B => do
    let f ← need 1 1 (f01 r.f)
    req 4 0 (h.tl == 1)
    if f then do req 5 0 (h.d == 0); req 5 1 r.noB; pure (.movcWr r.srcA)
    else do let d ← need 5 0 (sOfD h.d); req 5 1 (r.noA && r.noB); pure (.movc d)
  | 0x2C => do
    req 1 1 (r.f.toNat < 3)
    req 4 0 (h.tl == 1); let d ← need 5 0 (sOfD h.d); req 5 1 r.noB
    pure (if r.f = 0 then .pair d r.srcA else if r.f = 1 then .pairOff d r.srcA else .pairSt d r.srcA)
  | 0x2D => decABf f0 (fun _ => .harvest) h w
  | 0x2E => do
    req 1 1 (r.f == 0)
    req 4 0 (h.tl == 1); let k ← need 5 0 (c8OfD h.d)
    pure (.xlw k r.srcA r.srcB)
  | 0x30 => decTF .fadd h w
  | 0x31 => decTF .fsub h w
  | 0x32 => decTF .fmul h w
  | 0x33 => decTF .fdiv h w
  | 0x34 => do
    let m ← need 2 1 (Rnd.ofCode r.rnd)
    req 4 0 (h.tl == 1); let d ← need 5 0 (sOfD h.d); req 5 1 r.noB
    pure (.fsqrt r.prec m d r.srcA)
  | 0x35 => do
    let f ← need 1 2 (FmaF.ofCode r2.f)
    let m ← need 2 1 (Rnd.ofCode r.rnd)
    req 4 0 (h.tl == 2); let d ← need 5 0 (sOfD h.d); req 5 2 r2.noB
    pure (.fma f r.prec m d r.srcA r.srcB r2.srcA)
  | 0x36 => decTFf MinMaxF.ofCode .fminmax h w
  | 0x37 => do
    let f ← need 1 1 (FCmpF.ofCode (r.rnd.setWidth 4))
    req 4 0 (h.tl == 1); let d ← need 5 0 (c8OfD h.d)
    pure (.fcmp f r.prec d r.srcA r.srcB)
  | 0x38 => do
    let k ← need 1 1 (CvtK.ofCode r.b)
    let m ← need 2 1 (Rnd.ofCode r.rnd)
    req 4 0 (h.tl == 1); let d ← need 5 0 (sOfD h.d); req 5 1 (!r.wb)
    pure (.fcvt k r.prec m d r.srcA)
  | 0x39 => do
    req 1 1 (r.rnd == 0)
    req 4 0 (h.tl == 1); let d ← need 5 0 (sOfD h.d); req 5 1 r.noB
    pure (.fclass r.prec d r.srcA)
  | 0x3A => decTFf SgnF.ofCode .fsgn h w
  | 0x3B => do
    let m ← need 2 1 (Rnd.ofCode r.rnd)
    req 4 0 (h.tl == 1); let d ← need 5 0 (sOfD h.d); req 5 1 (r.b.toNat < 2 && !r.wb)
    pure (.frint (r.b == 0) r.prec m d r.srcA)
  | 0x3C => do
    req 1 1 (x.f == 0)
    req 4 0 (h.tl == 1); let k ← need 5 0 (c8OfD h.d)
    pure (.tdset x.t k x.x)
  | 0x3D => do
    req 1 1 (x.f.toNat < 2)
    req 4 0 (h.tl == 1); let d ← need 5 0 (sOfD h.d); req 5 1 (x.f == 0 || x.x == 0)
    pure (if x.f = 0 then .tdget d x.t x.x else .tdgetVer d x.t)
  | 0x3E => decTask h w
  | 0x3F => do
    let f ← need 1 1 (f01 r.f)
    req 4 0 (h.tl == 1); req 5 0 (h.d == 0); req 5 1 (!f || r.noB)
    pure (if f then .tdepGo r.srcA else .tdep r.srcA r.srcB)
  | 0x40 => decLdSt true h w
  | 0x41 => decLdSt false h w
  | 0x42 => decBits true h w
  | 0x43 => decBits false h w
  | 0x44 => decLds h w
  | 0x45 => decSts h w
  | 0x46 => decAmo h w
  | 0x47 => do req 4 0 (h.tl == 0); let s ← need 5 0 (Scope.ofCode h.d); pure (.fence s)
  | 0x48 => decMem64 true (·.toNat < 32) (fun l d m => .ldv l (d.setWidth 5) m)
      (fun l d m => .ldvIndexed l (d.setWidth 5) m) h w
  | 0x49 => decMem64 true (·.toNat < 32) (fun l d m => .stv l (d.setWidth 5) m)
      (fun l d m => .stvIndexed l (d.setWidth 5) m) h w
  | 0x4A => decMem64 false (·.toNat < 8) (fun _ d m => .kld (d.setWidth 3) m)
      (fun _ d m => .kldIndexed (d.setWidth 3) m) h w
  | 0x4B => decMem64 false (·.toNat < 8) (fun _ d m => .kst (d.setWidth 3) m)
      (fun _ d m => .kstIndexed (d.setWidth 3) m) h w
  | 0x4C => do
    req 1 1 (r.f == 0); req 1 2 (r2.f == 0)
    req 4 0 (h.tl == 2); let d ← need 5 0 (c8OfD h.d); let k ← need 5 1 (kOfA r.a)
    pure (.knarrow d ⟨k, r.wa⟩ r.srcB r2.srcA r2.srcB)
  | 0x4D => do
    let f ← need 1 1 (KInfoF.ofCode r.f)
    req 4 0 (h.tl == 1); let d ← need 5 0 (sOfD h.d); let k ← need 5 1 (kOfA r.a); req 5 1 r.noB
    pure (.kinfo f d ⟨k, r.wa⟩)
  | 0x4E => decSplice h w
  | 0x4F => do
    req 1 1 (x.f.toNat < 2)
    req 4 0 (h.tl == 1)
    if x.f = 0 then do let d ← need 5 0 (sOfD h.d); req 5 1 (x.x == 0); pure (.spin d x.t)
    else do req 5 0 (h.d == 0); pure (.spinUn x.t x.x)
  | 0x50 => do
    req 1 1 (r.f.toNat < 8)
    req 4 0 (h.tl == 1); let d ← need 5 0 (sOfD h.d)
    req 5 1 (if r.f = 0 then r.noA else r.a.toNat + r.f.toNat ≤ 32)
    pure (.send d (r.f.setWidth 3) r.srcA r.srcB)
  | 0x51 => do req 4 0 (h.tl == 0); req 5 0 (h.d.toNat ≤ 24); pure (.recv (h.d.setWidth 5))
  | 0x52 => do
    req 4 0 (h.tl == 1); let d ← need 5 0 (sOfD h.d); let p ← need 5 1 (Port.ofCode w.t1); pure (.nsend d p)
  | 0x53 => do
    req 4 0 (h.tl == 1); let d ← need 5 0 (sOfD h.d); let p ← need 5 1 (Port.ofCode w.t1); pure (.nrecv d p)
  | 0x54 => do
    let f ← need 1 1 (f01 r.f); req 1 2 (r2.f == 0)
    req 4 0 (h.tl == 3); let d ← need 5 0 (sOfD h.d); req 5 2 (r2.a.toNat ≤ 28)
    pure (.spawn d f r.srcA r.srcB r2.srcA r2.srcB (unpackBT w.t3))
  | 0x55 => do
    let l ← need 1 1 (Lvl.ofCode r.f)
    req 4 0 (h.tl == 1); req 5 0 (h.d == 0); req 5 1 r.noB; pure (.cancel l r.srcA)
  | 0x56 => do
    let l ← need 1 1 (Lvl.ofCode r.f)
    req 4 0 (h.tl == 1); req 5 0 (h.d == 0); req 5 1 r.noB; pure (.join l r.srcA)
  | 0x57 => do req 4 0 (h.tl == 0); let d ← need 5 0 (sOfD h.d); pure (.migr d)
  | 0x58 => do
    req 4 0 (h.tl == 1); let d ← need 5 0 (sOfD h.d)
    req 5 1 (w.t1.extractLsb' 7 9 == 0 && (!w.t1.getLsbD 6 || w.t1.extractLsb' 0 6 == 0))
    pure (if w.t1.getLsbD 6 then .hclmAny d else .hclm d (w.t1.setWidth 6))
  | 0x59 => do req 4 0 (h.tl == 0); pure (.hrel h.d)
  | 0x5A => do
    req 4 0 (h.tl == 1)
    req 5 1 (w.t1.extractLsb' 8 7 == 0 && (!w.t1.getLsbD 15 || w.t1.extractLsb' 5 3 == 0))
    pure (if w.t1.getLsbD 15 then .hseekReg h.d (w.t1.setWidth 5) else .hseek h.d (w.t1.setWidth 8))
  | 0x5B => do
    let m := unpackTV2 w.t1
    req 4 0 (h.tl == 1); req 5 1 (!m.sat && m.ovr == 0 && stepOk m.step)
    pure (.hrds h.d m.c m.wc m.step)
  | 0x5C => do
    let m := unpackTV2 w.t1
    req 4 0 (h.tl == 1); req 5 1 (!m.sat && m.ovr == 0 && stepOk m.step)
    pure (.hwrs h.d ⟨m.c, m.wc⟩ m.step)
  | 0x5D => do
    req 4 0 (h.tl == 1); req 5 1 (w.t1.toNat < 2)
    pure (if w.t1 = 0 then .hrwd h.d else .hrwdR h.d)
  | 0x5E => do
    req 4 0 (h.tl == 1); let d ← need 5 0 (sOfD h.d); req 5 1 (w.t1.toNat < 64)
    pure (.hpos d (w.t1.setWidth 6))
  | 0x5F => do
    let m := unpackTV2 w.t1
    req 1 2 (r2.f == 0)
    req 4 0 (h.tl == 2); req 5 1 (!m.sat && m.ovr == 0 && stepOk m.step); req 5 2 r2.noB
    pure (.hfill h.d ⟨m.c, m.wc⟩ m.step r2.srcA)
  | 0x60 => do
    req 4 0 (h.tl == 1)
    req 5 0 (if w.t1.getLsbD 4 then h.d == 0 else h.d.toNat < 4)
    req 5 1 (w.t1.extractLsb' 5 11 == 0 && (!w.t1.getLsbD 4 || w.t1.extractLsb' 0 4 == 0))
    let ty ← need 5 1 (ETy.ofCode (w.t1.setWidth 4))
    pure (if w.t1.getLsbD 4 then .abindOff else .abind (h.d.setWidth 2) ty)
  | 0x61 => decMem64 false (·.toNat < 4) (fun _ d m => .asave (d.setWidth 2) m)
      (fun _ d m => .asaveIndexed (d.setWidth 2) m) h w
  | 0x62 => decMem64 false (·.toNat < 4) (fun _ d m => .aload (d.setWidth 2) m)
      (fun _ d m => .aloadIndexed (d.setWidth 2) m) h w
  | 0x63 => do
    req 4 0 (h.tl == 1); let d ← need 5 0 (tileOfD h.d)
    let first : BitVec 5 := w.t1.setWidth 5
    let count : BitVec 6 := w.t1.extractLsb' 5 6
    req 5 1 (w.t1.extractLsb' 11 5 == 0 && 1 ≤ count.toNat && first.toNat + count.toNat ≤ 32)
    pure (.azero d first count)
  | 0x64 => do
    req 1 1 (r.f == 0)
    req 4 0 (h.tl == 1); req 5 0 (h.d == 0); req 5 1 r.noB; pure (.mcfg r.srcA)
  | 0x65 => do
    let s ← need 1 1 (ASrc.ofCode (x.f.extractLsb' 1 2))
    req 4 0 (h.tl == 1); req 5 0 (h.d == 0); pure (.mldw (x.f.getLsbD 0) s x.t x.x)
  | 0x66 => do req 4 0 (h.tl == 0); req 5 0 (h.d == 0); pure .mswap
  | 0x67 => do
    let s ← need 1 1 (ASrc.ofCode (x.f.extractLsb' 1 2))
    req 4 0 (h.tl == 1); let d ← need 5 0 (tileOfD h.d); pure (.mma (x.f.getLsbD 0) s d x.t x.x)
  | 0x68 => decV2r .vadd .vaddTv2 h w
  | 0x69 => decV2r .vsub .vsubTv2 h w
  | 0x6A => decV2r .vmul .vmulTv2 h w
  | 0x6B => decVfma h w
  | 0x6C => decV2q false MinMaxF.ofCode MinMaxF.okFor (fun _ _ => true) (fun f d t => .vminmax f d t.srcA t.srcB)
      (fun f d t m => .vminmaxTv2 f d t.srcA t.srcB m) h w
  | 0x6D => decV2q false VRel.ofCode VRel.okFor (fun _ _ => true) (fun f d t => .vcmp f d t.srcA t.srcB)
      (fun f d t m => .vcmpTv2 f d t.srcA t.srcB m) h w
  | 0x6E => decVsel h w
  | 0x6F => decVcvt h w
  | 0x70 => decV2q true RedF.ofCode RedF.okFor (fun _ t => t.noB) (fun f d t => .vred f d t.srcA)
      (fun f d t m => .vredTv2 f d t.srcA m) h w
  | 0x71 => do
    let f ← need 1 1 (f01 r.f)
    req 4 0 (h.tl == 1); let d ← need 5 0 (sOfD h.d); req 5 1 (f || r.noB)
    pure (if f then .vbcstLane d r.srcA r.srcB else .vbcst d r.srcA)
  | 0x72 => decV2q false f01 (fun _ _ => true) (fun _ _ => true) (fun f d t => .vperm f d t.srcA t.srcB)
      (fun f d t m => .vpermTv2 f d t.srcA t.srcB m) h w
  | 0x73 => decV2q false SfuF.ofCode (fun _ t => t.isFloat) (fun _ t => t.noB) (fun f d t => .vsfu f d t.srcA)
      (fun f d t m => .vsfuTv2 f d t.srcA m) h w
  | 0x74 => decV2q false LogicF.ofCode LogicF.okFor (fun f t => f != .not || t.noB)
      (fun f d t => .vlogic f d t.srcA t.srcB) (fun f d t m => .vlogicTv2 f d t.srcA t.srcB m) h w
  | 0x75 => do
    req 1 1 (x.f == 0)
    req 4 0 (h.tl == 1); let d ← need 5 0 (sOfD h.d); pure (.vdq d x.t x.x)
  | 0x76 => do
    let f ← need 1 1 (f01 r.f)
    req 4 0 (h.tl == 1); let d ← need 5 0 (sOfD h.d); req 5 1 (!f || !r.wb)
    pure (if f then .vlaneImm d r.srcA r.b else .vlane d r.srcA r.srcB)
  | 0x77 => decRoute h w
  | 0x78 => do
    req 1 1 (r.f.toNat < 4)
    req 4 0 (h.tl == 1); let d ← need 5 0 (cOfD h.d)
    req 5 1 (r.noB && (!r.f.getLsbD 0 || !r.wa))
    pure (if r.f.getLsbD 0 then .dcvtToRow (r.f.getLsbD 1) d r.a else .dcvt (r.f.getLsbD 1) d r.srcA)
  | 0x79 => do
    let f ← need 1 1 (f01 r.f)
    req 4 0 (h.tl == 1); let d ← need 5 0 (sOfD h.d); let a ← need 5 1 (dOfA r.a); let b ← need 5 1 (dOfA r.b)
    pure (.ddot f d ⟨a, r.wa⟩ ⟨b, r.wb⟩)
  | 0x7A => do
    let f ← need 1 1 (f01 r.f)
    req 4 0 (h.tl == 1); let d ← need 5 0 (cOfD h.d); let a ← need 5 1 (dOfA r.a); let b ← need 5 1 (dOfA r.b)
    pure (.dadd f d ⟨a, r.wa⟩ ⟨b, r.wb⟩)
  | 0x7B => do
    let f ← need 1 1 (f01 r.f)
    req 4 0 (h.tl == 1); let d ← need 5 0 (cOfD h.d); let a ← need 5 1 (dOfA r.a)
    pure (.dscl f d ⟨a, r.wa⟩ r.srcB)
  | 0x7C => do
    req 1 1 (r.f == 0)
    req 4 0 (h.tl == 1); let d ← need 5 0 (sOfD h.d); req 5 1 r.noB; pure (.rret d r.srcA)
  | 0x7D => do
    let f ← need 1 1 (f01 r.f)
    req 4 0 (h.tl == 1); req 5 0 (h.d == 0); req 5 1 (!f || r.noB)
    pure (if f then .rtblRm r.srcA else .rtbl r.srcA r.srcB)
  | _ => .error ⟨0, 0⟩

/-- A head halfword and the tails it has. -/
def decodeWords (head : Half) (tails : List Half) : Except EncFault Instr :=
  decodeHead (unpackHead head) ⟨tails.getD 0 0, tails.getD 1 0, tails.getD 2 0⟩

/-- Majors 0x60 to 0x7B are of the array class (R59). -/
def arrayClass (head : Half) : Bool :=
  let op := (unpackHead head).op.toNat
  0x60 ≤ op && op ≤ 0x7B

/-! ## Lines (R25 to R32) -/

/-- Halfword `i` of a line of 32. -/
def lineHalf (l : List Half) (i : Nat) : Half := l.getD i 0

/-- The head count h (R25). -/
def lineCount (l : List Half) : Nat := (lineHalf l 0).toNat / 2048

/-- Head `j` of a line, 1 to 31. -/
def lineHead (l : List Half) (j : Nat) : HeadW := unpackHead (lineHalf l j)

/-- The tails of heads 1 to `j` together. -/
def tailSum (l : List Half) : Nat → Nat
  | 0 => 0
  | j + 1 => tailSum l j + (lineHead l (j + 1)).tl.toNat

/-- The tails of head `j`, in order (R26). -/
def headTails (l : List Half) (j : Nat) : List Half :=
  (List.range (lineHead l j).tl.toNat).map fun k =>
    if tailSum l (j - 1) + k ≤ 31 then lineHalf l (31 - tailSum l (j - 1) - k) else 0

/-- The line faults of R27, lowest SUB first (R40). A data line (h = 0) has no heads and no tails, so halfwords 1 to 31 count
as its gap and a nonzero one is reported (SUB 13, or 12 for the header) before SUB 15: the model's choice, since R25
gives a data line no gap (log entry 89). -/
def lineFault (l : List Half) : Option Nat :=
  let h := lineCount l
  let t := tailSum l h
  if (lineHalf l 0).toNat % 2048 ≠ 0 then some 12
  else if (List.range (31 - t - h)).any (fun i => lineHalf l (h + 1 + i) != 0) then some 13
  else if h + t > 31 then some 14
  else if h = 0 then some 15
  else none

/-- Whether head `j` of a line starts a bundle: pairs are formed from head 1 on (R30, R32). -/
def startsBundle (l : List Half) : Nat → Bool
  | 0 => false
  | 1 => true
  | j + 2 => !(startsBundle l (j + 1) && (lineHead l (j + 1)).p)

/-- The check of a transfer's target in its line: SUB 10 for an index of 0 or above h, SUB 11 for a second head (R32). -/
def targetFault (l : List Half) (idx : Nat) : Option Nat :=
  if idx = 0 ∨ idx > lineCount l then some 10
  else if startsBundle l idx then none else some 11

/-- A destination for the rule that two heads of a bundle must not write one register (R31). -/
inductive Dest
  | s (n : Nat)
  | c (n : Nat)
  | k (n : Nat)
  | v (n : Nat)
  | d (n : Nat)
  deriving DecidableEq, Repr

/-- The registers an instruction names as destinations for R31; `s0` is none. -/
def Instr.dests : Instr → List Dest
  | .callw _ | .callwx _ => [.s 31]
  | .csrr d _ | .add _ d _ _ | .sub _ d _ _ | .addi _ d _ _ | .mul d _ _ | .mulh _ d _ _ | .div _ d _ _
  | .rem _ d _ _ | .and d _ _ | .or d _ _ | .xor d _ _ | .andn d _ _ | .shl d _ _ | .shr d _ _ | .sar d _ _
  | .rotr d _ _ | .min _ d _ _ | .max _ d _ _ | .sel d _ _ _ | .li d _ | .lih _ d _ _ | .clz _ d _ | .popc d _
  | .bfx _ d _ _ _ | .bfi d _ _ _ _ | .clmul _ d _ _ | .movc d | .pair d _ | .pairOff d _ | .pairSt d _
  | .harvest d _ _ | .fadd _ _ d _ _ | .fsub _ _ d _ _ | .fmul _ _ d _ _ | .fdiv _ _ d _ _ | .fsqrt _ _ d _
  | .fma _ _ _ d _ _ _ | .fminmax _ _ d _ _ | .fcvt _ _ _ d _ | .fclass _ d _ | .fsgn _ _ d _ _
  | .frint _ _ _ d _ | .tdget d _ _ | .tdgetVer d _ | .taskCopy d _ _ _ _ | .taskGather d _ _ _ _ _
  | .taskScatter d _ _ _ _ _ | .taskScatterAdd d _ _ _ _ _ | .taskReduce d _ _ _ _ | .taskCollective d _ _ _ _
  | .taskMigratePage d _ _ _ _ | .ld _ _ _ d _ | .ldIndexed _ _ _ d _ | .ldb _ d _ | .lds _ d _
  | .ldsIndexed _ d _ | .amo _ _ d _ _ _ | .kinfo _ d _ | .spliceIns d _ _ _ _ | .spliceRem d _ _
  | .spliceRep d _ _ _ _ | .spin d _ | .nrecv d _ | .spawn d _ _ _ _ _ _ | .hclm d _ | .hclmAny d
  | .hpos d _ | .vlane d _ _ | .vlaneImm d _ _ | .ddot _ d _ _ => if d = 0 then [] else [.s d.toNat]
  | .ldPostinc _ _ _ d m => (if d = 0 then [] else [.s d.toNat]) ++ (if m.x.reg = 0 then [] else [.s m.x.reg.toNat])
  | .stPostinc _ _ _ m => if m.x.reg = 0 then [] else [.s m.x.reg.toNat]
  | .cmp _ d _ _ | .cmpi _ d _ _ | .fcmp _ _ d _ _ => [.c d.toNat]
  | .movcWr _ => (List.range 8).map .c
  | .kld k _ | .kldIndexed k _ | .knarrow k _ _ _ _ => [.k k.toNat]
  | .recv d => ((List.range 8).map fun i => Dest.s (d.toNat + i)).filter (· != Dest.s 0)
  | .ldv _ v _ | .ldvIndexed _ v _ | .hrds _ v _ _ | .vadd _ v _ _ | .vaddTv2 _ v _ _ _ | .vsub _ v _ _
  | .vsubTv2 _ v _ _ _ | .vmul _ v _ _ | .vmulTv2 _ v _ _ _ | .vfma _ v _ _ _ _ | .vminmax _ v _ _
  | .vminmaxTv2 _ v _ _ _ | .vcmp _ v _ _ | .vcmpTv2 _ v _ _ _ | .vsel v _ _ _ _ | .vcvt _ v _
  | .vcvtTv2 _ v _ _ _ | .vred _ v _ | .vredTv2 _ v _ _ | .vbcst v _ | .vbcstLane v _ _ | .vperm _ v _ _
  | .vpermTv2 _ v _ _ _ | .vsfu _ v _ | .vsfuTv2 _ v _ _ | .vlogic _ v _ _ | .vlogicTv2 _ v _ _ _ | .vdq v _ _
  | .dcvtToRow _ _ v => [.v v.toNat]
  | .dcvt _ d _ | .dadd _ d _ _ | .dscl _ d _ _ => [.d d.toNat]
  | _ => []

/-- The PC of the bundle after `n` heads of a line with head count `h` starting at `pc` (R29). -/
def nextPc (pc h n : Nat) : Nat :=
  if pc % 64 / 2 + n > h then pc - pc % 64 + 66 else pc + 2 * n

/-- The target of a branch immediate (R32). -/
def branchTarget (pc : Nat) (t : BTarget) : Nat :=
  ((pc - pc % 64 : Int) + 64 * t.delta.toInt + 2 * t.index.toNat).toNat

/-- The placement fault of a LOOP (R111): its end must not lie before the body's start, nor more than 255 lines after
it. `start` is the PC of the bundle after the LOOP's. -/
def loopPlaceOk (pc start : Nat) (e : BTarget) : Bool :=
  let t := (pc - pc % 64 : Int) + 64 * e.delta.toInt + 2 * e.index.toNat
  decide ((start : Int) ≤ t) && decide ((t - e.index.toNat * 2) - (start - start % 64 : Int) ≤ 255 * 64)

def Instr.placeOk (pc start : Nat) : Instr → Bool
  | .loop _ e => loopPlaceOk pc start e
  | .loopImm _ e => loopPlaceOk pc start e
  | _ => true

/-- A bundle read from its line: one head, or two with the second (R30). -/
inductive Bundle
  | one (i : Instr)
  | two (i j : Instr)
  deriving DecidableEq, Repr

/-- A fault of encoding: SUB, HEAD and TAIL of R40. -/
structure LineFault where
  sub  : Nat
  head : Nat
  tail : Nat
  deriving DecidableEq, Repr

/-- The bundle at head `idx` of a line at byte address `base`, or the fault that R31 and R40 report: the line's own
faults, then the first head's, then the second's with those of the pair. -/
def decodeBundle (l : List Half) (base idx : Nat) : Except LineFault Bundle :=
  match lineFault l with
  | some s => .error ⟨s, 0, 0⟩
  | none =>
    match targetFault l idx with
    | some s => .error ⟨s, idx, 0⟩
    | none =>
      let h := lineCount l
      let paired := (lineHead l idx).p && decide (idx < h)
      let pc := base + 2 * idx
      let start := nextPc pc h (if paired then 2 else 1)
      match decodeWords (lineHalf l idx) (headTails l idx) with
      | .error e => .error ⟨e.sub, idx, e.tail⟩
      | .ok i =>
        if !i.placeOk pc start then .error ⟨5, idx, 1⟩
        else if (lineHead l idx).p && idx == h then .error ⟨6, idx, 0⟩
        else if !paired then .ok (.one i)
        else
          match decodeWords (lineHalf l (idx + 1)) (headTails l (idx + 1)) with
          | .error e => .error ⟨e.sub, idx + 1, e.tail⟩
          | .ok j =>
            if !j.placeOk (pc + 2) start then .error ⟨5, idx + 1, 1⟩
            else if (lineHead l (idx + 1)).p && idx + 1 == h then .error ⟨6, idx + 1, 0⟩
            else if (lineHead l (idx + 1)).p then .error ⟨7, idx + 1, 0⟩
            else if arrayClass (lineHalf l idx) == arrayClass (lineHalf l (idx + 1)) then .error ⟨8, idx + 1, 0⟩
            else if i.dests.any (j.dests.contains ·) then .error ⟨9, idx + 1, 0⟩
            else .ok (.two i j)

/-! ## The opcode table's own numbering -/

/-- The instruction the decoder reads from the bits of an opcode-table row. The table writes a row as ONE number with
bit 0 its least significant bit and the head in the upper half of a 32-bit row (98_reader.md): the head is bits
[31:16] and the first tail bits [15:0]; a row of 16 bits is the head alone. Tails above the row's bits are zero. -/
def tableHead (nbits w : Nat) : Half := if nbits ≤ 16 then BitVec.ofNat 16 w else BitVec.ofNat 16 (w / 65536)

def tableTails (nbits w : Nat) : List Half :=
  [(if nbits ≤ 16 then 0 else BitVec.ofNat 16 w), 0, 0].take (unpackHead (tableHead nbits w)).tl.toNat

def decodeTableWord (nbits w : Nat) : Option Instr :=
  match decodeWords (tableHead nbits w) (tableTails nbits w) with
  | .ok i => some i
  | .error _ => none

/-! ## The encoder, from the same tables -/

/-- A head with P = 0 and its tails. -/
def headOf (op : BitVec 7) (d : BitVec 6) (tails : List Half) : List Half :=
  packHead ⟨op, BitVec.ofNat 2 tails.length, false, d⟩ :: tails

def tr (a b : Src) (f : BitVec 4) : Half := packTR ⟨a.reg, b.reg, a.wait, b.wait, f⟩
def tr1 (a : Src) (f : BitVec 4) : Half := packTR ⟨a.reg, 0, a.wait, false, f⟩
def tf (p : Prec) (c : BitVec 3) : BitVec 4 := BitVec.ofNat 4 (p.code.toNat * 8 + c.toNat)
def sD (d : SReg) : BitVec 6 := d.setWidth 6
def tx (t : TensorId) (x : SReg) (f : BitVec 3) : Half := packTX ⟨t, x, f⟩
def ti7 (len : BitVec 7) (pos : BitVec 6) : Half := BitVec.ofNat 16 (len.toNat * 64 + pos.toNat)
def mI (size : BitVec 2) (sx rlx : Bool) : MemI → List Half
  | .base k imm => [packTM ⟨0, k, rlx, false, size, sx, 0⟩, imm]
  | .index k x imm => [packTM ⟨x.reg, k, rlx, x.wait, size, sx, 1⟩, imm]
def mX (size : BitVec 2) (sx rlx : Bool) (mode : BitVec 3) (m : MemX) : List Half :=
  [packTM ⟨m.x.reg, m.key, rlx, m.x.wait, size, sx, mode⟩]
def mA (size : BitVec 2) : MemA → List Half
  | .imm m => mI size false false m
  | .idx m => mX size false false 2 m
def shTail (a : Src) : ShAmt → Half
  | .reg b => tr a b 0
  | .imm n => packTR ⟨a.reg, n.setWidth 5, a.wait, false, if n.getLsbD 5 then 2 else 1⟩
def ovr3 (o : Option ETy) : BitVec 3 := (ovrCode o).getD 0
def tv2 (c : Src) (m : Mods) : Half := packTV2 ⟨c.reg, c.wait, m.sat, ovr3 m.ovr, 0, m.rnd⟩
def tv2q (c : Src) (m : ModsQ) : Half := packTV2 ⟨c.reg, c.wait, m.sat, ovr3 m.ovr, 0, 0⟩
def noSrc : Src := ⟨0, false⟩
def stepTail (v : BitVec 5) (w : Bool) (s : BitVec 6) : Half :=
  packTV2 ⟨v, w, false, 0, s.extractLsb' 3 3, s.setWidth 3⟩
def taskW (f : BitVec 3) (d : SReg) (t : TensorId) (x : SReg) (a b : Src) (go : Bool) : List Half :=
  headOf 0x3E (sD d) [tx t x f, tr a b (if go then 1 else 0)]
def tArr (f : Bool) : BitVec 4 := if f then 1 else 0
def dS (d : DSrc) : Src := ⟨d.reg.setWidth 5, d.wait⟩
def kS (k : KSrc) : Src := ⟨k.reg.setWidth 5, k.wait⟩

/-- The words of an encoded instruction, head first, with P = 0; a step of an engine has none. -/
def encode : Instr → Option (List Half)
  | .nop d hs => some (headOf 0x00 d hs)
  | .br t => some (headOf 0x01 0 [packBT t])
  | .bc n c t => some (headOf 0x02 (BitVec.ofNat 6 (n.toNat * 32 + c.toNat)) [packBT t])
  | .jmp s => some (headOf 0x03 (sD s) [])
  | .callw t => some (headOf 0x04 0 [packBT t])
  | .callwx s => some (headOf 0x05 (sD s) [])
  | .retw => some (headOf 0x06 0 [])
  | .loop c e => some (headOf 0x07 (sD c) [packBT e])
  | .loopImm n e => some (headOf 0x07 0x20 [packBT e, n])
  | .park c => some (headOf 0x08 (c.setWidth 6) [])
  | .yield => some (headOf 0x09 0 [])
  | .halt => some (headOf 0x0A 0 [])
  | .trap n => some (headOf 0x0B 0 [n])
  | .eret => some (headOf 0x0C 0 [])
  | .xret => some (headOf 0x0D 0 [])
  | .csrr d n => some (headOf 0x0E (sD d) [n.setWidth 16])
  | .csrw s n => some (headOf 0x0F (sD s) [n.setWidth 16])
  | .add f d a b => some (headOf 0x10 (sD d) [tr a b f.code])
  | .sub f d a b => some (headOf 0x11 (sD d) [tr a b f.code])
  | .addi f d a imm => some (headOf 0x12 (sD d) [tr1 a f.code, imm])
  | .mul d a b => some (headOf 0x13 (sD d) [tr a b 0])
  | .mulh f d a b => some (headOf 0x14 (sD d) [tr a b f.code])
  | .div u d a b => some (headOf 0x15 (sD d) [tr a b (tArr u)])
  | .rem u d a b => some (headOf 0x16 (sD d) [tr a b (tArr u)])
  | .and d a b => some (headOf 0x17 (sD d) [tr a b 0])
  | .or d a b => some (headOf 0x18 (sD d) [tr a b 0])
  | .xor d a b => some (headOf 0x19 (sD d) [tr a b 0])
  | .andn d a b => some (headOf 0x1A (sD d) [tr a b 0])
  | .shl d a m => some (headOf 0x1B (sD d) [shTail a m])
  | .shr d a m => some (headOf 0x1C (sD d) [shTail a m])
  | .sar d a m => some (headOf 0x1D (sD d) [shTail a m])
  | .rotr d a m => some (headOf 0x1E (sD d) [shTail a m])
  | .min u d a b => some (headOf 0x1F (sD d) [tr a b (tArr u)])
  | .max u d a b => some (headOf 0x20 (sD d) [tr a b (tArr u)])
  | .cmp r d a b => some (headOf 0x21 (d.setWidth 6) [tr a b r.code])
  | .cmpi r d a imm => some (headOf 0x22 (d.setWidth 6) [tr1 a r.code, imm])
  | .sel d a b c => some (headOf 0x23 (sD d) [tr a b c])
  | .li d imm => some (headOf 0x24 (sD d) [imm])
  | .lih p d a imm => some (headOf 0x25 (sD d) [tr1 a (p.setWidth 4), imm])
  | .clz t d a => some (headOf 0x26 (sD d) [tr1 a (tArr t)])
  | .popc d a => some (headOf 0x27 (sD d) [tr1 a 0])
  | .bfx g d a pos len => some (headOf 0x28 (sD d) [tr1 a (tArr g), ti7 len pos])
  | .bfi d a b pos len => some (headOf 0x29 (sD d) [tr a b 0, ti7 len pos])
  | .clmul h d a b => some (headOf 0x2A (sD d) [tr a b (tArr h)])
  | .movc d => some (headOf 0x2B (sD d) [tr1 noSrc 0])
  | .movcWr a => some (headOf 0x2B 0 [tr1 a 1])
  | .pair d a => some (headOf 0x2C (sD d) [tr1 a 0])
  | .pairOff d a => some (headOf 0x2C (sD d) [tr1 a 1])
  | .pairSt d a => some (headOf 0x2C (sD d) [tr1 a 2])
  | .harvest d a b => some (headOf 0x2D (sD d) [tr a b 0])
  | .xlw k a b => some (headOf 0x2E (k.setWidth 6) [tr a b 0])
  | .fadd p r d a b => some (headOf 0x30 (sD d) [tr a b (tf p r.code)])
  | .fsub p r d a b => some (headOf 0x31 (sD d) [tr a b (tf p r.code)])
  | .fmul p r d a b => some (headOf 0x32 (sD d) [tr a b (tf p r.code)])
  | .fdiv p r d a b => some (headOf 0x33 (sD d) [tr a b (tf p r.code)])
  | .fsqrt p r d a => some (headOf 0x34 (sD d) [tr1 a (tf p r.code)])
  | .fma f p r d a b c => some (headOf 0x35 (sD d) [tr a b (tf p r.code), tr1 c f.code])
  | .fminmax f p d a b => some (headOf 0x36 (sD d) [tr a b (tf p (f.code.setWidth 3))])
  | .fcmp f p d a b => some (headOf 0x37 (d.setWidth 6) [tr a b (tf p (f.code.setWidth 3))])
  | .fcvt k p r d a => some (headOf 0x38 (sD d) [packTR ⟨a.reg, k.code, a.wait, false, tf p r.code⟩])
  | .fclass p d a => some (headOf 0x39 (sD d) [tr1 a (tf p 0)])
  | .fsgn f p d a b => some (headOf 0x3A (sD d) [tr a b (tf p (f.code.setWidth 3))])
  | .frint x p r d a => some (headOf 0x3B (sD d) [packTR ⟨a.reg, if x then 0 else 1, a.wait, false, tf p r.code⟩])
  | .tdset t k x => some (headOf 0x3C (k.setWidth 6) [tx t x 0])
  | .tdget d t x => some (headOf 0x3D (sD d) [tx t x 0])
  | .tdgetVer d t => some (headOf 0x3D (sD d) [tx t 0 1])
  | .taskCopy d x a b g => some (taskW 0 d 0 x a b g)
  | .taskGather d t x a b g => some (taskW 1 d t x a b g)
  | .taskScatter d t x a b g => some (taskW 2 d t x a b g)
  | .taskScatterAdd d t x a b g => some (taskW 3 d t x a b g)
  | .taskReduce d x a b g => some (taskW 4 d 0 x a b g)
  | .taskCollective d x a b g => some (taskW 5 d 0 x a b g)
  | .taskMigratePage d x a b g => some (taskW 6 d 0 x a b g)
  | .tdep a b => some (headOf 0x3F 0 [tr a b 0])
  | .tdepGo a => some (headOf 0x3F 0 [tr1 a 1])
  | .ld z sx rl d m => some (headOf 0x40 (sD d) (mI z.code sx rl m))
  | .ldIndexed z sx rl d m => some (headOf 0x40 (sD d) (mX z.code sx rl 2 m))
  | .ldPostinc z sx rl d m => some (headOf 0x40 (sD d) (mX z.code sx rl 3 m))
  | .st z rl d m => some (headOf 0x41 (sD d) (mI z.code false rl m))
  | .stIndexed z rl d m => some (headOf 0x41 (sD d) (mX z.code false rl 2 m))
  | .stPostinc z rl d m => some (headOf 0x41 (sD d) (mX z.code false rl 3 m))
  | .ldb sx d m => some (headOf 0x42 (sD d) (mX 0 sx false 4 m))
  | .stb d m => some (headOf 0x43 (sD d) (mX 0 false false 4 m))
  | .lds f d m => some (headOf 0x44 (sD d) (mI f.code false false m))
  | .ldsIndexed f d m => some (headOf 0x44 (sD d) (mX f.code false false 2 m))
  | .sts f d m => some (headOf 0x45 (sD d) (mI f.code false false m))
  | .stsIndexed f d m => some (headOf 0x45 (sD d) (mX f.code false false 2 m))
  | .amo f wide d m a b => some (headOf 0x46 (sD d) (mA (if wide then 3 else 2) m ++ [tr a b f.code]))
  | .fence s => some (headOf 0x47 s.code [])
  | .ldv rl v m => some (headOf 0x48 (sD v) (mI 3 false rl m))
  | .ldvIndexed rl v m => some (headOf 0x48 (sD v) (mX 3 false rl 2 m))
  | .stv rl v m => some (headOf 0x49 (sD v) (mI 3 false rl m))
  | .stvIndexed rl v m => some (headOf 0x49 (sD v) (mX 3 false rl 2 m))
  | .kld k m => some (headOf 0x4A (k.setWidth 6) (mI 3 false false m))
  | .kldIndexed k m => some (headOf 0x4A (k.setWidth 6) (mX 3 false false 2 m))
  | .kst k m => some (headOf 0x4B (k.setWidth 6) (mI 3 false false m))
  | .kstIndexed k m => some (headOf 0x4B (k.setWidth 6) (mX 3 false false 2 m))
  | .knarrow d k o l m => some (headOf 0x4C (d.setWidth 6) [tr (kS k) o 0, tr l m 0])
  | .kinfo f d k => some (headOf 0x4D (sD d) [tr1 (kS k) f.code])
  | .spliceIns d t x k b => some (headOf 0x4E (sD d) [tx t x 0, tr (kS k) b 0])
  | .spliceRem d t x => some (headOf 0x4E (sD d) [tx t x 1, tr1 noSrc 0])
  | .spliceRep d t x k b => some (headOf 0x4E (sD d) [tx t x 2, tr (kS k) b 0])
  | .spin d t => some (headOf 0x4F (sD d) [tx t 0 0])
  | .spinUn t x => some (headOf 0x4F 0 [tx t x 1])
  | .send p n a b => some (headOf 0x50 (sD p) [tr a b (n.setWidth 4)])
  | .recv d => some (headOf 0x51 (sD d) [])
  | .nsend d p => some (headOf 0x52 (sD d) [p.code])
  | .nrecv d p => some (headOf 0x53 (sD d) [p.code])
  | .spawn d sp c r g q e => some (headOf 0x54 (sD d) [tr c r (tArr sp), tr g q 0, packBT e])
  | .cancel l a => some (headOf 0x55 0 [tr1 a l.code])
  | .join l a => some (headOf 0x56 0 [tr1 a l.code])
  | .migr d => some (headOf 0x57 (sD d) [])
  | .hclm d t => some (headOf 0x58 (sD d) [t.setWidth 16])
  | .hclmAny d => some (headOf 0x58 (sD d) [0x0040])
  | .hrel t => some (headOf 0x59 t [])
  | .hseek t p => some (headOf 0x5A t [p.setWidth 16])
  | .hseekReg t s => some (headOf 0x5A t [BitVec.ofNat 16 (32768 + s.toNat)])
  | .hrds t v nb s => some (headOf 0x5B t [stepTail v nb s])
  | .hwrs t v s => some (headOf 0x5C t [stepTail v.reg v.wait s])
  | .hrwd t => some (headOf 0x5D t [0])
  | .hrwdR t => some (headOf 0x5D t [1])
  | .hpos d t => some (headOf 0x5E (sD d) [t.setWidth 16])
  | .hfill t v s a => some (headOf 0x5F t [stepTail v.reg v.wait s, tr1 a 0])
  | .rret d v => some (headOf 0x7C (sD d) [tr1 v 0])
  | .rtbl a b => some (headOf 0x7D 0 [tr a b 0])
  | .rtblRm a => some (headOf 0x7D 0 [tr1 a 1])
  | .abind t ty => some (headOf 0x60 (t.setWidth 6) [ty.code.setWidth 16])
  | .abindOff => some (headOf 0x60 0 [0x0010])
  | .asave t m => some (headOf 0x61 (t.setWidth 6) (mI 3 false false m))
  | .asaveIndexed t m => some (headOf 0x61 (t.setWidth 6) (mX 3 false false 2 m))
  | .aload t m => some (headOf 0x62 (t.setWidth 6) (mI 3 false false m))
  | .aloadIndexed t m => some (headOf 0x62 (t.setWidth 6) (mX 3 false false 2 m))
  | .azero t f c => some (headOf 0x63 (t.setWidth 6) [BitVec.ofNat 16 (c.toNat * 32 + f.toNat)])
  | .mcfg a => some (headOf 0x64 0 [tr1 a 0])
  | .mldw tr' s t x => some (headOf 0x65 0 [tx t x (BitVec.ofNat 3 (s.code.toNat * 2 + tr'.toNat))])
  | .mswap => some (headOf 0x66 0 [])
  | .mma ow s d t x => some (headOf 0x67 (d.setWidth 6) [tx t x (BitVec.ofNat 3 (s.code.toNat * 2 + ow.toNat))])
  | .vadd s d a b => some (headOf 0x68 (sD d) [tr a b (tArr s)])
  | .vaddTv2 s d a b m => some (headOf 0x68 (sD d) [tr a b (tArr s), tv2 noSrc m])
  | .vsub s d a b => some (headOf 0x69 (sD d) [tr a b (tArr s)])
  | .vsubTv2 s d a b m => some (headOf 0x69 (sD d) [tr a b (tArr s), tv2 noSrc m])
  | .vmul s d a b => some (headOf 0x6A (sD d) [tr a b (tArr s)])
  | .vmulTv2 s d a b m => some (headOf 0x6A (sD d) [tr a b (tArr s), tv2 noSrc m])
  | .vfma f d a b c m => some (headOf 0x6B (sD d) [tr a b f.code, tv2 c m])
  | .vminmax f d a b => some (headOf 0x6C (sD d) [tr a b f.code])
  | .vminmaxTv2 f d a b m => some (headOf 0x6C (sD d) [tr a b f.code, tv2q noSrc m])
  | .vcmp r d a b => some (headOf 0x6D (sD d) [tr a b r.code])
  | .vcmpTv2 r d a b m => some (headOf 0x6D (sD d) [tr a b r.code, tv2q noSrc m])
  | .vsel d a b c m => some (headOf 0x6E (sD d) [tr a b 0, tv2q c m])
  | .vcvt s d a => some (headOf 0x6F (sD d) [tr1 a s.code])
  | .vcvtTv2 s d a p m => some (headOf 0x6F (sD d) [tr1 a s.code,
      packTV2 ⟨0, false, m.sat, ovr3 m.ovr, p, m.rnd⟩])
  | .vred f d a => some (headOf 0x70 (sD d) [tr1 a f.code])
  | .vredTv2 f d a m => some (headOf 0x70 (sD d) [tr1 a f.code, tv2q noSrc m])
  | .vbcst d a => some (headOf 0x71 (sD d) [tr1 a 0])
  | .vbcstLane d a b => some (headOf 0x71 (sD d) [tr a b 1])
  | .vperm z d a b => some (headOf 0x72 (sD d) [tr a b (tArr z)])
  | .vpermTv2 z d a b m => some (headOf 0x72 (sD d) [tr a b (tArr z), tv2q noSrc m])
  | .vsfu f d a => some (headOf 0x73 (sD d) [tr1 a f.code])
  | .vsfuTv2 f d a m => some (headOf 0x73 (sD d) [tr1 a f.code, tv2q noSrc m])
  | .vlogic f d a b => some (headOf 0x74 (sD d) [tr a b f.code])
  | .vlogicTv2 f d a b m => some (headOf 0x74 (sD d) [tr a b f.code, tv2q noSrc m])
  | .vdq d t x => some (headOf 0x75 (sD d) [tx t x 0])
  | .vlane d a b => some (headOf 0x76 (sD d) [tr a b 0])
  | .vlaneImm d a l => some (headOf 0x76 (sD d) [packTR ⟨a.reg, l, a.wait, false, 1⟩])
  | .route p t2 t a b c f32 => some (headOf 0x77 (t.setWidth 6) [tr a b (routeCode p t2),
      packTV2 ⟨c.reg, c.wait, false, if f32 then 2 else 0, 0, 0⟩])
  | .dcvt bf d a => some (headOf 0x78 (d.setWidth 6) [tr1 a (if bf then 2 else 0)])
  | .dcvtToRow bf d v => some (headOf 0x78 (d.setWidth 6) [tr1 ⟨v, false⟩ (if bf then 3 else 1)])
  | .ddot s d a b => some (headOf 0x79 (sD d) [tr (dS a) (dS b) (tArr s)])
  | .dadd s d a b => some (headOf 0x7A (d.setWidth 6) [tr (dS a) (dS b) (tArr s)])
  | .dscl n d a b => some (headOf 0x7B (d.setWidth 6) [tr (dS a) b (tArr n)])
  | _ => none

/-- A line that holds one instruction: the header, its head, a zero gap and its tails downward (R25, R26). -/
def lineOf (words : List Half) : List Half :=
  match words with
  | [] => List.replicate 32 0
  | hd :: tails =>
    [(0x0800 : Half), hd] ++ List.replicate (30 - tails.length) 0 ++ tails.reverse

end Sys2Proof
end

