-- ==== Sys2Proof/Machine/Bits.lean ====
section
/-! DEFINITION. Bit fields, byte order (R3), packed lanes (R236), association lists and the sorted lists in which sparse
storage is held. -/
namespace Sys2Proof.Machine

/-- The field [hi:lo] of a word (R2). -/
def bits (w : Word) (hi lo : Nat) : Nat := w.toNat / 2 ^ lo % 2 ^ (hi + 1 - lo)

/-- The word with its field [hi:lo] replaced. -/
def setBits (w : Word) (hi lo v : Nat) : Word :=
  BitVec.ofNat 64 (w.toNat - bits w hi lo * 2 ^ lo + v % 2 ^ (hi + 1 - lo) * 2 ^ lo)

def word (n : Nat) : Word := BitVec.ofNat 64 n

/-- Bit `i` of a word as a Bool. -/
def bit (w : Word) (i : Nat) : Bool := w.getLsbD i

/-- `x` as a two's-complement number of `w` bits. -/
def sxN (w x : Nat) : Int :=
  let y := x % 2 ^ w
  if y < 2 ^ (w - 1) then y else (y : Int) - 2 ^ w

/-- The two's-complement encoding of an integer in `w` bits: `Wrap` of R7. -/
def wrapN (w : Nat) (x : Int) : Nat := (x % (2 ^ w : Int)).toNat

/-- `Sat` of R7 to a signed type of `w` bits, as an encoding. -/
def satS (w : Nat) (x : Int) : Nat :=
  if x < -(2 ^ (w - 1) : Int) then 2 ^ (w - 1)
  else if x ≥ 2 ^ (w - 1) then 2 ^ (w - 1) - 1
  else wrapN w x

/-- `Sat` of R7 to an unsigned type of `w` bits. -/
def satU (w : Nat) (x : Int) : Nat := if x < 0 then 0 else if x ≥ 2 ^ w then 2 ^ w - 1 else x.toNat

/-- A word sign-extended from its low `n` bits. -/
def signExt (n : Nat) (w : Word) : Word := BitVec.ofInt 64 (sxN n w.toNat)

/-- Byte `i` of a number, little-endian (R3). -/
def byteOf (x i : Nat) : Byte := BitVec.ofNat 8 (x / 2 ^ (8 * i))

/-- The number whose bytes are given, lowest first (R3). -/
def ofBytes : List Byte → Nat
  | [] => 0
  | b :: bs => b.toNat + 256 * ofBytes bs

/-- The low `n` bytes of a number, lowest first. -/
def toBytes (n x : Nat) : List Byte := (List.range n).map (byteOf x)

/-- Lane `j` of width `w` of a row (R236). -/
def lane (w : Nat) (r : Row) (j : Nat) : Nat := r.toNat / 2 ^ (w * j) % 2 ^ w

/-- A row from its lanes of width `w`, lane 0 first. -/
def ofLanes (w : Nat) (ls : List Nat) : Row :=
  BitVec.ofNat 1024 (ls.foldr (fun x acc => x % 2 ^ w + 2 ^ w * acc) 0)

def rowWord (r : Row) (i : Nat) : Word := BitVec.ofNat 64 (r.toNat / 2 ^ (64 * i))
def rowOfWords (ws : List Word) : Row := ofLanes 64 (ws.map BitVec.toNat)

/-- Row with its 64-bit word `i` replaced. -/
def setRowWord (r : Row) (i : Nat) (w : Word) : Row :=
  rowOfWords ((List.range 16).map fun j => if j = i then w else rowWord r j)

/-! ## Association lists -/

def aget [DecidableEq α] (l : List (α × β)) (k : α) : Option β :=
  match l with
  | [] => none
  | (k', v) :: r => if k' = k then some v else aget r k

def agetD [DecidableEq α] (l : List (α × β)) (k : α) (d : β) : β := (aget l k).getD d

def aset [DecidableEq α] (l : List (α × β)) (k : α) (v : β) : List (α × β) :=
  match l with
  | [] => [(k, v)]
  | (k', v') :: r => if k' = k then (k, v) :: r else (k', v') :: aset r k v

def adel [DecidableEq α] (l : List (α × β)) (k : α) : List (α × β) := l.filter fun p => p.1 ≠ k

/-! ## Sorted sparse storage: keys strictly rising -/

/-- Insert, replace or, with `none`, remove the entry of a key. -/
def put (l : List (Nat × β)) (k : Nat) (v : Option β) : List (Nat × β) :=
  match l with
  | [] => match v with
    | some x => [(k, x)]
    | none => []
  | (k', y) :: r =>
    if k < k' then (match v with | some x => (k, x) :: (k', y) :: r | none => (k', y) :: r)
    else if k = k' then (match v with | some x => (k, x) :: r | none => r)
    else (k', y) :: put r k v

/-- The entry of a key. -/
def look (l : List (Nat × β)) (k : Nat) : Option β :=
  match l with
  | [] => none
  | (k', y) :: r => if k = k' then some y else look r k

/-- A set of numbers in rising order: insert or remove. -/
def mark (l : List Nat) (k : Nat) (on : Bool) : List Nat :=
  match l with
  | [] => if on then [k] else []
  | k' :: r =>
    if k < k' then (if on then k :: k' :: r else k' :: r)
    else if k = k' then (if on then k :: r else r)
    else k' :: mark r k on

/-- Replace element `i` of a list. -/
def lset (l : List α) (i : Nat) (v : α) : List α := l.set i v

/-- The first element that satisfies `p`, and the list without it. -/
def takeFirst (p : α → Bool) : List α → Option (α × List α)
  | [] => none
  | x :: r => if p x then some (x, r) else
    match takeFirst p r with
    | some (y, r') => some (y, x :: r')
    | none => none

/-- The lowest number below `n` that satisfies `p`. -/
def lowest (n : Nat) (p : Nat → Bool) : Option Nat := (List.range n).find? p

end Sys2Proof.Machine
end

