-- ==== Sys2Proof/Machine/Float.lean ====
section
/-! DEFINITION. Floating point (R134 to R139, R237 to R241): formats, exact dyadic values, one rounding, NaN rules. A
result is an encoding with the set of exceptions it raises, bit 0 NX, 1 UF, 2 OF, 3 DZ, 4 NV, as in `FSR`[4:0]. -/
namespace Sys2Proof.Machine

/-- A binary format: exponent bits, precision with the hidden bit, and whether it is E4M3 (R238). -/
structure Fmt where
  eb : Nat
  p  : Nat
  e4 : Bool
  deriving DecidableEq, Repr

def fmtD : Fmt := ⟨11, 53, false⟩
def fmtS : Fmt := ⟨8, 24, false⟩
def fmtBf : Fmt := ⟨8, 8, false⟩
def fmtH : Fmt := ⟨5, 11, false⟩
def fmtE4 : Fmt := ⟨4, 4, true⟩
def fmtE5 : Fmt := ⟨5, 3, false⟩

def Fmt.bias (f : Fmt) : Nat := 2 ^ (f.eb - 1) - 1
def Fmt.width (f : Fmt) : Nat := f.eb + f.p
/-- The exponent of the unit in the last place of subnormals. -/
def Fmt.qmin (f : Fmt) : Int := 2 - (f.bias : Int) - f.p
/-- The encoding of the largest finite number, without sign. -/
def Fmt.maxBits (f : Fmt) : Nat := if f.e4 then 0x7E else (2 ^ f.eb - 1) * 2 ^ (f.p - 1) - 1
/-- The encoding of infinity, without sign (not E4M3). -/
def Fmt.infBits (f : Fmt) : Nat := (2 ^ f.eb - 1) * 2 ^ (f.p - 1)
def Fmt.quietBit (f : Fmt) : Nat := 2 ^ (f.p - 2)
/-- The default NaN (R137, R237, R238). -/
def Fmt.defNaN (f : Fmt) : Nat := if f.e4 then 0x7F else f.infBits + f.quietBit
def Fmt.signBit (f : Fmt) (s : Bool) : Nat := if s then 2 ^ (f.width - 1) else 0

abbrev Flags := BitVec 5
def flNX : Flags := 1
def flUF : Flags := 2
def flOF : Flags := 4
def flDZ : Flags := 8
def flNV : Flags := 16

/-- What an encoding stands for: a NaN with its fraction bits, an infinity, or (−1)^s · m · 2^e. -/
inductive FV
  | nan (s : Bool) (frac : Nat) (quiet : Bool)
  | inf (s : Bool)
  | fin (s : Bool) (m : Nat) (e : Int)
  deriving DecidableEq, Repr

def Fmt.decode (f : Fmt) (x : Nat) : FV :=
  let s := x / 2 ^ (f.width - 1) % 2 == 1
  let ex := x / 2 ^ (f.p - 1) % 2 ^ f.eb
  let fr := x % 2 ^ (f.p - 1)
  if f.e4 then
    if ex = 15 ∧ fr = 7 then .nan s 7 true
    else if ex = 0 then .fin s fr f.qmin
    else .fin s (fr + 8) (f.qmin + (ex - 1 : Nat))
  else if ex = 2 ^ f.eb - 1 then
    if fr = 0 then .inf s else .nan s fr (decide (f.quietBit ≤ fr))
  else if ex = 0 then .fin s fr f.qmin
  else .fin s (fr + 2 ^ (f.p - 1)) (f.qmin + (ex - 1 : Nat))

/-- The environment of an operation: rounding mode, `FSR.OSAT`, and whether tininess alone raises UF (R136). -/
structure FEnv where
  mode : RMode
  osat : Bool
  ufe  : Bool
  deriving DecidableEq, Repr

/-- An encoding and its exceptions. -/
structure FRes where
  val : Nat
  fl  : Flags
  deriving DecidableEq, Repr, Inhabited

/-- A magnitude of `q` units and `r` parts in `d` of one rounded to an integer number of units in a mode (R135). -/
def roundQ (mode : RMode) (s : Bool) (q r d : Nat) : Nat :=
  if r = 0 then q
  else match mode with
    | .rtz => q
    | .rdn => if s then q + 1 else q
    | .rup => if s then q else q + 1
    | .rne => if 2 * r < d then q else if 2 * r > d then q + 1 else q + q % 2
    | .rna => if 2 * r < d then q else q + 1

/-- m · 2^e as a number of units 2^q: quotient, remainder and divisor. -/
def scaleTo (m : Nat) (e q : Int) : Nat × Nat × Nat :=
  if q ≤ e then (m * 2 ^ (e - q).toNat, 0, 1)
  else let d := 2 ^ (q - e).toNat; (m / d, m % d, d)

/-- The number of bits of `m`. -/
def bitLen (m : Nat) : Nat := if m = 0 then 0 else m.log2 + 1

/-- The result of an infinite value in a format (R240 for E4M3). -/
def encInf (f : Fmt) (env : FEnv) (s : Bool) : FRes :=
  if f.e4 then ⟨f.signBit s + (if env.osat then 0x7E else 0x7F), flOF ||| flNX⟩
  else ⟨f.signBit s + f.infBits, 0⟩

/-- The overflow result (R136, R240). -/
def encOverflow (f : Fmt) (env : FEnv) (s : Bool) : FRes :=
  if f.e4 then encInf f env s
  else
    let toInf := match env.mode with
      | .rne | .rna => true
      | .rtz => false
      | .rdn => s
      | .rup => !s
    ⟨f.signBit s + (if toInf then f.infBits else f.maxBits), flOF ||| flNX⟩

/-- `Round` of R7: (−1)^s · m · 2^e rounded once to a format (R135, R136). -/
def roundFin (f : Fmt) (env : FEnv) (s : Bool) (m : Nat) (e : Int) : FRes :=
  if m = 0 then ⟨f.signBit s, 0⟩
  else
    let qu : Int := e + bitLen m - f.p
    let q : Int := max qu f.qmin
    let (a, r, d) := scaleTo m e q
    let n := roundQ env.mode s a r d
    let (au, ru, du) := scaleTo m e qu
    let nu := roundQ env.mode s au ru du
    let tiny := qu < f.qmin && !(nu == 2 ^ f.p && qu + 1 == f.qmin)
    let b := (q - f.qmin).toNat * 2 ^ (f.p - 1) + n
    if b > f.maxBits then encOverflow f env s
    else ⟨f.signBit s + b, (if r ≠ 0 then flNX else 0) ||| (if tiny && (r ≠ 0 || env.ufe) then flUF else 0)⟩

/-! ## NaN rules -/

/-- A NaN quieted in its own format. -/
def quietNaN (f : Fmt) (s : Bool) (frac : Nat) : Nat :=
  if f.e4 then f.signBit s + 0x7F
  else f.signBit s + f.infBits + (if f.quietBit ≤ frac then frac else frac + f.quietBit)

/-- The NaN an operation propagates: the first among its operands, quieted, with NV when any is signalling (R137). -/
def propNaN (f : Fmt) (l : List FV) : Option FRes :=
  let snan := l.any fun v => match v with | .nan _ _ q => !q | _ => false
  let first := l.find? fun v => match v with | .nan .. => true | _ => false
  match first with
  | some (.nan s fr _) => some ⟨quietNaN f s fr, if snan then flNV else 0⟩
  | _ => none

def invalid (f : Fmt) : FRes := ⟨f.defNaN, flNV⟩

/-- A NaN moved to another format: the payload keeps its high bits and is quieted (R157, R239). -/
def cvtNaN (src dst : Fmt) (s : Bool) (frac : Nat) (q : Bool) : FRes :=
  let fr := if src.p ≤ dst.p then frac * 2 ^ (dst.p - src.p) else frac / 2 ^ (src.p - dst.p)
  ⟨quietNaN dst s fr, if q then 0 else flNV⟩

/-! ## Exact sums and the operations -/

/-- (−1)^s · m as an integer. -/
def sgnInt (s : Bool) (m : Nat) : Int := if s then -(m : Int) else m

/-- The exact sum of two dyadic values, as a signed integer of units 2^e. -/
def addExact (s1 : Bool) (m1 : Nat) (e1 : Int) (s2 : Bool) (m2 : Nat) (e2 : Int) : Int × Int :=
  let e := min e1 e2
  (sgnInt s1 m1 * 2 ^ (e1 - e).toNat + sgnInt s2 m2 * 2 ^ (e2 - e).toNat, e)

/-- A sum rounded, with the sign of an exact zero as R138 states. -/
def roundSum (f : Fmt) (env : FEnv) (s1 : Bool) (m1 : Nat) (e1 : Int) (s2 : Bool) (m2 : Nat) (e2 : Int) : FRes :=
  let (n, e) := addExact s1 m1 e1 s2 m2 e2
  if n = 0 then
    let s := if m1 = 0 ∧ m2 = 0 ∧ s1 = s2 then s1 else env.mode == .rdn
    ⟨f.signBit s, 0⟩
  else roundFin f env (decide (n < 0)) n.natAbs e

/-- A + B on decoded operands. -/
def addV (f : Fmt) (env : FEnv) (a b : FV) : FRes :=
  match propNaN f [a, b] with
  | some r => r
  | none => match a, b with
    | .inf s, .inf t => if s = t then encInf f env s else invalid f
    | .inf s, _ => encInf f env s
    | _, .inf t => encInf f env t
    | .fin s m e, .fin t n d => roundSum f env s m e t n d
    | _, _ => invalid f

def negV : FV → FV
  | .nan s fr q => .nan s fr q
  | .inf s => .inf (!s)
  | .fin s m e => .fin (!s) m e

def fAdd (f : Fmt) (env : FEnv) (a b : Nat) : FRes := addV f env (f.decode a) (f.decode b)
def fSub (f : Fmt) (env : FEnv) (a b : Nat) : FRes := addV f env (f.decode a) (negV (f.decode b))

def mulV (f : Fmt) (env : FEnv) (a b : FV) : FRes :=
  match propNaN f [a, b] with
  | some r => r
  | none => match a, b with
    | .inf s, .inf t => encInf f env (s != t)
    | .inf s, .fin t m _ => if m = 0 then invalid f else encInf f env (s != t)
    | .fin t m _, .inf s => if m = 0 then invalid f else encInf f env (s != t)
    | .fin s m e, .fin t n d => roundFin f env (s != t) (m * n) (e + d)
    | _, _ => invalid f

def fMul (f : Fmt) (env : FEnv) (a b : Nat) : FRes := mulV f env (f.decode a) (f.decode b)

/-- m1·2^e1 ÷ (m2·2^e2) to more bits than any format needs, the last bit standing for what is below it. -/
def quotient (m1 : Nat) (e1 : Int) (m2 : Nat) (e2 : Int) : Nat × Int :=
  let k := 140 + bitLen m2
  let q := m1 * 2 ^ k / m2
  let r := m1 * 2 ^ k % m2
  (2 * q + (if r = 0 then 0 else 1), e1 - e2 - k - 1)

def fDiv (f : Fmt) (env : FEnv) (a b : Nat) : FRes :=
  let va := f.decode a
  let vb := f.decode b
  match propNaN f [va, vb] with
  | some r => r
  | none => match va, vb with
    | .inf _, .inf _ => invalid f
    | .inf s, .fin t _ _ => encInf f env (s != t)
    | .fin s _ _, .inf t => ⟨f.signBit (s != t), 0⟩
    | .fin s m e, .fin t n d =>
      if n = 0 then
        if m = 0 then invalid f
        else let r := encInf f env (s != t); ⟨r.val, r.fl ||| flDZ⟩
      else let (q, x) := quotient m e n d; roundFin f env (s != t) q x
    | _, _ => invalid f

/-- The integer square root, one bit at a time from bit `b`. -/
def isqrtGo (n : Nat) : Nat → Nat → Nat
  | 0, r => r
  | b + 1, r => isqrtGo n b (if (r + 2 ^ b) * (r + 2 ^ b) ≤ n then r + 2 ^ b else r)

def isqrt (n : Nat) : Nat := isqrtGo n (bitLen n / 2 + 1) 0

/-- √(m·2^e) to more bits than any format needs, with a sticky last bit. -/
def sqrtDy (m : Nat) (e : Int) : Nat × Int :=
  let k : Nat := 280 + (if (e - 280) % 2 = 0 then 0 else 1)
  let n := m * 2 ^ k
  let r := isqrt n
  (2 * r + (if r * r = n then 0 else 1), (e - k) / 2 - 1)

def fSqrt (f : Fmt) (env : FEnv) (a : Nat) : FRes :=
  match f.decode a with
  | .nan s fr q => ⟨quietNaN f s fr, if q then 0 else flNV⟩
  | .inf s => if s then invalid f else encInf f env false
  | .fin s m e =>
    if m = 0 then ⟨f.signBit s, 0⟩
    else if s then invalid f
    else let (r, x) := sqrtDy m e; roundFin f env false r x

/-- The four forms of R154. A propagated NaN from a negated operand has its sign inverted. -/
def fFma (f : Fmt) (env : FEnv) (form : FmaF) (a b c : Nat) : FRes :=
  let negP := form == .mp || form == .mm
  let negC := form == .pm || form == .mm
  let flipNaN : Bool → FV → FV := fun n v => match v with | .nan s fr q => .nan (s != n) fr q | v => v
  let va := f.decode a
  let vb := f.decode b
  let vc := f.decode c
  let zeroInf := match va, vb with
    | .inf _, .fin _ m _ => m == 0
    | .fin _ m _, .inf _ => m == 0
    | _, _ => false
  match propNaN f [flipNaN negP va, flipNaN negP vb, flipNaN negC vc] with
  | some r => ⟨r.val, if zeroInf then r.fl ||| flNV else r.fl⟩
  | none =>
    if zeroInf then invalid f
    else
      let vc := if negC then negV vc else vc
      match va, vb with
      | .fin s m e, .fin t n d =>
        (match vc with
        | .inf u => encInf f env u
        | .fin u k x => roundSum f env ((s != t) != negP) (m * n) (e + d) u k x
        | _ => invalid f)
      | .nan .., _ => invalid f
      | _, .nan .. => invalid f
      | _, _ =>
        let sa := match va with | .inf s => s | .fin s _ _ => s | .nan s _ _ => s
        let sb := match vb with | .inf s => s | .fin s _ _ => s | .nan s _ _ => s
        let p := (sa != sb) != negP
        (match vc with
        | .inf u => if u = p then encInf f env p else invalid f
        | _ => encInf f env p)

/-! ## Comparison -/

/-- The order of two decoded values that are not NaN: −1, 0, 1; zeros are equal. -/
def cmpV (a b : FV) : Int :=
  match a, b with
  | .inf s, .inf t => (if s then -1 else 1) - (if t then -1 else 1)
  | .inf s, _ => if s then -1 else 1
  | _, .inf t => if t then 1 else -1
  | .fin s m e, .fin t n d => let (x, _) := addExact s m e (!t) n d; x.sign
  | _, _ => 0

def FV.isNaN : FV → Bool | .nan .. => true | _ => false
def FV.isSNaN : FV → Bool | .nan _ _ q => !q | _ => false
def FV.sign : FV → Bool | .nan s _ _ => s | .inf s => s | .fin s _ _ => s

/-- The relations of R156 and R291, with whether they signal on any NaN. -/
def fCompare (f : Fmt) (rel : FCmpF) (a b : Nat) : Bool × Flags :=
  let va := f.decode a
  let vb := f.decode b
  let un := va.isNaN || vb.isNaN
  let sn := va.isSNaN || vb.isSNaN
  let sig := rel == .lt || rel == .le
  let fl : Flags := if sn || (sig && un) then flNV else 0
  let c := cmpV va vb
  (match rel with
    | .eq => !un && c == 0
    | .lt | .ltq => !un && c < 0
    | .le | .leq => !un && c ≤ 0
    | .un => un, fl)

/-- Minimum and maximum of R155, with −0 below +0. -/
def fMinMax (f : Fmt) (k : MinMaxF) (a b : Nat) : FRes :=
  let va := f.decode a
  let vb := f.decode b
  let sn : Flags := if va.isSNaN || vb.isSNaN then flNV else 0
  let num := k == .minnum || k == .maxnum
  if num && va.isNaN && !vb.isNaN then ⟨b, sn⟩
  else if num && vb.isNaN && !va.isNaN then ⟨a, sn⟩
  else match propNaN f [va, vb] with
    | some r => r
    | none =>
      let c := cmpV va vb
      let aLess := c < 0 || (c == 0 && va.sign && !vb.sign)
      let wantLess := k == .min || k == .minnum
      ⟨if aLess == wantLess then a else b, 0⟩

/-! ## Conversions -/

/-- Floating to floating (R157, R239, R240). -/
def fToF (src dst : Fmt) (env : FEnv) (a : Nat) : FRes :=
  match src.decode a with
  | .nan s fr q => cvtNaN src dst s fr q
  | .inf s => encInf dst env s
  | .fin s m e => roundFin dst env s m e

/-- A value rounded to an integer in a mode, and whether it changed. -/
def roundInt (mode : RMode) (s : Bool) (m : Nat) (e : Int) : Int × Bool :=
  let (q, r, d) := scaleTo m e 0
  (sgnInt s (roundQ mode s q r d), r ≠ 0)

/-- Floating to an integer of `w` bits (R157); the value is the encoding in `w` bits. -/
def fToInt (src : Fmt) (mode : RMode) (signed : Bool) (w : Nat) (a : Nat) : FRes :=
  let hi : Nat := if signed then 2 ^ (w - 1) - 1 else 2 ^ w - 1
  let lo : Int := if signed then -(2 ^ (w - 1) : Int) else 0
  match src.decode a with
  | .nan .. => ⟨hi, flNV⟩
  | .inf s => ⟨if s then wrapN w lo else hi, flNV⟩
  | .fin s m e =>
    let (n, ch) := roundInt mode s m e
    if n > hi then ⟨hi, flNV⟩
    else if n < lo then ⟨wrapN w lo, flNV⟩
    else ⟨wrapN w n, if ch then flNX else 0⟩

/-- Integer to floating (R157). -/
def intToF (dst : Fmt) (env : FEnv) (n : Int) : FRes := roundFin dst env (decide (n < 0)) n.natAbs 0

/-- Round to an integral value in the same format (R160). -/
def fRint (f : Fmt) (mode : RMode) (x : Bool) (a : Nat) : FRes :=
  match f.decode a with
  | .nan s fr q => ⟨quietNaN f s fr, if q then 0 else flNV⟩
  | .inf _ => ⟨a, 0⟩
  | .fin s m e =>
    if m = 0 ∨ 0 ≤ e then ⟨a, 0⟩
    else
      let (n, ch) := roundInt mode s m e
      let r := roundFin f ⟨mode, true, false⟩ s n.natAbs 0
      ⟨r.val, if ch && x then flNX else 0⟩

/-- One of the ten classes of R158. -/
def fClassify (f : Fmt) (a : Nat) : Nat :=
  match f.decode a with
  | .nan _ _ q => if q then 512 else 256
  | .inf s => if s then 1 else 128
  | .fin s m _ =>
    if m = 0 then (if s then 8 else 16)
    else if m < 2 ^ (f.p - 1) then (if s then 4 else 32)
    else if s then 2 else 64

/-- Sign injection (R159). -/
def fSign (f : Fmt) (k : SgnF) (a b : Nat) : Nat :=
  let sa := a / 2 ^ (f.width - 1) % 2 == 1
  let sb := b / 2 ^ (f.width - 1) % 2 == 1
  let s := match k with | .cp => sb | .cpn => !sb | .xor => sa != sb
  f.signBit s + a % 2 ^ (f.width - 1)

/-! ## Element types -/

/-- The width of an element (R235). -/
def etyWidth : ETy → Nat
  | .f64 => 64 | .f32 => 32 | .bf16 => 16 | .f16 => 16 | .e4m3 => 8 | .e5m2 => 8
  | .i32 => 32 | .i16 => 16 | .i8 => 8 | .i4 => 4

/-- The format of a floating element type. -/
def etyFmt : ETy → Fmt
  | .f64 => fmtD | .f32 => fmtS | .bf16 => fmtBf | .f16 => fmtH | .e4m3 => fmtE4 | .e5m2 => fmtE5
  | .i32 => fmtS | .i16 => fmtH | .i8 => fmtE4 | .i4 => fmtE4

def precFmt : Prec → Fmt | .d => fmtD | .s => fmtS

/-- Lanes of a row (R270). -/
def etyLanes (t : ETy) : Nat := 1024 / etyWidth t

end Sys2Proof.Machine
end

