-- ==== Sys2Proof/Config.lean ====
section
/-! DEFINITION. What the manual leaves open: free values with no body. Nothing in Lean can evaluate one, so a
statement that holds of the machine holds for every value of them. -/
namespace Sys2Proof.Config

/-- Which agent moves when the state names none (R76, R204, R213 and R432 fix no order between engines): a number
that `Step` reads as a choice among the moves of the moment. -/
opaque pick : Nat → Nat

/-- A word the manual leaves open, a fresh one for each value of the state's counter. -/
opaque freeWord : Nat → Word

/-- The identity word of the part, which the control window shows (R419). -/
opaque identity : Word

/-- What a read returns under another key state than the one it was written under (R404). -/
opaque scramble : Nat → Word → Word

/-- Which of the two neighbours of an exact value an approximate special function returns (R297, error below 1 ulp). -/
opaque roundUp : Nat → Bool

/-- Does a copy engine saturate on E4M3 overflow (R240, R361)? Engines have no `FSR`. -/
opaque engineOsat : Bool

end Sys2Proof.Config
end

