-- ==== Sys2Proof/Machine/State.lean ====
section
/-! DEFINITION. The state of a Colfeash module as plain data: threads, slots, cores, clusters, dies, partitions, device
memory, what is in flight between them, and the machine right after reset. -/
namespace Sys2Proof.Machine

/-! ## Registers -/

/-- Privilege levels (R141). -/
inductive Level | user | sup | mon
  deriving DecidableEq, Repr, Inhabited

/-- A fault tied to a register (R148) or to a thread (posted stores): the thread, the PC of the access or operation,
its cause, FLAGS, information, and the stores discarded after it. -/
structure Deferred where
  uid  : Nat
  pc   : Nat
  cause : Nat
  fl   : BitVec 5
  info : Word
  dcnt : Nat
  deriving DecidableEq, Repr, Inhabited

/-- The full/empty state of a register or row (R34, R148). `empty tok` awaits the result with the number `tok`. -/
inductive Fill
  | full
  | empty (tok : Nat)
  | fault (d : Deferred)
  deriving DecidableEq, Repr, Inhabited

/-- A scalar register. -/
structure Cell where
  v : Word
  f : Fill
  deriving DecidableEq, Repr, Inhabited

/-- A key register: two words and the tag (R166). -/
structure KCell where
  w0  : Word
  w1  : Word
  tag : Bool
  f   : Fill
  deriving DecidableEq, Repr, Inhabited

/-- A directional register: component bits, class and L (R299). -/
structure DCell where
  v   : Row
  cls : BitVec 2
  l   : BitVec 32
  f   : Fill
  deriving DecidableEq, Repr, Inhabited

/-- A tile row (R268). -/
structure RowCell where
  v : Row
  f : Fill
  deriving DecidableEq, Repr, Inhabited

abbrev Tile := Vector RowCell 32

def Cell.zero : Cell := ⟨0, .full⟩
def KCell.zero : KCell := ⟨0, 0, false, .full⟩
/-- Class zero has the code 01 (R299). -/
def DCell.zero : DCell := ⟨0, 1, 0, .full⟩
def RowCell.zero : RowCell := ⟨0, .full⟩
def Tile.zero : Tile := Vector.replicate 32 RowCell.zero

/-- A source or destination that the scan of R31 examines, with the class numbers of R143. -/
inductive Ref
  | s (r : SReg)
  | v (r : VReg)
  | d (r : DReg)
  | k (r : KReg)
  deriving DecidableEq, Repr, Inhabited

/-- An entry of the level table: level and index (R76). -/
structure EntryId where
  part : Nat
  lvl  : Lvl
  idx  : Nat
  deriving DecidableEq, Repr, Inhabited

/-- A task node: its cluster and index, with the generation it was created under (R345). -/
structure NodeId where
  cl  : BitVec 9
  idx : BitVec 10
  gen : BitVec 4
  deriving DecidableEq, Repr, Inhabited

/-! ## Threads -/

/-- A row-fault record (R272): tile, row and the fault. -/
structure RowFault where
  tile : TileId
  row  : VReg
  d    : Deferred
  deriving DecidableEq, Repr, Inhabited

/-- A row-fault record that outlives its thread (R272): the launch and tenant of that thread, and the row. -/
structure Orphan where
  launch : BitVec 16
  tenant : BitVec 9
  tile   : TileId
  row    : VReg
  deriving DecidableEq, Repr, Inhabited

/-- What a thread leaves aside while it runs as the shadow handler (R369): the missing head, its `s16`–`s31` and `k7`, and
the tensor and the logical row that were missed. -/
structure Shadow where
  pc : Nat
  id : TensorId
  row : Nat
  s  : Vector Cell 16
  k7 : KCell
  deriving DecidableEq, Repr, Inhabited

/-- A thread and its registers (R64). -/
structure Thread where
  /-- the model's own name of the thread -/
  uid    : Nat
  pc     : Nat
  level  : Level
  /-- `s0`–`s31` as the current window names them -/
  s      : Vector Cell 32
  /-- resident windows of the callers, the nearest first: their `s8`–`s23` (R102) -/
  callers : List (Vector Cell 16)
  /-- spill steps made of the oldest unwritten window (R104) -/
  spill  : Nat
  c      : BitVec 8
  k      : Vector KCell 8
  d      : Vector DCell 16
  fsr    : Word
  lc0    : Word
  lc1    : Word
  le0    : Word
  le1    : Word
  bita   : Word
  tmask  : Word
  shcnt  : Word
  hclaim : Word
  tagf   : Word
  tileb  : Word
  wsp    : Word
  self   : Word
  tvec   : Word
  epc    : Word
  ecause : Word
  einfo  : Word
  einfo2 : Word
  sepc   : Word
  scause : Word
  sinfo  : Word
  sinfo2 : Word
  mepc   : Word
  mcause : Word
  minfo  : Word
  minfo2 : Word
  /-- the deferred-store record (R148) -/
  dstore : Option Deferred
  /-- undelivered row-fault records (R272) -/
  rowFaults : List RowFault
  /-- floating-point traps suppressed (R149) -/
  fpMask : Bool
  /-- the thread runs as a shadow handler (R369) -/
  shadow : Option Shadow
  /-- window-stack area taken at the grant, on the core of HOME (R109) -/
  area   : Nat
  /-- the line in the fetch buffer: its address and halfwords (R27, R183) -/
  line   : Option (Nat × List Half)
  /-- the model's serial number at the last trap entry of each level, user, supervisor, monitor (R278) -/
  trapAt : Vector Nat 3
  deriving DecidableEq, Repr, Inhabited

def Thread.empty : Thread where
  uid := 0
  pc := 0
  level := .user
  s := Vector.replicate 32 Cell.zero
  callers := []
  spill := 0
  c := 0
  k := Vector.replicate 8 KCell.zero
  d := Vector.replicate 16 DCell.zero
  fsr := 0x2000
  lc0 := 0
  lc1 := 0
  le0 := 0
  le1 := 0
  bita := 0
  tmask := 0
  shcnt := 0
  hclaim := 0
  tagf := 0
  tileb := 0
  wsp := 0
  self := 0
  tvec := 0
  epc := 0
  ecause := 0
  einfo := 0
  einfo2 := 0
  sepc := 0
  scause := 0
  sinfo := 0
  sinfo2 := 0
  mepc := 0
  mcause := 0
  minfo := 0
  minfo2 := 0
  dstore := none
  rowFaults := []
  fpMask := false
  shadow := none
  area := 0
  line := none
  trapAt := Vector.replicate 3 0

/-! ## Waiting and slots -/

/-- A captured launch (R117): what every pending-spawn entry of one `SPAWN` or host launch holds (R86). -/
structure Launch where
  part   : Nat
  id     : BitVec 16
  tenant : BitVec 9
  first  : Nat
  places : Nat
  n      : Nat
  spread : Bool
  pc     : Nat
  args   : List Word
  q      : BitVec 2
  keys   : Vector KCell 8
  tvec   : Word
  level  : Level
  /-- the core whose coupled pair holds it in its buffer until the interval agrees (R410) -/
  gate   : Option CoreId
  deriving DecidableEq, Repr, Inhabited

/-- A pending-spawn entry (R86): the launch, its place counted from the first one, and the threads granted so far. -/
structure Pending where
  l     : Launch
  rel   : Nat
  taken : Nat
  deriving DecidableEq, Repr, Inhabited

/-- Refusals of a page fault (R179). -/
inductive PageRefusal | quota | refused
  deriving DecidableEq, Repr, Inhabited

/-- What a parked thread waits for (R72). -/
inductive WaitOn
  /-- an empty source or destination (R34, R96) -/
  | regs (l : List Ref)
  /-- an ordinary access that has not been answered (R188) -/
  | access
  /-- a `FENCE` with its scope and the nodes on the acquire list at its issue (R203) -/
  | fence (sc : Scope) (nodes : List NodeId)
  /-- a page that the pager is to supply or refuse (R175) -/
  | page (tenant : BitVec 9) (va : Nat)
  /-- a page that migrates (R182, R183) -/
  | mig (tenant : BitVec 9) (va : Nat) (fetch : Bool)
  /-- a condition register (R113) -/
  | cond (c : CReg)
  /-- a matching message (R225) -/
  | recv
  /-- a free entry of the acquire list (R208) -/
  | acquire
  /-- an open tide entry (R394) -/
  | tide (e : BitVec 3)
  /-- rows that a routed tile or a queued result holds (R394, R271) -/
  | held (t : TileId) (r : VReg)
  /-- a queued swap of the planes (R286) -/
  | swap (tok : Nat)
  /-- the scan of a recalibration (R339) -/
  | recal (t : TrackId)
  /-- a write of a track's owner record that waits for the track (R320) -/
  | hown (t : TrackId)
  /-- a neighbour word of a coupled pair, or an access that ends its interval (R410) -/
  | agree (i : BitVec 12)
  /-- a word in an in-port (R226) -/
  | portIn (p : Port)
  /-- room in the peer's in-port (R226) -/
  | portOut (p : Port)
  /-- an entry of the level table that becomes DONE (R80, R82) -/
  | entry (e : EntryId)
  /-- nothing more: the wake event has reached the core -/
  | woken
  /-- a launch entry that is FREE or DONE (R78) -/
  | launchEntry
  /-- room in a pending-spawn queue, with the launch and the next place to write (R86) -/
  | spawnQueue (l : Launch) (rel : Nat)
  /-- a free send entry (R224) -/
  | sendEntry
  /-- fewer than 8 relaxed accesses outstanding (R195) -/
  | relaxed
  /-- room for the row-fault record of a relaxed `LDV` (R272) -/
  | records
  /-- a migration reservation (R229) -/
  | migrate
  /-- a tile transfer (R274) -/
  | tile (t : TileId)
  /-- rows of a tile that are empty (R271, R282) -/
  | rows (t : TileId) (l : List Nat)
  /-- the array queue (R261) -/
  | arrayQueue
  /-- the special-function queue (R278) -/
  | sfuQueue
  /-- a track that is empty for a use, of the array or of another kind (R314, R315, R320, R324, R325) -/
  | track (t : TrackId) (array : Bool)
  /-- a track that is to be claimed (R335) -/
  | claim (t : TrackId)
  /-- an array with uses outstanding (R262) -/
  | array
  /-- a task node entry of the cluster's table (R345, R372) -/
  | nodeEntry
  /-- an ordinary access that has been answered while the bundle's other head is still to take effect (R31) -/
  | answered
  /-- no thread on the core (R405) -/
  | world
  /-- an address range of a node's chunk whose drain runs (R356) -/
  | drain (n : NodeId) (chunk : Nat)
  /-- an empty register of the window to be spilled (R105) -/
  | window
  /-- the core's shadow handler (R369) -/
  | shadow
  /-- for ever (R142) -/
  | frozen
  deriving DecidableEq, Repr, Inhabited

/-- What a bundle's heads read: the thread, the tiles, the ownership registers and the conditions `c8`–`c13` as they stood
before it (R31, R97). -/
structure View where
  th    : Thread
  tiles : Vector Tile 4
  aown  : Vector Word 4
  mown  : Word
  ext   : BitVec 6
  deriving DecidableEq, Repr, Inhabited

/-- The head of a bundle that waits for the other head's access to perform (R31): the instruction, whether it is the bundle's
second head, and what it has read. -/
structure HeldHead where
  i      : Instr
  second : Bool
  v      : View
  deriving DecidableEq, Repr, Inhabited

/-- Why a slot drains (R68). -/
inductive Drain
  | retire
  /-- a migration: target place and core -/
  | migrate (place : Nat) (core : CoreId)
  | suspend
  deriving DecidableEq, Repr, Inhabited

/-- Slot states with their codes in `SLOTST` (R67). -/
inductive SlotSt | free | loading | ready | parked | draining | held | disabled | heldParked
  deriving DecidableEq, Repr, Inhabited

/-- A barrel slot (R67 to R70). The registers of a slot that holds no thread are those of `Thread.empty`. -/
structure Slot where
  st      : SlotSt
  th      : Thread
  /-- cycle at which the context is written (R67) -/
  loadEnd : Nat
  /-- retire once loaded (R68) -/
  cancelled : Bool
  drain   : Drain
  wait    : WaitOn
  /-- order of parking -/
  parkSeq : Nat
  /-- cycle at which the wake event reached the core (R73) -/
  seen    : Option Nat
  /-- the other head of a bundle whose ordinary access is outstanding (R31) -/
  held    : Option HeldHead
  /-- heads of the line and of the bundle whose access is outstanding -/
  hcount  : Nat
  width   : Nat
  /-- cycle of the last issue, `none` before the first (R70) -/
  last    : Option Nat
  /-- `key` of R70 -/
  key     : Nat
  /-- the breakwater chose the slot while it drained or loaded (R68) -/
  chosen  : Bool
  /-- a write of `QOWN` made the thread outgoing (R406) -/
  outgoing : Bool
  /-- send entries in use (R216) -/
  sends   : Nat
  /-- a refused page fault that the reissue traps on (R179) -/
  refusal : Option (PageRefusal × BitVec 9 × Nat)
  deriving DecidableEq, Repr, Inhabited

def Slot.free : Slot where
  st := .free
  th := Thread.empty
  loadEnd := 0
  cancelled := false
  drain := .retire
  wait := .access
  parkSeq := 0
  seen := none
  held := none
  hcount := 0
  width := 1
  last := none
  key := 0
  chosen := false
  outgoing := false
  sends := 0
  refusal := none

/-! ## Storage -/

/-- Under which key a word was written (R403, R404): a tenant's key generation or the monitor's key. -/
structure KeySt where
  tenant : Nat
  gen    : Nat
  deriving DecidableEq, Repr, Inhabited

/-- Storage of 64-bit words (R189): its bytes that are not zero in rising order of address, the words that are
empty, tagged or poisoned, and the key state under which a word was last written. -/
structure Mem where
  bytes  : List Host.Cell
  empty  : List Nat
  tags   : List Nat
  poison : List Nat
  keys   : List (Nat × KeySt)
  deriving DecidableEq, Repr, Inhabited

def Mem.zero : Mem := ⟨[], [], [], [], []⟩

/-! ## Messages -/

/-- Who sends a message, and so holds the send entry (R218). -/
inductive Sender
  | slot (c : CoreId) (s : SlotId)
  | engine (e : BitVec 5)
  /-- the home of a tensor's control block, by its port (R366) -/
  | home (port : Nat)
  | tide (c : CoreId) (e : BitVec 3)
  | waliasal
  deriving DecidableEq, Repr, Inhabited

/-- Where a message stands (R218). -/
inductive MsgStage
  | flight
  /-- on its way again, after it has bounced -/
  | again
  /-- returned on the reply plane; was the sender recorded -/
  | bounced (recorded : Bool)
  /-- back in its send entry, waiting for a retry notice -/
  | recorded
  /-- the retry notice is on its way -/
  | notice
  /-- back in its send entry, not recorded: sent again at the sender's cycle -/
  | backoff (due : Nat)
  /-- a routed row refused by its berth, on the reply plane (R383) -/
  | refused
  deriving DecidableEq, Repr, Inhabited

/-- A destination range of a node's chunk (R356). -/
structure Range where
  chunk  : Nat
  dev    : Bool
  tenant : BitVec 9
  core   : CoreId
  lo     : Nat
  len    : Nat
  deriving DecidableEq, Repr, Inhabited

/-- What a completion message carries beside its payload (R318, R356): the node, its ranges, the positions moved. -/
structure TaskNote where
  node   : NodeId
  ranges : List Range
  moved  : Nat
  deriving DecidableEq, Repr, Inhabited

/-- An inbox entry (R219): eight words, tenant, system mark, and the node whose completion it reports (R208). -/
structure InEntry where
  words  : List Word
  tenant : BitVec 9
  sys    : Bool
  task   : Option TaskNote
  /-- words lost to an uncorrectable error (R414) -/
  bad    : List Nat
  deriving DecidableEq, Repr, Inhabited

/-- What a routed row carries beside its entries (R384): its return token, its weight and its berth. -/
structure RowTok where
  token : Word
  w     : BitVec 32
  berth : BitVec 8
  deriving DecidableEq, Repr, Inhabited

/-- A message in flight: one entry, or the three of a routed row. -/
structure Msg where
  id      : Nat
  entries : List InEntry
  src     : Sender
  core    : CoreId
  stage   : MsgStage
  row     : Option RowTok
  /-- held in a coupled pair's buffer (R410) -/
  gate    : Bool
  /-- order of injection (R214) -/
  inj     : Nat
  deriving DecidableEq, Repr, Inhabited

/-- An inbox (R218, R219): entries in acceptance order, entries reserved for a message, the refusal list. -/
structure Inbox where
  entries  : List InEntry
  reserved : List (Nat × Nat)
  refused  : List (Nat × Nat)
  deriving DecidableEq, Repr, Inhabited

/-! ## Migration -/

/-- A landing-buffer entry (R229). -/
inductive Landing
  /-- reserved for the thread of a slot -/
  | reserved (c : CoreId) (s : SlotId) (uid : Nat)
  /-- holds a packet that waits for a slot -/
  | waits (th : Thread)
  deriving DecidableEq, Repr, Inhabited

/-- A reservation request (R229). -/
inductive ResStage | flight | queued | granted | backoff (due : Nat)
  deriving DecidableEq, Repr, Inhabited

structure Resv where
  id    : Nat
  core  : CoreId
  slot  : SlotId
  uid   : Nat
  place : Nat
  target : CoreId
  stage : ResStage
  /-- order of injection (R214) -/
  inj   : Nat
  deriving DecidableEq, Repr, Inhabited

/-- A migration packet in flight (R230). -/
structure Packet where
  id     : Nat
  target : CoreId
  place  : Nat
  th     : Thread
  cancelled : Bool
  src    : CoreId × SlotId × Nat
  deriving DecidableEq, Repr, Inhabited

/-- A suspension record (R407). -/
structure Susp where
  slot : SlotId
  th   : Thread
  /-- which of the pool's 128 records -/
  idx  : Nat
  deriving DecidableEq, Repr, Inhabited

/-! ## Shift tracks -/

/-- The move or scrub of a track (R314, R315, R320). -/
inductive TMove
  | idle
  /-- waits in the shift queue for `cycles` cycles of motion -/
  | queued (cycles : Nat)
  /-- ends at the cycle -/
  | moving (until_ : Nat)
  deriving DecidableEq, Repr, Inhabited

/-- What follows the move of a track. -/
inductive TAfter
  | rest
  /-- a scrub: rows zero after 128 cycles (R320) -/
  | scrub
  /-- the 128 cycles of a scrub run -/
  | zeroing
  /-- a recalibration of the thread in a slot ends; did it find code 0 (R339)? -/
  | recal (s : SlotId) (uid : Nat) (found : Bool)
  deriving DecidableEq, Repr, Inhabited

/-- A shift track (R313, R319, R330): rows that are not zero, poisoned positions, the head, owner record, and the
position codes that do not read as their position (`none`: uncorrectable). -/
structure Track where
  rows   : List (Nat × Row)
  bad    : List Nat
  codes  : List (Nat × Option (BitVec 8))
  pos    : Nat
  edge   : Bool
  tag    : BitVec 3
  valid  : Bool
  xfer   : Bool
  lost   : Bool
  resid  : Bool
  scrub  : Bool
  tenant : BitVec 9
  launch : BitVec 16
  errs   : BitVec 16
  /-- task nodes that hold the track (R324) -/
  nodes  : List NodeId
  /-- array instructions that hold it (R325) -/
  arrays : Nat
  move   : TMove
  after  : TAfter
  deriving DecidableEq, Repr, Inhabited

def Track.reset : Track where
  rows := []
  bad := []
  codes := []
  pos := 0
  edge := false
  tag := 0
  valid := false
  xfer := false
  lost := false
  resid := false
  scrub := false
  tenant := 0
  launch := 0
  errs := 0
  nodes := []
  arrays := 0
  move := .idle
  after := .rest

/-! ## Task nodes and descriptors -/

/-- A valid descriptor entry (R245, R247): its writer's tenant and eight words. -/
structure Desc where
  tenant : BitVec 9
  words  : Vector Word 8
  deriving DecidableEq, Repr, Inhabited

/-- An update on its way to a cluster's copy (R245): a whole entry, or a new version of a stitched one (R374). -/
inductive DescUpd
  | entry (id : TensorId) (d : Option Desc)
  | version (id : TensorId) (v shape1 : BitVec 32)
  deriving DecidableEq, Repr, Inhabited

/-- A piece translation entry (R368). -/
structure PieceEntry where
  id    : TensorId
  ver   : BitVec 32
  ord   : BitVec 16
  first : Nat
  rows  : Nat
  key   : KCell
  /-- order of the last hit -/
  used  : Nat
  deriving DecidableEq, Repr, Inhabited

/-- A side of a task node (R349) as captured at the `TASK` (R246). -/
inductive Side
  | raw (key : KCell) (off : Nat)
  | dense (d : Desc) (row : Nat)
  | piece (d : Desc) (key : KCell) (first row : Nat) (id : TensorId) (ver : BitVec 32)
  | track (t : TrackId) (start : Nat)
  | page (tenant : BitVec 9) (fine : Bool) (va : Nat)
  | frame (n : Nat)
  | none
  deriving DecidableEq, Repr, Inhabited

/-- States of a node (R346); `reserved`: an entry that a `TASK` has reserved (R372). -/
inductive NodeSt | free | reserved | held | waiting | ready | running | draining
  deriving DecidableEq, Repr, Inhabited

/-- Completion status (R359). -/
inductive NStatus | ok | bounds | poisonRetried | poison | cancelled | fault | shift
  deriving DecidableEq, Repr, Inhabited

inductive TaskKind | copy | gather | scatter | scatterAdd | reduce | collective | migrate
  deriving DecidableEq, Repr, Inhabited

/-- A word a chunk will write (R354): the space, the word's address, its new bytes, FEM and a carried tag and poison. -/
structure DrainW where
  id    : Nat
  node  : NodeId
  chunk : Nat
  /-- device memory of a tenant by virtual address, or a core's local store -/
  dev   : Bool
  tenant : BitVec 9
  fine  : Option Nat
  core  : CoreId
  /-- word-aligned address -/
  va    : Nat
  /-- bytes of the word that are written, and the word -/
  mask  : BitVec 8
  data  : Word
  tag   : Bool
  bad   : Bool
  full  : Bool
  deriving DecidableEq, Repr, Inhabited

/-- A row a chunk will write to a track at its commit (R358). -/
structure TrackW where
  pos  : Nat
  row  : Row
  deriving DecidableEq, Repr, Inhabited

/-- A chunk of a running node (R354). -/
inductive ChunkSt
  | idle
  /-- waiting for a page (R357) -/
  | page
  /-- staged: its writes are held -/
  | staged (ws : List DrainW) (ts : List TrackW)
  /-- failed; the node completes when the chunk's turn to commit comes -/
  | failed (status : NStatus) (code addr posn : Nat)
  | committed (rs : List Range)
  deriving DecidableEq, Repr, Inhabited

/-- A byte that a node has read: where it stood, the tag of its word, and the number of its 128-byte unit counted from the base of the
key it was read through (R170, R253). -/
structure GotB where
  b    : Byte
  pos  : Nat
  tag  : Bool
  unit : Nat
  deriving DecidableEq, Repr, Inhabited

structure Chunk where
  st    : ChunkSt
  /-- the source bytes, kept while the chunk waits for a page of its destination (R357) -/
  got   : Option (List GotB)
  /-- re-queued once after poison, and once after a shift error (R357) -/
  poisoned : Bool
  shifted  : Bool
  deriving DecidableEq, Repr, Inhabited

def Chunk.fresh : Chunk := ⟨.idle, none, false, false⟩

/-- Steps of a page migration (R182) of the frame at `f`. `before`: the invalidation in force waits for the accesses translated
below this number; `d`: the lines still to be copied. -/
inductive MigSt
  | start
  | marked (f before : Nat)
  | copying (f round : Nat)
  | frozen (f before : Nat) (d : List Nat)
  | switched (f before : Nat)
  deriving DecidableEq, Repr, Inhabited

/-- A task node (R345, R346). -/
structure Node where
  gen    : BitVec 4
  st     : NodeSt
  kind   : TaskKind
  preds  : Nat
  succs  : List NodeId
  /-- a predecessor ended badly (R347) -/
  doomed : Bool
  graph  : EntryId
  tenant : BitVec 9
  sys    : Bool
  sec    : Bool
  level  : Level
  core   : CoreId
  place  : Nat
  tag    : BitVec 32
  src    : Side
  dst    : Side
  index  : Option (Desc × Nat)
  size   : Nat
  op     : Nat
  elem   : Nat
  group  : Nat
  fem    : Bool
  quiet  : Bool
  /-- `REGION` of the core at the `TASK` (R173) -/
  region : Word
  engine : Option (BitVec 5)
  chunks : List Chunk
  /-- committed chunks -/
  done   : Nat
  status : NStatus
  code   : Nat
  addr   : Nat
  posn   : Nat
  commit : Nat
  /-- head motion charged at the `RECV` (R318) -/
  moved  : Nat
  /-- unpins that have still to perform (R366) -/
  unpin  : List (Desc × TensorId × BitVec 32)
  /-- the drain has ended: successors, acquire lists and the graph know (R77, R208, R347) -/
  told   : Bool
  /-- the completion message, while it has not been accepted (R346) -/
  msg    : Option Nat
  mig    : MigSt
  /-- order of becoming READY -/
  seq    : Nat
  /-- held in a coupled pair's buffer (R410) -/
  gate   : Bool
  deriving DecidableEq, Repr, Inhabited

def Node.free : Node where
  gen := 0
  st := .free
  kind := .copy
  preds := 0
  succs := []
  doomed := false
  graph := ⟨0, .graph, 0⟩
  tenant := 0
  sys := false
  sec := false
  level := .user
  core := 0
  place := 0
  tag := 0
  src := .none
  dst := .none
  index := none
  size := 0
  op := 0
  elem := 0
  group := 0
  fem := false
  quiet := false
  region := 0
  engine := none
  chunks := []
  done := 0
  status := .ok
  code := 0
  addr := 0
  posn := 0
  commit := 0
  moved := 0
  unpin := []
  told := false
  msg := none
  mig := .start
  seq := 0
  gate := false

/-- An entry of a core's acquire list (R208, R356). -/
structure Acq where
  node   : NodeId
  ranges : List Range
  deriving DecidableEq, Repr, Inhabited

/-! ## The array, the special-function unit, the directional unit -/

inductive PlaneSt | unloaded | loading | loaded
  deriving DecidableEq, Repr, Inhabited

/-- A weight plane (R260): its state, the shape, descriptor and transpose flag of the load that filled it, the
elements w(k, n) at n·K + k, the scales and zero points of group j of column n at n·(K/G) + j. -/
structure Plane where
  st   : PlaneSt
  k    : Nat
  n    : Nat
  id   : TensorId
  desc : Option Desc
  tr   : Bool
  w    : List Nat
  sc   : List Nat
  zp   : List Nat
  deriving DecidableEq, Repr, Inhabited

def Plane.reset : Plane := ⟨.unloaded, 0, 0, 0, none, false, [], [], []⟩

/-- A source named by a location word (R284). -/
inductive Loc
  | tile (t : TileId) (row : Nat)
  | track (t : TrackId)
  /-- byte offset in the core's own local store -/
  | ls (off : Nat)
  deriving DecidableEq, Repr, Inhabited

/-- What an entry of the array queue does (R261). -/
inductive AOp
  | mcfg (k n : Nat)
  | mldw (tr : Bool) (k n g0 : Nat) (loc : Loc) (id : TensorId) (d : Desc)
  | mswap
  | mma (ow : Bool) (loc : Loc) (tile : TileId) (drow m asrow : Nat) (id : TensorId) (d : Desc) (rm : RMode)
  deriving DecidableEq, Repr, Inhabited

/-- An entry of the array queue, oldest first. -/
structure AEntry where
  tok  : Nat
  slot : SlotId
  uid  : Nat
  pc   : Nat
  op   : AOp
  /-- started, and the cycle at which it started -/
  run  : Option Nat
  /-- rows that a load reads, or that an `MMA` has filled -/
  rows : Nat
  /-- the failure of a source row: of an `MLDW` it is reported at the next `MSWAP`, of an `MMA` by its rows not yet filled -/
  fail : Option (Nat × Word × Word)
  /-- the page of a scale read was refused (R285) -/
  refusal : Option PageRefusal
  /-- source rows read, and those of them that a load, or the activation row under way, holds (R263, R264) -/
  taken : Nat := 0
  got   : List Row := []
  /-- cycle at which the first row of the activation row entered, and from which the next row may be read -/
  since : Nat := 0
  next  : Nat := 0
  /-- activation rows read, each with the cycle at which its destination row fills (R263) -/
  ins   : List (Nat × Nat) := []
  deriving DecidableEq, Repr, Inhabited

/-- A special-function entry (R278): the row that awaits it, the operand and rounding captured at issue. -/
structure SfuEntry where
  tok  : Nat
  slot : SlotId
  uid  : Nat
  f    : SfuF
  ty   : ETy
  tile : TileId
  row  : VReg
  a    : Row
  rm   : RMode
  osat : Bool
  deriving DecidableEq, Repr, Inhabited

/-- A dequantisation in progress (R298). -/
structure VdqEntry where
  tok   : Nat
  slot  : SlotId
  uid   : Nat
  pc    : Nat
  ty    : ETy
  tile  : TileId
  row   : VReg
  codes : Row
  part  : Nat
  x0    : Nat
  x1    : Nat
  d     : Desc
  refusal : Option PageRefusal
  deriving DecidableEq, Repr, Inhabited

/-- A directional result on its way (R304). -/
structure DirEntry where
  tok  : Nat
  slot : SlotId
  uid  : Nat
  d    : DReg
  due  : Nat
  val  : DCell
  fl   : BitVec 5
  deriving DecidableEq, Repr, Inhabited

/-! ## Routing -/

/-- A registered berth (R382). -/
structure Berth where
  place  : Nat
  tenant : BitVec 9
  tag    : BitVec 32
  cap    : Nat
  deriving DecidableEq, Repr, Inhabited

/-- States of a choice (R387); `unsent`: SENDING, its message not yet built. -/
inductive ChoiceSt | unsent | sending | accepted | returned | dropped | passed | missing
  deriving DecidableEq, Repr, Inhabited

structure Choice where
  w     : BitVec 32
  berth : BitVec 8
  /-- place and tag of the berth in the cluster's copy at the `ROUTE` -/
  place : Nat
  tag   : BitVec 32
  st    : ChoiceSt
  deriving DecidableEq, Repr, Inhabited

/-- A row of a tide entry: its choices, the second pair of a NEXT row until it is used, the flags of its accumulations. -/
structure TideRow where
  ch  : List Choice
  alt : Option Choice
  fl  : BitVec 5
  /-- the source row is held until its last message is built (R394) -/
  held : Bool
  deriving DecidableEq, Repr, Inhabited

/-- A tide entry (R386). -/
structure Tide where
  opn    : Bool
  gen    : BitVec 4
  tok    : Nat
  uid    : Nat
  place  : Nat
  tenant : BitVec 9
  slot   : SlotId
  sys    : Bool
  tag    : BitVec 32
  src    : TileId
  dst    : TileId
  drow   : Nat
  m      : Nat
  policy : Policy
  deadline : Nat
  rows   : List TideRow
  drop   : BitVec 32
  pass   : BitVec 32
  missing : BitVec 32
  done   : BitVec 32
  deriving DecidableEq, Repr, Inhabited

def Tide.free : Tide where
  opn := false
  gen := 0
  tok := 0
  uid := 0
  place := 0
  tenant := 0
  slot := 0
  sys := false
  tag := 0
  src := 0
  dst := 0
  drow := 0
  m := 0
  policy := .drop
  deadline := 0
  rows := []
  drop := 0
  pass := 0
  missing := 0
  done := 0

/-- A berth at the core of its place, with its in-flight count (R383). -/
structure BerthAt where
  tenant : BitVec 9
  cap    : Nat
  count  : Nat
  deriving DecidableEq, Repr, Inhabited

/-- A returned row on its way to its tide table (R395); its sender holds a send entry. -/
structure RowRet where
  id     : Nat
  core   : CoreId
  slot   : SlotId
  target : CoreId
  token  : Word
  tenant : BitVec 9
  row    : Row
  gate   : Bool
  deriving DecidableEq, Repr, Inhabited

/-! ## Accesses in flight -/

/-- What an access does at its home. -/
inductive Op
  | ld (n : Nat) (sx : Bool)
  | st (n : Nat) (v : Word)
  | ldb (bitoff : Nat) (len : Nat) (sx : Bool)
  | stb (bitoff : Nat) (len : Nat) (v : Word)
  | lds (m : LdsMode)
  | sts (m : StsMode) (v : Word)
  | amo (f : AmoF) (n : Nat) (a b : Word)
  | ldv
  | stv (r : Row)
  | kld
  | kst (w0 w1 : Word) (tag : Bool)
  | asave (t : TileId) (rows : List Row)
  | aload (t : TileId)
  | harvest (frame idx : Nat)
  | spill (ws : List Word)
  | fill (i : Nat)
  /-- whole words of another part (R427) -/
  | stw (ws : List Word)
  /-- read the 64-byte image of a descriptor (R257) -/
  | tdset (id : TensorId)
  /-- the version last published at the tensor's home (R258) -/
  | ver (id : TensorId) (d : Desc)
  /-- pin the current version, or unpin a version (R375) -/
  | spin (id : TensorId) (d : Desc)
  | unpin (id : TensorId) (d : Desc) (v : Nat)
  /-- publish a version (R374): X, and the key and address of the inserted records -/
  | splice (id : TensorId) (d : Desc) (x : Word) (recs : Option (KCell × Nat))
  /-- pin the stitched sides of a node and create it (R372) -/
  | task (n : Node) (idx : BitVec 10) (go : Bool)
  /-- an edge or a release at the node's cluster (R373) -/
  | tdep (a b : Word)
  | tdepGo (a : Word)
  /-- a berth registered or removed at the descriptor home (R396) -/
  | rtbl (id : BitVec 8) (b : Option Berth)
  /-- couple, decouple or read a pair (R412) -/
  | pair (f : Nat) (a : Word)
  deriving DecidableEq, Repr, Inhabited

/-- Where the result of an access goes. `tok`: the register or row that awaits it. -/
inductive Dst
  | none
  | s (r : SReg)
  | k (r : KReg)
  | v (r : VReg)
  | tok
  deriving DecidableEq, Repr, Inhabited

/-- Where an access stands between its issue and its reply. -/
inductive Stage
  /-- waiting in the core for rows of a tile (R276) -/
  | rows
  /-- at the cluster port (R171) -/
  | port
  /-- a translation miss that waits at the port, all walkers of its die being busy (R174) -/
  | miss
  /-- a translation miss that a walker serves (R174) -/
  | walk
  /-- a relaxed or engine access waiting for its page (R175, R182) -/
  | page
  /-- injected, on its way to its home -/
  | home
  /-- on a wait list, in arrival order (R200) -/
  | waiting
  /-- refused; resent at the requester's cycle `due` (R201) -/
  | backoff (due : Nat)
  /-- combined into the request `lead` with the sum of the operands before it, at a stage and switch of the network (R215) -/
  | combined (lead : Nat) (before : Word) (stage sw : Nat)
  /-- performed; the reply is on its way -/
  | reply
  /-- over Gildoza at another part (R427) -/
  | fabric
  deriving DecidableEq, Repr, Inhabited

/-- A reply: the words read, or why nothing was done. -/
inductive Reply
  | words (l : List Word) (tag : Bool)
  | trap (cause : Nat) (info info2 : Word)
  deriving DecidableEq, Repr, Inhabited

/-- An access of a thread (R188). -/
structure Req where
  id     : Nat
  core   : CoreId
  slot   : SlotId
  uid    : Nat
  relaxed : Bool
  op     : Op
  dst    : Dst
  /-- device memory, or a core's local store -/
  dev    : Bool
  tenant : BitVec 9
  sec    : Bool
  /-- root of the fine window the access matched at issue (R173) -/
  fine   : Option Nat
  /-- virtual address, or place × 2¹⁸ + offset -/
  va     : Nat
  size   : Nat
  key    : KReg
  pc     : Nat
  stage  : Stage
  /-- the core whose local store is the home -/
  home   : CoreId
  /-- physical address of the part in each page, in order -/
  pas    : List (Nat × Nat)
  /-- what the bundle also writes when the access has performed: X of mode 011, and `BITA` (R194, R196, R197) -/
  post   : Option (SReg × Word)
  bita   : Option Word
  /-- translated through an entry with DT (R181) -/
  dt     : Bool
  /-- order of injection -/
  inj    : Nat
  retry  : Nat
  reply  : Option Reply
  /-- held in a coupled pair's buffer until its interval agrees (R410) -/
  gate   : Bool
  /-- the broadcast that every copy is to apply before the reply (R257, R374, R396) -/
  upd    : Option Nat := none
  /-- the number at which it was translated (R174) -/
  xlat   : Nat := 0
  /-- the row that awaits a relaxed `LDV` (R198) -/
  row    : Option (TileId × VReg) := none
  /-- an ordinary write that its coupled pair has held: it performs after the earlier ones of its thread (R204, R410) -/
  held   : Bool := false
  /-- of another part: the port it came in by, that part, and its number there (R427) -/
  far    : Option (BitVec 7 × Nat × Nat) := none
  deriving DecidableEq, Repr, Inhabited

/-- Who waits for a page (R175). -/
inductive PageWaiter
  | thread (c : CoreId) (s : SlotId) (uid : Nat)
  | req (id : Nat)
  | node (n : NodeId) (chunk : Nat)
  /-- the block that an ending node is to unpin (R366) -/
  | unpin (n : NodeId)
  /-- a committed write of a node -/
  | drain (id : Nat)
  /-- a scale read of a row's or a plane's dequantisation, by its number (R285, R298) -/
  | scale (c : CoreId) (tok : Nat)
  deriving DecidableEq, Repr, Inhabited

/-- An entry of a page-request queue (R176). -/
structure PageReq where
  tenant : BitVec 9
  /-- root of the fine table, for a page of a fine window -/
  fine   : Option Nat
  va     : Nat
  write  : Bool
  fetch  : Bool
  waiters : List PageWaiter
  deriving DecidableEq, Repr, Inhabited

/-! ## Cores -/

/-- One core and its sixteen slots (R17). -/
structure Core where
  cycle  : Nat
  slots  : Vector Slot 16
  ls     : Mem
  /-- order in which accesses joined the wait list is the order of their `inj` (R200) -/
  inbox  : Inbox
  /-- in-ports N, E, S, W: words, oldest first (R226) -/
  ports  : Vector (List Word) 4
  landing : List Landing
  resvq  : List Nat
  tiles  : Vector Tile 4
  /-- row-fault records of threads that have retired (R272) -/
  orphans : List Orphan
  aown   : Vector Word 4
  mown   : Word
  /-- thread that set XFER of each tile (R274) -/
  xferBy : Vector Nat 4
  acquire : List Acq
  tracks : List (TrackId × Track)
  /-- tracks whose moves wait, in issue order (R315) -/
  shiftq : List TrackId
  pieces : List PieceEntry
  /-- window-stack areas held (R109) -/
  areas  : BitVec 16
  /-- credits of the queue classes (R89) -/
  cur    : Vector Int 4
  /-- cycle of the last breakwater evaluation (R90) -/
  bwLast : Nat
  svec   : Word
  mvec   : Word
  pxvec  : Word
  qown   : Word
  qweight : Word
  region : Word
  lvlctl : Word
  lvlerr : Bool
  rlate  : BitVec 32
  suspb  : Word
  susp   : List Susp
  world  : Word
  /-- bundles retired (R410, R415) -/
  retired : Nat
  /-- instruction cache, at most 512 lines (R17): tenant, line address, halfwords (R183) -/
  icache : List ((BitVec 9 × Nat) × List Half)
  /-- stationary and shadow plane, configuration, queue, failed load with the launch word it is reported to -/
  stat   : Plane
  shad   : Plane
  cfgk   : Nat
  cfgn   : Nat
  arrayq : List AEntry
  failed : Option (Nat × Word × Word)
  /-- special-function queue, suspended entries, running entries with the cycle of their result (R278) -/
  sfuq   : List SfuEntry
  sfuSusp : List SfuEntry
  sfuRun : List (Nat × SfuEntry)
  vdqs   : List VdqEntry
  dirs   : List DirEntry
  tide   : Vector Tide 8
  /-- berths registered at this core's place (R383) -/
  berths : List (BitVec 8 × BerthAt)
  deriving DecidableEq, Repr, Inhabited

def Core.reset : Core where
  cycle := 0
  slots := Vector.replicate 16 Slot.free
  ls := Mem.zero
  inbox := ⟨[], [], []⟩
  ports := Vector.replicate 4 []
  landing := []
  resvq := []
  tiles := Vector.replicate 4 Tile.zero
  orphans := []
  aown := Vector.replicate 4 0
  mown := 0
  xferBy := Vector.replicate 4 0
  acquire := []
  tracks := []
  shiftq := []
  pieces := []
  areas := 0
  cur := Vector.replicate 4 0
  bwLast := 0
  svec := 0
  mvec := 0
  pxvec := 0
  qown := 0x1000000000
  qweight := 0x01010101
  region := 0
  lvlctl := 0
  lvlerr := false
  rlate := 0
  suspb := 0
  susp := []
  world := 0
  retired := 0
  icache := []
  stat := Plane.reset
  shad := Plane.reset
  cfgk := 0
  cfgn := 0
  arrayq := []
  failed := none
  sfuq := []
  sfuSusp := []
  sfuRun := []
  vdqs := []
  dirs := []
  tide := Vector.replicate 8 Tide.free
  berths := []

/-! ## Clusters, dies, partitions -/

structure Cluster where
  pending : List Pending
  nodes   : List (BitVec 10 × Node)
  /-- translations cached at the port (R174): tenant, fine root, page, and the leaf entry -/
  tcache  : List ((BitVec 9 × Option Nat × Nat) × Word)
  deriving DecidableEq, Repr, Inhabited

def Cluster.reset : Cluster := ⟨[], [], []⟩

/-- What a cluster holds of a partition's tables (R245, R382): its copy of the descriptor table and of the berth table, and the updates
still to be applied to each with their tokens. -/
structure TableCopy where
  descs   : List (TensorId × Desc)
  descq   : List (Nat × DescUpd)
  berths  : List (BitVec 8 × Berth)
  berthq  : List (Nat × BitVec 8 × Option Berth)
  deriving DecidableEq, Repr, Inhabited

def TableCopy.reset : TableCopy := ⟨[], [], [], []⟩

structure Die where
  /-- page-request queue, and the requests held for lack of an entry, oldest first (R176) -/
  pageq  : List PageReq
  held   : List PageReq
  /-- `FQSTAT` without OCC (R177), and the partition of the core that wrote NPLACE -/
  fqstat : Word
  npart  : Nat
  /-- tenants active on the die, in the order they became active (R176) -/
  active : List (BitVec 9)
  stpass : Word
  deriving DecidableEq, Repr, Inhabited

def Die.reset : Die := ⟨[], [], 0, 0, [], 0⟩

/-- States of a level entry (R76). -/
inductive LvSt | free | opened | sealed | done
  deriving DecidableEq, Repr, Inhabited

/-- An entry of the level table (R76). -/
structure LvEntry where
  st     : LvSt
  canc   : Bool
  gen    : BitVec 4
  tenant : BitVec 9
  parent : Nat
  count  : Nat
  /-- SEQ of the command that created the entry (R425) -/
  stamp  : Option Nat
  deriving DecidableEq, Repr, Inhabited

def LvEntry.zero : LvEntry := ⟨.free, false, 0, 0, 0, 0, none⟩

/-- A partition (R401): its Hilbert interval (LEN 0: free), place table, thermal ranking and level table. -/
structure Partition where
  base   : Nat
  len    : Nat
  places : List CoreId
  ranking : List CoreId
  levels : List ((Lvl × Nat) × LvEntry)
  /-- stitched tensors closed until an update has been applied (R257): its token, and the entry it replaces -/
  closed : List (TensorId × Nat × Desc)
  /-- the berth table and the descriptor table at their home, ahead of the copies (R245, R382) -/
  berths : List (BitVec 8 × Berth)
  descs  : List (TensorId × Desc)
  deriving DecidableEq, Repr, Inhabited

def Partition.reset : Partition := ⟨0, 0, [], [], [], [], [], []⟩

/-! ## The machine -/

/-- Whose move is next: a core's cycle, or a step of another agent or of the outside. -/
inductive Move
  | core (c : CoreId)
  | ev (i : Instr)
  deriving DecidableEq, Repr, Inhabited

/-- Which thread issues, and the heads of its line and bundle. -/
structure Cur where
  core   : CoreId
  slot   : SlotId
  hcount : Nat
  width  : Nat
  deriving DecidableEq, Repr, Inhabited

/-- The passes over the two heads of a pair (R31, R62). -/
inductive Phase | priv | scan | effect
  deriving DecidableEq, Repr, Inhabited

/-- What a trap reports: cause, information, further information, FLAGS. -/
structure TrapInfo where
  cause : Nat
  info  : Word
  info2 : Word
  fl    : BitVec 5
  deriving DecidableEq, Repr, Inhabited

/-- What a head of a pair answered in a pass. -/
inductive Note
  | none
  | trap (t : TrapInfo)
  | deliver (r : Ref) (d : Deferred)
  | late (d : Deferred)
  | blocked (l : List Ref)
  | ok
  | jump (t : Nat) (mask : Bool)
  | park (w : WaitOn)
  | pend (w : WaitOn)
  | wait (w : WaitOn)
  | turn
  | gone
  deriving DecidableEq, Repr, Inhabited

/-- The bundle of two heads being formed. `fl`: flags to merge after both heads (R140). -/
structure PairSt where
  phase : Phase
  /-- the head is the bundle's second -/
  second : Bool
  view  : View
  note  : Note
  fl    : BitVec 5
  deriving DecidableEq, Repr, Inhabited

/-- A window of a fabric map (R427): virtual range in 1 GiB granules and the part that holds it. -/
structure FabricWin where
  base : Nat
  len  : Nat
  dev  : Nat
  deriving DecidableEq, Repr, Inhabited

/-- A tenant's entry of the tenant table (R171, R178, R427): translation root, quota and charge in units of 1 KiB,
fabric map; and the pages it has touched, by their fine root and number, which the pager has charged (R178). -/
structure Tenant where
  root    : Nat
  quota   : Nat
  charged : Nat
  fabric  : List FabricWin
  touched : List (Option Nat × Nat)
  deriving DecidableEq, Repr, Inhabited

def Tenant.zero : Tenant := ⟨0, 0, 0, [], []⟩

/-- Status of a journal record (R422). -/
inductive JStatus | accepted | complete | refused | aborted
  deriving DecidableEq, Repr, Inhabited

/-- A record of the command journal (R422). -/
structure JRec where
  seq    : Nat
  ctx    : BitVec 12
  slot   : BitVec 4
  opcode : Nat
  id     : Nat
  reason : Nat
  status : JStatus
  tag    : BitVec 32
  closes : Nat
  deriving DecidableEq, Repr, Inhabited

/-- A report of a frozen thread (R142). -/
structure Freeze where
  place : Nat
  slot  : Nat
  cause : Nat
  pc    : Nat
  deriving DecidableEq, Repr, Inhabited

/-- A fence probe on its way to a slice, or its echo on the way back (R203, R216). -/
structure Probe where
  id    : Nat
  core  : CoreId
  slot  : SlotId
  uid   : Nat
  slice : Nat
  echo  : Bool
  inj   : Nat
  deriving DecidableEq, Repr, Inhabited

/-- A word on its way to a neighbour's in-port (R226). -/
structure NWord where
  id   : Nat
  src  : CoreId
  dst  : CoreId
  port : Port
  word : Word
  gate : Bool
  deriving DecidableEq, Repr, Inhabited

/-- A window-stack area released by a thread that retired elsewhere (R109). -/
structure Release where
  id   : Nat
  src  : CoreId
  core : CoreId
  area : Nat
  deriving DecidableEq, Repr, Inhabited

/-- A coupled pair (R409 to R411): checkpoints agreed, bundles retired at the last one, rollbacks to it, whether an
interval must end now, and what a rollback restores. -/
structure PairRec where
  agreed : BitVec 32
  base   : Nat
  fails  : Nat
  due    : Bool
  snap   : Core × List Req
  deriving DecidableEq, Repr, Inhabited

/-- States of a TDI (R426). -/
inductive Tdi | unlocked | locked | run | error
  deriving DecidableEq, Repr, Inhabited

/-- What an interface report holds (R426). -/
structure Report where
  range  : Nat
  msix   : List Word
  tenant : BitVec 9
  part   : Nat
  digest : Word
  stpass : List Word
  sign   : Word
  deriving DecidableEq, Repr, Inhabited

/-- A context and its launch window (R421, R426). -/
structure Ctx where
  slots  : List (BitVec 4 × List Word)
  posted : List (BitVec 4)
  status : Word
  tenant : BitVec 9
  root   : KCell
  part   : Nat
  tdi    : Tdi
  /-- configuration items written (R426) -/
  items  : List (Nat × Word)
  report : Option Report
  deriving DecidableEq, Repr, Inhabited

def Ctx.reset : Ctx := ⟨[], [], 0, 0, KCell.zero, 0, .unlocked, [], none⟩

/-- A command accepted and not yet carried out (R421, R422). -/
structure Cmd where
  seq   : Nat
  ctx   : BitVec 12
  slot  : BitVec 4
  words : List Word
  /-- held for lack of a launch entry -/
  held  : Bool
  images : LoadImages
  /-- a launch whose pending-spawn entries are not all written, and the next place (R86) -/
  rest  : Option (Launch × Nat)
  /-- the last update of the descriptor table that its images have set out, which stands before the launch's threads (R47, R257) -/
  upd   : Option Nat := none
  deriving DecidableEq, Repr, Inhabited

/-- A recorded value (R415). -/
structure LvrRec where
  core  : CoreId
  slot  : SlotId
  kind  : Nat
  count : Nat
  val   : List Word
  deriving DecidableEq, Repr, Inhabited

/-- What a member of a group has contributed (R363). -/
structure Contrib where
  op   : Nat
  elem : Nat
  data : List Byte
  deriving DecidableEq, Repr, Inhabited

/-- A collective group (R363): the device ids of its members in rank order, and this part's rank. -/
structure Group where
  members : List Nat
  rank    : Nat
  /-- contributions that have arrived over the fabric, by rank -/
  got     : List (Nat × Contrib)
  deriving DecidableEq, Repr, Inhabited

/-- The translation-invalidate command in progress (R174): tenant, range, and the number below which an access was
translated before it. -/
structure Inval where
  tenant : BitVec 9
  base   : Nat
  len    : Nat
  before : Nat
  deriving DecidableEq, Repr, Inhabited

/-- What goes out to another part over Gildoza (R427): the end of one of its accesses, under its number there; or a word of a node, with
the bytes that are written. -/
inductive FarOut
  | answer (dst num : Nat) (rep : Reply)
  | word (dst : Nat) (tenant : BitVec 9) (addr : Nat) (mask : BitVec 8) (data : Word)
  deriving DecidableEq, Repr, Inhabited

/-- What Waliasal owes while a take-over is to come or under way (R425): the report of a job, or a notice by its code. -/
inductive Owed
  | job (e : EntryId)
  | notice (code : Nat)
  deriving DecidableEq, Repr, Inhabited

/-- State of an active Waliasal role (R425). -/
inductive Role | active | failed | standby
  deriving DecidableEq, Repr, Inhabited

/-- What the host read last over CXL.mem (R417): address, bytes, poison indication. -/
structure HostRead where
  addr : Nat
  data : List Byte
  bad  : Bool
  deriving DecidableEq, Repr, Inhabited

structure State where
  cur    : Cur
  pair   : Option PairSt
  turn   : List Move
  fresh  : Nat
  serial : Nat
  cores  : List (CoreId × Core)
  clusters : List (BitVec 9 × Cluster)
  /-- the copies of the partitions' tables, by partition and cluster (R245, R382) -/
  copies : List ((Nat × BitVec 9) × TableCopy)
  dies   : List (BitVec 3 × Die)
  parts  : List (Nat × Partition)
  mem    : Mem
  reqs   : List Req
  msgs   : List Msg
  drains : List DrainW
  resvs  : List Resv
  packets : List Packet
  tenants : List (BitVec 9 × Tenant)
  /-- key generation of each keyring slot; `none`: the slot is empty (R403, R404) -/
  keyring : List (BitVec 9 × Option Nat)
  /-- cores disabled at manufacture (R15) -/
  disabled : List CoreId
  /-- the coupled pairs by their index (R409) -/
  pairs : List (BitVec 12 × PairRec)
  probes : List Probe
  words  : List NWord
  releases : List Release
  returns : List RowRet
  /-- relaxed stores that left the part over Gildoza and are not acknowledged: thread and request (R203, R427) -/
  fabricStores : List (Nat × Nat)
  /-- the command journal, newest first, at most 2,048 records, and the next SEQ (R422) -/
  journal : List JRec
  seq     : Nat
  /-- reports of frozen threads, newest first (R142) -/
  freezes : List Freeze
  /-- dirty maps: frame number and marked lines; those that a node holds (R181) -/
  dirty   : List (Nat × List Nat)
  /-- ERR of the dirty-map command block, its last command and frame (R420) -/
  dirtyErr : Bool
  dirtyCmd : Nat
  dirtyFrame : Nat
  inval   : Option Inval
  /-- `KRCMD` (R404), and the key state that every controller is to take up -/
  krcmd   : Word
  keyNew  : Option (BitVec 9 × Option Nat)
  /-- `LVRCTL`, the records written, and those still to be replayed (R415) -/
  lvrctl  : Word
  lvr     : List LvrRec
  /-- collective groups (R363) -/
  groups  : List (Nat × Group)
  /-- HDM window table: 1 GiB granule and tenant (R417) -/
  hdm     : List (Nat × BitVec 9)
  ctxs    : List (BitVec 12 × Ctx)
  cmds    : List Cmd
  /-- control-window words that have no behaviour of their own (R419) -/
  window  : List (Nat × Word)
  /-- `OWNCTL` (R424), writes discarded, masters whose link is down -/
  ownctl  : Word
  drops   : Nat
  down    : List (BitVec 2)
  /-- roles of Waliasal cores 0 and 1, heartbeats of the other since each one's last, is core 2 in service (R425) -/
  roles   : Vector Role 2
  beats   : Vector Nat 2
  standby : Bool
  /-- reports and notices that wait for a take-over, in order, and the SEQ from which a take-over under way has gone on (R425) -/
  owed    : List Owed
  taking  : Option Nat
  /-- notices sent to the host: code and journal SEQ (R423), newest first -/
  notices : List (Nat × Nat)
  /-- boot status (R428), power off (R429), silicon stepping (R402) -/
  boot    : Word
  off     : Bool
  stepping : Nat
  hostRead : Option HostRead
  /-- host address at which the HDM decoder of each head begins (R416) -/
  hdmBase : Vector Nat 3
  /-- configuration registers of the physical function: BAR bases and enables (R416, R426) -/
  cfg     : List (Nat × Word)
  /-- what has gone out over Gildoza to other parts, newest first (R427) -/
  fabricOut : List FarOut
  deriving DecidableEq, Repr, Inhabited

/-- The machine right after reset: every register at the value the spec gives, or at the one log entry 4 names. -/
def State.reset : State where
  cur := ⟨0, 0, 0, 1⟩
  pair := none
  turn := []
  fresh := 0
  serial := 0
  cores := []
  clusters := []
  copies := []
  dies := []
  parts := []
  mem := Mem.zero
  reqs := []
  msgs := []
  drains := []
  resvs := []
  packets := []
  tenants := []
  keyring := []
  disabled := []
  pairs := []
  probes := []
  words := []
  releases := []
  returns := []
  fabricStores := []
  journal := []
  seq := 1
  freezes := []
  dirty := []
  dirtyErr := false
  dirtyCmd := 0
  dirtyFrame := 0
  inval := none
  krcmd := 0
  keyNew := none
  lvrctl := 0
  lvr := []
  groups := []
  hdm := []
  ctxs := []
  cmds := []
  window := []
  ownctl := 0
  drops := 0
  down := []
  roles := Vector.replicate 2 .active
  beats := Vector.replicate 2 0
  standby := true
  owed := []
  taking := none
  notices := []
  boot := 0
  off := false
  stepping := 0
  hostRead := none
  hdmBase := Vector.replicate 3 0
  cfg := []
  fabricOut := []

/-- Why a step stops. -/
inductive Fault
  /-- Raised by `step` when a core would move on a module whose power is off (R429). Safe: nothing runs there. -/
  | poweredDown
  deriving DecidableEq, Repr, Inhabited

/-- Why an instruction has no meaning. -/
inductive Refusal
  /-- Raised by `exec` for an instruction whose arm has no meaning. Safe. -/
  | notModelled (mnemonic : String)
  deriving DecidableEq, Repr, Inhabited

end Sys2Proof.Machine
end

