-- ==== Sys2Proof/Machine/Places.lean ====
section
/-! DEFINITION. Core numbers, the mesh, the Hilbert order, partitions and the place table (R13, R14, R93, R400, R401). -/
namespace Sys2Proof.Machine

/-- Mesh row of a core (R14). -/
def meshRow (c : CoreId) : Nat :=
  32 * (c.toNat / 4096 % 2) + 4 * (c.toNat / 128 % 8) + c.toNat / 4 % 4

/-- Mesh column of a core (R14). -/
def meshCol (c : CoreId) : Nat :=
  32 * (c.toNat / 1024 % 4) + 4 * (c.toNat / 16 % 8) + c.toNat % 4

/-- The core at a mesh position (R13, R14). -/
def coreAt (row col : Nat) : CoreId :=
  BitVec.ofNat 13 (row / 32 % 2 * 4096 + col / 32 % 4 * 1024 + row % 32 / 4 * 128 + col % 32 / 4 * 16
    + row % 4 * 4 + col % 4)

/-- Cluster of a core (R13). -/
def clusterOf (c : CoreId) : BitVec 9 := BitVec.ofNat 9 (c.toNat / 16)
/-- Die of a core (R13). -/
def dieOf (c : CoreId) : BitVec 3 := BitVec.ofNat 3 (c.toNat / 1024)
/-- Die of a cluster. -/
def dieOfCluster (cl : BitVec 9) : BitVec 3 := BitVec.ofNat 3 (cl.toNat / 64)

/-- One step of R400: `(s, t, x, y)`. -/
def hilbertStep (a : Nat × Nat × Nat × Nat) : Nat × Nat × Nat × Nat :=
  let (s, t, x, y) := a
  let rx := t / 2 % 2
  let ry := (t % 2 + rx) % 2
  let (x, y) := if ry = 0 then (if rx = 1 then (s - 1 - y, s - 1 - x) else (y, x)) else (x, y)
  (2 * s, t / 4, x + s * rx, y + s * ry)

/-- The core at Hilbert index `h` (R400). -/
def hilbertCore (h : Nat) : CoreId :=
  let (_, _, x, y) := Nat.repeat hilbertStep 6 (1, h % 4096, 0, 0)
  coreAt y (64 * (h / 4096) + x)

/-- One step back: `(s, d, x, y)` from the highest bit down. -/
def hilbertBack (a : Nat × Nat × Nat × Nat) : Nat × Nat × Nat × Nat :=
  let (s, d, x, y) := a
  let rx := x / s % 2
  let ry := y / s % 2
  let x := x % s
  let y := y % s
  let (x, y) := if ry = 0 then (if rx = 1 then (s - 1 - y, s - 1 - x) else (y, x)) else (x, y)
  (s / 2, d * 4 + 2 * rx + (rx + ry) % 2, x, y)

/-- The Hilbert index of a core (R400). -/
def hilbertOf (c : CoreId) : Nat :=
  let col := meshCol c
  let (_, d, _, _) := Nat.repeat hilbertBack 6 (32, 0, col % 64, meshRow c)
  4096 * (col / 64) + d

namespace State

def part (s : State) (p : Nat) : Partition := agetD s.parts p Partition.reset
def setPart (s : State) (p : Nat) (x : Partition) : State := { s with parts := aset s.parts p x }

/-- The partition whose interval holds a core (R401). -/
def partOf (s : State) (c : CoreId) : Option Nat :=
  let h := hilbertOf c
  lowest 64 fun p => let x := s.part p; decide (x.base ≤ h) && decide (h < x.base + x.len)

/-- Places of a core's partition; none for a core in no partition (R93). -/
def placesOf (s : State) (c : CoreId) : List CoreId :=
  match s.partOf c with
  | some p => (s.part p).places
  | none => []

/-- The core of a logical place of the partition of `c`, read at the time of the lookup (R93). -/
def placeCore (s : State) (c : CoreId) (place : Nat) : Option CoreId := (s.placesOf c)[place]?

/-- The logical place of a core (R65). -/
def placeOf (s : State) (c : CoreId) : Nat := (s.placesOf c).findIdx (· == c)

/-- Is the core disabled at manufacture (R15)? -/
def disabledCore (s : State) (c : CoreId) : Bool := s.disabled.contains c

/-- The index of the pair a core would belong to (R409). -/
def pairOf (c : CoreId) : BitVec 12 := BitVec.ofNat 12 (c.toNat / 2)

/-- Is the core half of a coupled pair (R409)? -/
def isCoupled (s : State) (c : CoreId) : Bool := (aget s.pairs (pairOf c)).isSome

/-- The core that a neighbour port faces (R14), if it is a peer (R227): enabled, in the same partition, and not the
partner of a coupled pair (R409). -/
def peer (s : State) (c : CoreId) (p : Port) : Option CoreId :=
  let r := meshRow c
  let k := meshCol c
  let q : Option CoreId := match p with
    | .n => if r = 0 then none else some (coreAt (r - 1) k)
    | .s => if r = 63 then none else some (coreAt (r + 1) k)
    | .w => if k = 0 then none else some (coreAt r (k - 1))
    | .e => if k = 127 then none else some (coreAt r (k + 1))
  match q with
  | none => none
  | some x =>
    if s.disabledCore x || s.disabledCore c then none
    else if s.partOf x ≠ s.partOf c || (s.partOf c).isNone then none
    else if x.toNat / 2 = c.toNat / 2 ∧ s.isCoupled c then none
    else some x

end State

end Sys2Proof.Machine
namespace Sys2Proof
open Machine

def Port.idx : Port → Fin 4
  | .n => 0
  | .e => 1
  | .s => 2
  | .w => 3

/-- The port of the peer that faces back. -/
def Port.opposite : Port → Port
  | .n => .s
  | .s => .n
  | .e => .w
  | .w => .e

end Sys2Proof
namespace Sys2Proof.Machine


end Sys2Proof.Machine
end

