-- ==== Sys2Proof/Machine/Storage.lean ====
section
/-! DEFINITION. Words of storage with their full/empty, tag and poison bits (R18, R170, R180, R189), and device memory
under the tenants' keys (R403, R404). -/
namespace Sys2Proof.Machine

/-- What an unlisted byte reads as (log entry 1). -/
def Mem.blank : Byte := 0

def Mem.byte (m : Mem) (a : Nat) : Byte := (look m.bytes a).getD Mem.blank

def Mem.setByte (m : Mem) (a : Nat) (b : Byte) : Mem :=
  { m with bytes := put m.bytes a (if b = Mem.blank then none else some b) }

/-- The bytes at `a`, lowest first. -/
def Mem.read (m : Mem) (a n : Nat) : List Byte := (List.range n).map fun i => m.byte (a + i)

def Mem.write (m : Mem) (a : Nat) : List Byte → Mem
  | [] => m
  | b :: r => Mem.write (m.setByte a b) (a + 1) r

/-- Word `i` (R3). -/
def Mem.word (m : Mem) (i : Nat) : Word := BitVec.ofNat 64 (ofBytes (m.read (8 * i) 8))

def Mem.setWord (m : Mem) (i : Nat) (w : Word) : Mem := m.write (8 * i) (toBytes 8 w.toNat)

def Mem.isFull (m : Mem) (i : Nat) : Bool := !m.empty.contains i
def Mem.setFull (m : Mem) (i : Nat) (on : Bool) : Mem := { m with empty := mark m.empty i (!on) }
def Mem.tag (m : Mem) (i : Nat) : Bool := m.tags.contains i
def Mem.setTag (m : Mem) (i : Nat) (on : Bool) : Mem := { m with tags := mark m.tags i on }
def Mem.bad (m : Mem) (i : Nat) : Bool := m.poison.contains i
def Mem.setBad (m : Mem) (i : Nat) (on : Bool) : Mem := { m with poison := mark m.poison i on }

/-- Keys strictly rising. -/
def rising : List Nat → Bool
  | [] => true
  | [_] => true
  | a :: b :: r => decide (a < b) && rising (b :: r)

/-- The canonical form: addresses strictly rising, no byte listed that an unlisted address reads as. -/
def Mem.wf (m : Mem) : Bool :=
  rising (m.bytes.map (·.1)) && m.bytes.all (fun c => !(c.2 == Mem.blank)) &&
  rising m.empty && rising m.tags && rising m.poison && rising (m.keys.map (·.1))

/-- A place of storage: device memory under a key state, or the local store of a core. -/
inductive Space
  | dev (k : KeySt)
  | ls (c : CoreId)
  deriving DecidableEq, Repr, Inhabited

/-- The key state of the monitor, under which page tables are read and written (R403). -/
def monKey : KeySt := ⟨512, 0⟩

/-- Injective code of a word and a key state, for the free value a foreign read returns. -/
def scrambleIdx (k : KeySt) (i : Nat) : Nat := (k.gen * 1024 + k.tenant) * 2 ^ 38 + i

namespace State

def core (s : State) (c : CoreId) : Core := agetD s.cores c Core.reset
def setCore (s : State) (c : CoreId) (x : Core) : State := { s with cores := aset s.cores c x }
def cluster (s : State) (c : BitVec 9) : Cluster := agetD s.clusters c Cluster.reset
def setCluster (s : State) (c : BitVec 9) (x : Cluster) : State := { s with clusters := aset s.clusters c x }
/-- The copy of partition `p`'s tables at a cluster (R245). -/
def copy (s : State) (p : Nat) (cl : BitVec 9) : TableCopy := agetD s.copies (p, cl) TableCopy.reset
def setCopy (s : State) (p : Nat) (cl : BitVec 9) (x : TableCopy) : State := { s with copies := aset s.copies (p, cl) x }
def node (s : State) (cl : BitVec 9) (i : BitVec 10) : Node := agetD (s.cluster cl).nodes i Node.free
def setNode (s : State) (cl : BitVec 9) (i : BitVec 10) (n : Node) : State :=
  s.setCluster cl { s.cluster cl with nodes := aset (s.cluster cl).nodes i n }
def die (s : State) (d : BitVec 3) : Die := agetD s.dies d Die.reset
def setDie (s : State) (d : BitVec 3) (x : Die) : State := { s with dies := aset s.dies d x }
def tenant (s : State) (t : BitVec 9) : Tenant := agetD s.tenants t Tenant.zero
def setTenant (s : State) (t : BitVec 9) (x : Tenant) : State := { s with tenants := aset s.tenants t x }

/-- The key state under which a tenant's accesses are made; none while its keyring slot is empty. While a command runs,
an access uses the old state or the new one (R404). -/
def keyOf (s : State) (t : BitVec 9) : Option KeySt :=
  let old := agetD s.keyring t (some 0)
  let g := match s.keyNew with
    | some (t', new) => if t' = t ∧ Config.pick (s.fresh + 20) % 2 = 1 then new else old
    | none => old
  g.map fun n => ⟨t.toNat, n⟩

def space (s : State) : Space → Mem
  | .dev _ => s.mem
  | .ls c => (s.core c).ls

def setSpace (s : State) (sp : Space) (m : Mem) : State :=
  match sp with
  | .dev _ => { s with mem := m }
  | .ls c => s.setCore c { s.core c with ls := m }

/-- Word `i` as an access reads it: under another key state than it was written under, unrelated bits (R404). -/
def rdW (s : State) (sp : Space) (i : Nat) : Word :=
  match sp with
  | .ls c => (s.core c).ls.word i
  | .dev k =>
    match look s.mem.keys i with
    | none => s.mem.word i
    | some k' => if k' = k then s.mem.word i else Config.scramble (scrambleIdx k i) (s.mem.word i)

/-- Word `i` written whole; its tag and poison are not touched here. -/
def wrW (s : State) (sp : Space) (i : Nat) (w : Word) : State :=
  match sp with
  | .ls c => s.setCore c { s.core c with ls := (s.core c).ls.setWord i w }
  | .dev k =>
    let m := s.mem.setWord i w
    { s with mem := { m with keys := put m.keys i (some k) } }

def isFull (s : State) (sp : Space) (i : Nat) : Bool := (s.space sp).isFull i
def setFull (s : State) (sp : Space) (i : Nat) (on : Bool) : State := s.setSpace sp ((s.space sp).setFull i on)
def tagAt (s : State) (sp : Space) (i : Nat) : Bool := (s.space sp).tag i
def setTagAt (s : State) (sp : Space) (i : Nat) (on : Bool) : State := s.setSpace sp ((s.space sp).setTag i on)
def badAt (s : State) (sp : Space) (i : Nat) : Bool := (s.space sp).bad i
def setBadAt (s : State) (sp : Space) (i : Nat) (on : Bool) : State := s.setSpace sp ((s.space sp).setBad i on)

/-- A full store of word `i`: tag cleared (R170), poison cleared (R180). -/
def storeW (s : State) (sp : Space) (i : Nat) (w : Word) : State :=
  ((s.wrW sp i w).setTagAt sp i false).setBadAt sp i false

/-- The `n` bytes at byte address `a` inside one word, as a number. -/
def rdN (s : State) (sp : Space) (a n : Nat) : Nat :=
  (s.rdW sp (a / 8)).toNat / 2 ^ (8 * (a % 8)) % 2 ^ (8 * n)

/-- A store of `n` bytes at `a` inside one word: the rest of the word stays; a store of 8 bytes clears the poison, a
narrower one leaves it (R180); the tag of the word is cleared (R170). -/
def storeN (s : State) (sp : Space) (a n : Nat) (v : Nat) : State :=
  let i := a / 8
  if n = 8 then s.storeW sp i (BitVec.ofNat 64 v)
  else
    let w := setBits (s.rdW sp i) (8 * (a % 8) + 8 * n - 1) (8 * (a % 8)) v
    (s.wrW sp i w).setTagAt sp i false

/-- A word copied with its full/empty, tag and poison (R170, R182). -/
def copyW (s : State) (sp : Space) (i : Nat) (w : Word) (full tag bad : Bool) : State :=
  (((s.wrW sp i w).setFull sp i full).setTagAt sp i tag).setBadAt sp i bad

end State

/-- A window of the tenant's fabric map that holds an address (R427). -/
def State.fabricWin (s : State) (t : BitVec 9) (a : Nat) : Option FabricWin :=
  (s.tenant t).fabric.find? fun w => decide (w.base ≤ a / 2 ^ 30) && decide (a / 2 ^ 30 < w.base + w.len)

/-- What another part answers to a read of a byte: the number of the free value that stands for it (R427, log entry 50). -/
def State.farIdx (s : State) (va : Nat) : Nat := s.fresh * 2 ^ 52 + va

/-- Highest physical address of device memory (R18). -/
def paMax : Nat := 0x11FFFFFFFFF

/-- Slice at which a physical address is homed (R18). -/
def sliceOf (pa : Nat) : Nat := Nat.xor (pa / 256 % 64) (pa / 16384 % 64)

end Sys2Proof.Machine
end

