-- ==== Sys2Proof/Machine/Paging.lean ====
section
/-! DEFINITION. Translation of device virtual addresses (R171 to R174). -/
namespace Sys2Proof.Machine

/-- A leaf entry (R172) with the address bits its page leaves to the offset. -/
structure Leaf where
  pa  : Nat
  /-- bytes from the address to the end of its page -/
  len : Nat
  sec : Bool
  mig : Bool
  dt  : Bool
  x   : Bool
  w   : Bool
  deriving DecidableEq, Repr, Inhabited

/-- What a walk finds. -/
inductive Walk
  | leaf (l : Leaf)
  /-- an entry with V = 0 (R175) -/
  | absent
  /-- a reserved bit set: a malformed walk (R172) -/
  | malformed
  deriving DecidableEq, Repr, Inhabited

/-- A word of a page table, read under the monitor's key (R403). -/
def State.pte (s : State) (pa : Nat) : Word := s.rdW (.dev monKey) (pa / 8)

/-- An intermediate entry (R172): `none` when malformed, else its V and NEXT. -/
def midEntry (lvl2 : Bool) (e : Word) : Option (Bool × Nat) :=
  if bit e 0 then
    if bits e 63 52 = 0 ∧ bits e 12 1 = 0 ∧ (lvl2 = false ∨ bit e 13 = false) then some (true, bits e 51 13 * 2 ^ 13)
    else none
  else some (false, 0)

/-- A leaf entry (R172) whose frame begins at bit `lo`. -/
def leafEntry (lo : Nat) (e : Word) (va : Nat) : Walk :=
  if !bit e 0 then .absent
  else if bits e 61 52 ≠ 0 ∨ bits e (lo - 1) 4 ≠ 0 then .malformed
  else .leaf ⟨bits e 51 lo * 2 ^ lo + va % 2 ^ lo, 2 ^ lo - va % 2 ^ lo, bit e 63, bit e 62, bit e 3, bit e 2, bit e 1⟩

/-- The fine table root that an address of a tenant matches under a `REGION` word (R173). -/
def regionRoot (r : Word) (t : BitVec 9) (va : Nat) : Option Nat :=
  if bit r 63 && bits r 37 29 = t.toNat && bits r 62 41 = va / 2 ^ 30 % 2 ^ 22 then some (bits r 28 0) else none

namespace State

/-- The fine table root that an access of a core matches at issue (R173). -/
def fineOf (s : State) (c : CoreId) (t : BitVec 9) (va : Nat) : Option Nat := regionRoot (s.core c).region t va

/-- Address of the leaf entry of a virtual address, or how the walk ends before it. -/
def leafAddr (s : State) (t : BitVec 9) (fine : Option Nat) (va : Nat) : Except Walk Nat :=
  match fine with
  | some root => .ok (root * 2 ^ 23 + va / 2 ^ 10 % 2 ^ 20 * 8)
  | none =>
    match midEntry false (s.pte ((s.tenant t).root + va / 2 ^ 42 % 2 ^ 10 * 8)) with
    | none => .error .malformed
    | some (false, _) => .error .absent
    | some (true, n1) =>
      match midEntry true (s.pte (n1 + va / 2 ^ 32 % 2 ^ 10 * 8)) with
      | none => .error .malformed
      | some (false, _) => .error .absent
      | some (true, n2) => .ok (n2 + va / 2 ^ 21 % 2 ^ 11 * 8)

/-- The walk of R171. -/
def walk (s : State) (t : BitVec 9) (fine : Option Nat) (va : Nat) : Walk :=
  match s.leafAddr t fine va with
  | .error w => w
  | .ok a => leafEntry (if fine.isSome then 10 else 21) (s.pte a) va

end State

/-- The outcome of a translation for one kind of use. -/
inductive Xlat
  | ok (l : Leaf)
  /-- V = 0, or a write or fetch the entry does not permit (R175) -/
  | fault
  /-- the page is migrating and stops this use (R182, R183) -/
  | mig
  /-- frame outside device memory: 0x05 kind 6 -/
  | frame
  /-- a non-secure access to a secure page: 0x05 kind 4 -/
  | secure
  deriving DecidableEq, Repr, Inhabited

/-- What an entry permits a use of its page. -/
def Leaf.use (l : Leaf) (sec write fetch : Bool) : Xlat :=
  if (write && !l.w) || (fetch && !l.x) then .fault
  else if l.pa > paMax then .frame
  else if l.sec && !sec then .secure
  else if l.mig && (write || fetch) then .mig
  else .ok l

/-- R171, R175, R182: a translation for a read, a write or a fetch. A malformed walk goes to the pager as a fault,
which refuses it (R172, R179). -/
def State.translate (s : State) (t : BitVec 9) (fine : Option Nat) (sec : Bool) (va : Nat) (write fetch : Bool) :
    Xlat :=
  match s.walk t fine va with
  | .absent => .fault
  | .malformed => .fault
  | .leaf l => l.use sec write fetch

end Sys2Proof.Machine
end

