-- ==== Sys2Proof/Machine/Ops.lean ====
section
/-! DEFINITION. The shared operations of issue: the thread of the moment, registers, parking and waking, control
transfers, taking a trap and returning from one, fetch, and the checks every bundle passes (R31, R62, R70 to R73, R142,
R147, R162, R165). -/
namespace Sys2Proof.Machine

abbrev Out := Host.Outcome State Fault Refusal

namespace State

/-! ## The thread that issues -/

def slotAt (s : State) (c : CoreId) (n : SlotId) : Slot := (s.core c).slots[n]
def setSlot (s : State) (c : CoreId) (n : SlotId) (x : Slot) : State :=
  s.setCore c { s.core c with slots := (s.core c).slots.set n x }

/-- The core, slot and thread that issue. -/
def here (s : State) : Core := s.core s.cur.core
def setHere (s : State) (x : Core) : State := s.setCore s.cur.core x
def me (s : State) : Slot := s.slotAt s.cur.core s.cur.slot
def setMe (s : State) (x : Slot) : State := s.setSlot s.cur.core s.cur.slot x
def th (s : State) : Thread := s.me.th
def setTh (s : State) (t : Thread) : State := s.setMe { s.me with th := t }
/-- The current cycle of the issuing core. -/
def now (s : State) : Nat := s.here.cycle

/-- A number no register or request bears yet. -/
def bump (s : State) : State := { s with serial := s.serial + 1 }

/-- A change that another agent makes to a core. If the core is a coupled pair, it also stands in what a rollback brings back: a rollback
undoes the pair's own writes (R411). -/
def both (s : State) (c : CoreId) (f : State → State) : State :=
  match aget s.pairs (pairOf c) with
  | none => f s
  | some p =>
    let t := f s
    { t with pairs := aset t.pairs (pairOf c) { p with snap := ((f (s.setCore c p.snap.1)).core c, p.snap.2) } }

end State

/-! ## Registers -/

/-- `SELF` fields (R65). -/
def Thread.tenant (t : Thread) : BitVec 9 := BitVec.ofNat 9 (bits t.self 63 55)
def Thread.qclass (t : Thread) : BitVec 2 := BitVec.ofNat 2 (bits t.self 54 53)
def Thread.launch (t : Thread) : BitVec 16 := BitVec.ofNat 16 (bits t.self 35 20)
def Thread.place (t : Thread) : Nat := bits t.self 16 4

/-- The scalar register `r`; `s0` reads 0 (R38). -/
def Thread.sv (t : Thread) (r : SReg) : Word := if r = 0 then 0 else t.s[r.toFin].v

/-- Write a scalar register, full; a write to `s0` is discarded (R38). -/
def Thread.setS (t : Thread) (r : SReg) (w : Word) : Thread :=
  if r = 0 then t else { t with s := t.s.set r.toFin ⟨w, .full⟩ }

/-- Privilege levels in order. -/
def Level.idx : Level → Fin 3
  | .user => 0
  | .sup => 1
  | .mon => 2

/-- Leave a scalar register empty until the result `tok` arrives. -/
def Thread.emptyS (t : Thread) (r : SReg) (tok : Nat) : Thread :=
  if r = 0 then t else { t with s := t.s.set r.toFin ⟨t.s[r.toFin].v, .empty tok⟩ }

def Thread.setK (t : Thread) (r : KReg) (x : KCell) : Thread := { t with k := t.k.set r.toFin x }
def Thread.setD (t : Thread) (r : DReg) (x : DCell) : Thread := { t with d := t.d.set r.toFin x }
def Thread.setC (t : Thread) (i : BitVec 3) (b : Bool) : Thread :=
  { t with c := if b then t.c ||| (1#8 <<< i.toNat) else t.c &&& ~~~(1#8 <<< i.toNat) }

/-- `TILEB` fields (R269). -/
def Thread.bound (t : Thread) : Option TileId := if bit t.tileb 7 then some (BitVec.ofNat 2 (bits t.tileb 5 4)) else none

/-- The scalar `r` of a source field. -/
def View.s (v : View) (a : Src) : Word := v.th.sv a.reg
def View.sd (v : View) (r : SReg) : Word := v.th.sv r

/-- Does an ownership word of a tile or of the array name a thread's launch (R262, R273)? -/
def ownedBy (o : Word) (t : Thread) : Bool :=
  bit o 63 && decide (bits o 40 32 = t.tenant.toNat) && decide (bits o 15 0 = t.launch.toNat)

/-- Does an ownership word name the launch of a record? -/
def Orphan.owns (x : Orphan) (o : Word) : Bool :=
  bit o 63 && decide (bits o 40 32 = x.tenant.toNat) && decide (bits o 15 0 = x.launch.toNat)

/-- Does an inbox entry match `TAGF` at the thread's level (R221)? -/
def msgMatches (t : Thread) (e : InEntry) : Bool :=
  let mask := bits t.tagf 63 32
  let tag := bits (e.words.headD 0) 31 0
  let same := decide (Nat.land tag mask = Nat.land (bits t.tagf 31 0) mask)
  match t.level with
  | .user => !e.sys && decide (e.tenant = t.tenant) && same
  | _ => e.sys && same

/-- Free entries of an inbox (R219), reserved ones excluded (R218). -/
def Inbox.free (x : Inbox) : Nat := 64 - x.entries.length - (x.reserved.map (·.2)).sum

/-- `c8`–`c13` of the issuing core for a thread: a matching message waits, the inbox is full, a word waits in an in-port (R97,
R221, R227). -/
def State.extConds (s : State) (t : Thread) : BitVec 6 :=
  let k := s.here
  let b (i : Nat) (on : Bool) : Nat := if on then 2 ^ i else 0
  BitVec.ofNat 6 (b 0 (k.inbox.entries.any (msgMatches t)) +
    b 1 (decide (64 ≤ k.inbox.entries.length + (k.inbox.reserved.map (·.2)).sum)) +
    b 2 (!(k.ports[(0 : Fin 4)]).isEmpty) + b 3 (!(k.ports[(1 : Fin 4)]).isEmpty) +
    b 4 (!(k.ports[(2 : Fin 4)]).isEmpty) + b 5 (!(k.ports[(3 : Fin 4)]).isEmpty))

/-- What the bundle's heads read (R31). -/
def State.view (s : State) : View := ⟨s.th, s.here.tiles, s.here.aown, s.here.mown, s.extConds s.th⟩

/-- The ownership word that names a thread's launch (R262, R274). -/
def ownWord (t : Thread) : Word := word (2 ^ 63 + t.tenant.toNat * 2 ^ 32 + t.launch.toNat)

/-- What the scan of R31 finds at a register. -/
inductive RefSt
  | full
  | empty
  | fault (d : Deferred)
  /-- a row with a fault of another thread: parks, whatever the wait bit (R272) -/
  | foreign
  deriving DecidableEq, Repr, Inhabited

def Fill.st : Fill → RefSt
  | .full => .full
  | .empty _ => .empty
  | .fault d => .fault d

/-- Is there a row-fault record for a row from a thread of the launch that an owner record names, other than thread `but` (R272)? Its thread
is in a slot, suspended, or has retired. -/
def Core.recorded (x : Core) (o : Word) (but : Option Nat) (tl : TileId) (r : VReg) : Bool :=
  let has (t : Thread) : Bool :=
    decide (but ≠ some t.uid) && ownedBy o t && t.rowFaults.any fun f => f.tile == tl && f.row == r
  (x.slots.toList.any fun y => y.st != .free && has y.th) || (x.susp.any fun y => has y.th) ||
    x.orphans.any fun y => y.tile == tl && y.row == r && y.owns o

/-- What the row-fault records say of a row (R272): the thread's own one, or one of another thread. -/
def State.rowRecord (s : State) (v : View) (c : CoreId) (tl : TileId) (r : VReg) : RefSt :=
  match (if ownedBy v.aown[tl.toFin] v.th then v.th.rowFaults.find? (fun f => f.tile == tl && f.row == r) else none) with
  | some f => .fault f.d
  | none =>
    if (s.core c).recorded v.aown[tl.toFin] (some v.th.uid) tl r then .foreign else .full

/-- The state of a register (R34, R271). -/
def State.refSt (s : State) (v : View) : Ref → RefSt
  | .s r => if r = 0 then .full else v.th.s[r.toFin].f.st
  | .k r => v.th.k[r.toFin].f.st
  | .d r => v.th.d[r.toFin].f.st
  | .v r =>
    match v.th.bound with
    | none => .full
    | some tl =>
      match v.tiles[tl.toFin][r.toFin].f with
      | .empty _ => .empty
      | _ => s.rowRecord v s.cur.core tl r

/-- A register the bundle reads or writes, and whether an empty one traps (R34, R96). -/
structure Need where
  ref  : Ref
  trap : Bool
  deriving DecidableEq, Repr, Inhabited

end Sys2Proof.Machine
namespace Sys2Proof
open Machine

/-- A source field, a D field that is read, a destination. -/
def Src.need (a : Src) : Need := ⟨.s a.reg, a.wait⟩
def Src.vneed (a : Src) : Need := ⟨.v a.reg, a.wait⟩
def DSrc.need (a : DSrc) : Need := ⟨.d a.reg, a.wait⟩
def KSrc.need (a : KSrc) : Need := ⟨.k a.reg, a.wait⟩

end Sys2Proof
namespace Sys2Proof.Machine

def sN (r : SReg) : Need := ⟨.s r, false⟩
def vN (r : VReg) : Need := ⟨.v r, false⟩
def kN (r : KReg) : Need := ⟨.k r, false⟩
def dN (r : DReg) : Need := ⟨.d r, false⟩

/-- Class and number of a register in `EINFO` of cause 0x03 (R143). -/
def Ref.info : Ref → Word
  | .s r => word r.toNat
  | .v r => word (0x100 + r.toNat)
  | .d r => word (0x200 + r.toNat)
  | .k r => word (0x300 + r.toNat)

/-- The scan of R31 over the registers of one head, in order. -/
def State.scan (s : State) (v : View) : List Need → Note
  | [] => .none
  | n :: r =>
    match s.refSt v n.ref with
    | .full => s.scan v r
    | .fault d => .deliver n.ref d
    | .foreign =>
      match s.scan v r with
      | .none => .blocked [n.ref]
      | .blocked l => .blocked (n.ref :: l)
      | x => x
    | .empty =>
      if n.trap then .trap ⟨0x03, n.ref.info, 0, 0⟩
      else match s.scan v r with
        | .none => .blocked [n.ref]
        | .blocked l => .blocked (n.ref :: l)
        | x => x

/-! ## Parking and waking -/

/-- The thread of a slot parks (R72). -/
def State.parkAt (s : State) (c : CoreId) (n : SlotId) (w : WaitOn) : State :=
  (s.setSlot c n { s.slotAt c n with st := .parked, wait := w, parkSeq := s.serial, seen := none }).bump

def State.park (s : State) (w : WaitOn) : State := s.parkAt s.cur.core s.cur.slot w

/-- A parked thread becomes READY, or HELD in a disabled slot (R68, R70). -/
def State.wake (s : State) (c : CoreId) (n : SlotId) : State :=
  let x := s.slotAt c n
  match x.st with
  | .parked => s.setSlot c n { x with st := .ready, key := (s.core c).cycle, seen := none, wait := .answered }
  | .heldParked => s.setSlot c n { x with st := .held, key := (s.core c).cycle, seen := none, wait := .answered }
  | _ => s

/-! ## Fetch -/

/-- Trap 0x05 (R169): kind, key register, missing right. -/
def kinfo (kind : Nat) (key : Option KReg) (right : Nat) (info2 : Word) : TrapInfo :=
  ⟨0x05, word (right * 256 + (match key with | some k => 128 + k.toNat * 16 | none => 0) + kind), info2, 0⟩

/-- Key fields (R166). -/
def KCell.kind (k : KCell) : Nat := bits k.w0 62 61
def KCell.rights (k : KCell) : Nat := bits k.w0 57 52
def KCell.base (k : KCell) : Nat := bits k.w0 51 0
def KCell.tenant (k : KCell) : BitVec 9 := BitVec.ofNat 9 (bits k.w1 60 52)
def KCell.len (k : KCell) : Nat := bits k.w1 51 0
/-- Place of a local-store key. -/
def KCell.place (k : KCell) : Nat := bits k.w0 30 18

/-- The rights, by their index in `EINFO` (R166). -/
inductive Right | read | write | exec | follow | sync | cap
  deriving DecidableEq, Repr, Inhabited

def Right.idx : Right → Nat
  | .read => 0
  | .write => 1
  | .exec => 2
  | .follow => 3
  | .sync => 4
  | .cap => 5

def KCell.has (k : KCell) (x : Right) : Bool := decide (k.rights / 2 ^ x.idx % 2 = 1)

/-- The key check for a line fetch (R165, R168): the trap, if it fails. -/
def fetchCheck (t : Thread) (line : Nat) : Option TrapInfo :=
  let k := t.k[(0 : Fin 8)]
  let off : Word := BitVec.ofInt 64 ((line : Int) - k.base)
  if k.tag = false then some (kinfo 0 (some 0) 0 off)
  else if t.level = .user ∧ k.tenant ≠ t.tenant then some (kinfo 1 (some 0) 0 off)
  else if k.kind = 1 then some (kinfo 11 (some 0) 0 off)
  else if k.has .exec = false then some (kinfo 2 (some 0) 2 off)
  else if line < k.base ∨ line + 64 > k.base + k.len then some (kinfo 3 (some 0) 0 off)
  else none

/-- What reading a line for a thread finds. -/
inductive LineRes
  | ok (l : List Half)
  | trap (t : TrapInfo)
  /-- a page fault of the tenant of `k0` (R175), or a page that migrates (R183) -/
  | page (tenant : BitVec 9) (mig : Bool)
  deriving DecidableEq, Repr, Inhabited

/-- Halfwords of the line at a physical address. -/
def State.lineBytes (s : State) (k : KeySt) (pa : Nat) : List Half :=
  (List.range 32).map fun i => BitVec.ofNat 16 (s.rdN (.dev k) (pa + 2 * i) 2)

/-- The trap of a refused page fault (R179). -/
def refusalTrap (r : PageRefusal) (tenant : BitVec 9) (key : KReg) (va : Nat) : TrapInfo :=
  match r with
  | .quota => ⟨0x17, word tenant.toNat, word va, 0⟩
  | .refused => kinfo 5 (some key) 0 (word va)

/-- Was a fault on this page refused for the thread of a slot (R179)? -/
def Slot.refusedAt (x : Slot) (tenant : BitVec 9) (fine : Option Nat) (va : Nat) : Option PageRefusal :=
  match x.refusal with
  | some (r, t, a) =>
    if t = tenant ∧ (if fine.isSome then a / 2 ^ 10 = va / 2 ^ 10 else a / 2 ^ 21 = va / 2 ^ 21) then some r else none
  | none => none

/-- The line at `line` as the thread of a slot of core `c` fetches it: the check of `k0`, the instruction cache
(R183), then the page (R165, R171, R175). A line in a window of the fabric map comes from another part: its content, or a refusal, is
free (R427, log entry 50). -/
def State.lineAt (s : State) (c : CoreId) (x : Slot) (line : Nat) : LineRes :=
  match fetchCheck x.th line with
  | some t => .trap t
  | none =>
    let tn := x.th.k[(0 : Fin 8)].tenant
    match aget (s.core c).icache (tn, line) with
    | some l => .ok l
    | none =>
      let fine := s.fineOf c tn line
      if (s.fabricWin tn line).isSome then
        match Config.pick (s.farIdx line) % 4 with
        | 0 => .trap (refusalTrap .refused tn 0 line)
        | 1 => .trap (refusalTrap .quota tn 0 line)
        | _ => .ok ((List.range 32).map fun i => BitVec.ofNat 16 (Config.freeWord (s.farIdx (line + 2 * i))).toNat)
      else match s.translate tn fine (bit (s.core c).world 0) line false true with
      | .ok lf =>
        match s.keyOf tn with
        | some k => .ok (s.lineBytes k lf.pa)
        | none => .trap (kinfo 5 (some 0) 0 (word line))
      | .frame => .trap (kinfo 6 (some 0) 0 (word line))
      | .secure => .trap (kinfo 4 (some 0) 0 (word line))
      | .mig => .page tn true
      | .fault =>
        match x.refusedAt tn fine line with
        | some r => .trap (refusalTrap r tn 0 line)
        | none => .page tn false

/-! ## Control transfer -/

/-- `EINFO` of an encoding fault (R40). -/
def encInfo (hcount head tail sub : Nat) : Word :=
  word (hcount % 32 * 2 ^ 11 + head % 32 * 64 + tail % 4 * 16 + sub % 16)

/-- Index of the head that executes: the bundle's first, or its second. -/
def State.headIdx (s : State) : Nat :=
  s.th.pc / 2 % 32 + (match s.pair with | some p => if p.second then 1 else 0 | none => 0)

/-- An encoding fault found at issue, at the executing head. -/
def State.encTrap (s : State) (tail sub : Nat) (info2 : Word) : TrapInfo :=
  ⟨0x01, encInfo s.cur.hcount s.headIdx tail sub, info2, 0⟩

/-- The check of a target's line header (R32): SUB 10 or 11. An index of 0 fails whatever the line holds. Where the target line
cannot be fetched, control passes, the fault of the fetch is raised at the target head (R101), and the check of R32 is made
there when the line can be read: the model's choice, since R32 does not say what a header that cannot be read means (log
entry 93). -/
def State.targetSub (s : State) (pc : Nat) : Option Nat :=
  if pc / 2 % 32 = 0 then some 10
  else match s.lineAt s.cur.core s.me (pc / 64 * 64) with
    | .ok l => targetFault l (pc / 2 % 32)
    | _ => none

/-- R32: the trap of a transfer to `pc`. -/
def State.targetTrap (s : State) (pc : Nat) : Option TrapInfo :=
  match s.targetSub pc with
  | some sub => some (s.encTrap 0 sub (word pc))
  | none => none

/-- The checks of `JMP` on a register value, in order (R101). -/
def State.jumpTrap (s : State) (t : Word) : Option TrapInfo :=
  if bit t 0 then some ⟨0x06, 0, t, 0⟩
  else if bits t 63 52 ≠ 0 then some { kinfo 8 none 0 t with info2 := t }
  else s.targetTrap t.toNat

/-! ## Traps -/

/-- Does the cause's owner name the monitor (R142, R328)? -/
def ownerMonitor (cause : Nat) (info : Word) : Bool :=
  cause = 0x0A && (bits info 9 8 = 1 || bits info 9 8 = 2)

/-- Class of a cause (R143): user. -/
def userCause (cause : Nat) : Bool :=
  [0x03, 0x04, 0x06, 0x07, 0x08, 0x0C, 0x0D, 0x0E, 0x0F, 0x12, 0x13].contains cause

/-- R142: the level that takes a trap, `none` for a freeze. -/
def route (t : Thread) (user owner : Bool) : Option Level :=
  let l1 : Level := if user && decide (t.level = .user) && decide (t.tvec ≠ 0) && !bit t.ecause 61 then .user else .sup
  let l2 : Level :=
    if l1 = .user then .user
    else if t.level = .mon ∨ bit t.scause 61 ∨ owner then .mon else .sup
  if l2 = .mon ∧ bit t.mcause 61 then none else some l2

/-- The cause register after a trap (R145, R147, R148). -/
def causeWord (i : TrapInfo) (deferred : Bool) (dcnt : Nat) (from_ : Level) (user : Bool) : Word :=
  word ((if deferred then 2 ^ 63 else 0) + 2 ^ 61 +
    (if user then 0 else match from_ with | .user => 0 | .sup => 2 ^ 59 | .mon => 2 ^ 60) +
    dcnt % 256 * 2 ^ 16 + i.fl.toNat * 2 ^ 8 + i.cause % 256)

/-- The registers of level `x` at trap entry (R147). -/
def enterRegs (t : Thread) (x : Level) (epc : Nat) (cause : Word) (i : TrapInfo) : Thread :=
  match x with
  | .user => { t with epc := word epc, ecause := cause, einfo := i.info, einfo2 := i.info2, level := .user }
  | .sup => { t with sepc := word epc, scause := cause, sinfo := i.info, sinfo2 := i.info2, level := .sup }
  | .mon => { t with mepc := word epc, mcause := cause, minfo := i.info, minfo2 := i.info2, level := .mon }

/-- Shadow mode ends: `k7` and the view of `s16`–`s31` come back, and the PC is the missing head (R369). -/
def leaveShadow (t : Thread) : Thread :=
  match t.shadow with
  | none => t
  | some h => { t with
      s := Vector.ofFn fun i => if h16 : 16 ≤ i.val then h.s[i.val - 16]'(by omega) else t.s[i]
      k := t.k.set 7 h.k7
      pc := h.pc
      line := none
      shadow := none }

namespace State

/-- `Freeze` of R142: no wake event, and a report to Waliasal core 3. -/
def freeze (s : State) (cause : Nat) : State :=
  { s.park .frozen with freezes := ⟨s.th.place, s.cur.slot, cause, s.th.pc⟩ :: s.freezes }

def vectorOf (s : State) (t : Thread) : Level → Word
  | .user => t.tvec
  | .sup => s.here.svec
  | .mon => s.here.mvec

/-- Trap entry at level `x` (R147): the registers of the level, then the PC at its vector; with the fault of a vector whose line
header fails its check, and the PC still at the bundle. -/
def entry (s : State) (x : Level) (epc : Nat) (i : TrapInfo) (deferred : Bool) (dcnt : Nat) : State × Option TrapInfo :=
  let t := enterRegs s.th x epc (causeWord i deferred dcnt s.th.level (x == .user)) i
  let vec := s.vectorOf t x
  let s1 := (s.setTh { t with fpMask := false, trapAt := t.trapAt.set x.idx s.serial }).bump
  let go : State := s1.setTh { s1.th with pc := vec.toNat, line := none }
  if bits vec 63 52 ≠ 0 ∨ bit vec 0 then (go, none)
  else match s1.targetSub vec.toNat with
    | some sub => (s1, some ⟨0x01, encInfo s.cur.hcount (s.th.pc / 2 % 32) 0 sub, vec, 0⟩)
    | none => (go, none)

/-- Trap entry at a level already routed, with the retries of R147 when the vector fails its check. -/
def enter (s : State) (fuel : Nat) (lvl : Option Level) (epc : Nat) (i : TrapInfo) (deferred : Bool) (dcnt : Nat) :
    State :=
  match fuel with
  | 0 =>
    match lvl with
    | none => s.freeze i.cause
    | some x =>
      match s.entry x epc i deferred dcnt with
      | (t, none) => t
      | (t, some j) => t.freeze j.cause
  | fuel + 1 =>
    match lvl with
    | none => s.freeze i.cause
    | some x =>
      match s.entry x epc i deferred dcnt with
      | (t, none) => t
      | (t, some j) =>
        if x = .mon then t.freeze j.cause else t.enter fuel (route t.th false false) s.th.pc j false 0

/-- A trap on the current bundle (R142, R147): no effect of the bundle remains. A trap in the shadow handler ends
shadow mode and is a trap of the missing bundle, with the handler head as further information (R369). -/
def takeTrap (s : State) (i : TrapInfo) : State :=
  let s := s.setMe { s.me with refusal := none }
  match s.th.shadow with
  | none => s.enter 3 (route s.th (userCause i.cause) (ownerMonitor i.cause i.info)) s.th.pc i false 0
  | some _ =>
    let pc := s.th.pc
    let s := s.setTh (leaveShadow s.th)
    s.enter 3 (route s.th (userCause i.cause) (ownerMonitor i.cause i.info)) s.th.pc
      { i with info2 := word pc } false 0

/-- The register holding a deferred fault is left full with zero (R148, R272). -/
def clearFault (s : State) (r : Ref) : State :=
  match r with
  | .s r => s.setTh (s.th.setS r 0)
  | .k r => s.setTh (s.th.setK r ⟨0, 0, false, .full⟩)
  | .d r => s.setTh (s.th.setD r DCell.zero)
  | .v r =>
    match s.th.bound with
    | none => s
    | some tl =>
      let s := s.setTh { s.th with rowFaults := s.th.rowFaults.filter fun f => !(f.tile == tl && f.row == r) }
      s.setHere { s.here with tiles := s.here.tiles.set tl.toFin (s.here.tiles[tl.toFin].set r.toFin ⟨0, .full⟩) }

/-- Delivery of a deferred fault (R148): `EPC` names the faulting access, the further information the reader. With no
register named, the caller has cleared what held the record. -/
def deliver (s : State) (r : Option Ref) (d : Deferred) : State :=
  let s1 := match r with | some r => s.clearFault r | none => s
  let s1 := s1.setMe { s1.me with refusal := none }
  match s1.th.shadow with
  | some _ => s1.takeTrap ⟨d.cause, d.info, 0, d.fl⟩
  | none =>
    s1.enter 3 (route s1.th (userCause d.cause) (ownerMonitor d.cause d.info)) d.pc
      ⟨d.cause, d.info, word s1.th.pc, d.fl⟩ true d.dcnt

end State

/-! ## Completion -/

/-- What the effect of a head answers. -/
inductive Head
  /-- takes effect; the thread goes on at `NextPC` -/
  | ok (s : State)
  /-- takes effect; control passes to `t`. `mask`: the floating-point traps of the bundle at `t` are suppressed -/
  | jump (s : State) (t : Nat) (mask : Bool)
  | trap (t : TrapInfo)
  /-- a deferred fault met by the effect, already cleared in `s` (R105, R148) -/
  | late (s : State) (d : Deferred)
  /-- no effect (R8); the thread parks and reissues the bundle -/
  | park (w : WaitOn)
  /-- an access is outstanding; the bundle completes when it is answered -/
  | pend (s : State) (w : WaitOn)
  /-- takes effect; the thread parks and resumes at its next bundle -/
  | wait (s : State) (w : WaitOn)
  /-- the bundle takes no effect, and `s` stands in its place: a spill step (R105), the entry of the shadow handler (R369), or a
  park before which the entry makes a state of its own -/
  | turn (s : State)
  /-- takes effect, and nothing of the bundle's end is left to do: the thread leaves its slot, or stands in a handler -/
  | gone (s : State)
  deriving Inhabited

/-- Start PC of a hardware loop (R110). -/
def loopStart (le : Word) : Nat :=
  (bits le 50 0 * 2) / 64 * 64 - 64 * bits le 58 51 + 2 * bits le 63 59

/-- The loop step (R112) of a bundle of `n` heads at `pc`: the counts after it, and where it loops back to. -/
def loopStep (t : Thread) (n : Nat) : Word × Word × Option Nat :=
  let ends (le : Word) : Bool := bits le 50 0 * 2 == t.pc || (n == 2 && bits le 50 0 * 2 == t.pc + 2)
  let hit1 := decide (t.lc1 ≠ 0) && ends t.le1
  let hit0 := decide (t.lc0 ≠ 0) && ends t.le0
  let lc1 := if hit1 then t.lc1 - 1 else t.lc1
  if hit1 && decide (lc1 ≠ 0) then (t.lc0, lc1, some (loopStart t.le1))
  else
    let lc0 := if hit0 then t.lc0 - 1 else t.lc0
    if hit0 && decide (lc0 ≠ 0) then (lc0, lc1, some (loopStart t.le0)) else (lc0, lc1, none)

namespace State

/-- The bundle has completed without a control transfer: the loop step, and the PC moves on. -/
def advance (s : State) (hcount width : Nat) : State :=
  let t := s.th
  let (l0, l1, b) := loopStep t width
  let s := s.setMe { s.me with refusal := none }
  let s := s.setTh (match b with
    | some st => { t with lc0 := l0, lc1 := l1, pc := st, line := none, fpMask := false }
    | none => { t with lc0 := l0, lc1 := l1, pc := nextPc t.pc hcount width, fpMask := false })
  s.setHere { s.here with retired := s.here.retired + 1 }

/-- The check of the start line of a loop that would loop back (R112): SUB 10 or 11 at the bundle's first head. -/
def loopTrap (s : State) (width : Nat) : Option TrapInfo :=
  match (loopStep s.th width).2.2 with
  | some st =>
    match s.targetSub st with
    | some sub => some ⟨0x01, encInfo s.cur.hcount (s.th.pc / 2 % 32) 0 sub, word st, 0⟩
    | none => none
  | none => none

/-- Control passes to `t` (R32); the bundle has completed. -/
def transfer (s : State) (t : Nat) (mask : Bool) : State :=
  let s := s.setMe { s.me with refusal := none }
  let s := s.setTh { s.th with pc := t, line := none, fpMask := mask }
  s.setHere { s.here with retired := s.here.retired + 1 }

/-- LOST is set by an access of an instruction that finds a shift error (R330): the one effect that its trap leaves. -/
def markLost (s : State) (i : TrapInfo) : State :=
  if i.cause = 0x0B ∧ bit i.info 29 = false then
    let t : TrackId := BitVec.ofNat 6 (bits i.info 5 0)
    let x := s.here
    s.setHere { x with tracks := aset x.tracks t { agetD x.tracks t Track.reset with lost := true } }
  else s

/-- The end of a bundle, from what its effect answered. `s0` stood before it. -/
def settle (s0 : State) (h : Head) : State :=
  let n := s0.cur.width
  match h with
  | .ok s =>
    match s.loopTrap n with
    | some t => s0.takeTrap t
    | none => s.advance s.cur.hcount n
  | .jump s t m => s.transfer t m
  | .trap t => (s0.markLost t).takeTrap t
  | .late s d => s.deliver none d
  | .park w => s0.park w
  | .pend s w =>
    match s.loopTrap n with
    | some t => s0.takeTrap t
    | none => (s.setMe { s.me with hcount := s.cur.hcount, width := n }).park w
  | .wait s w =>
    match s.loopTrap n with
    | some t => s0.takeTrap t
    | none => (s.advance s.cur.hcount n).park w
  | .turn s => s
  | .gone s => s.setHere { s.here with retired := s.here.retired + 1 }

/-- What the scan found for a bundle alone. -/
def settleScan (s : State) (n : Note) : Option State :=
  match n with
  | .deliver r d => some (s.deliver (some r) d)
  | .trap t => some (s.takeTrap t)
  | .blocked l => some (s.park (.regs l))
  | _ => none

end State

/-- Is it the access of an instruction that waits for it (R188), and no word of a spilled or filled window? -/
def Req.ordinary (r : Req) : Bool :=
  !r.relaxed && (match r.op with | .spill _ => false | .fill _ => false | _ => true)

namespace State

/-- The thread of a slot becomes the one that issues, with the heads of its outstanding bundle. -/
def at_ (s : State) (c : CoreId) (n : SlotId) : State :=
  { s with cur := ⟨c, n, (s.slotAt c n).hcount, (s.slotAt c n).width⟩, pair := none }

/-- The entry a `TASK` has reserved is free again (R372). -/
def unreserveNode (s : State) (r : Req) : State :=
  match r.op with
  | .task _ i _ =>
    let cl := clusterOf r.core
    if (s.node cl i).st = .reserved then s.setNode cl i { s.node cl i with st := .free } else s
  | _ => s

/-- All that the outstanding bundle of a slot has set out is withdrawn: its ordinary accesses, a task entry it has reserved, its
queued swap, its held head (R31). -/
def withdraw (s : State) (c : CoreId) (n : SlotId) : State :=
  let u := (s.slotAt c n).th.uid
  let mine (r : Req) : Bool := r.uid == u && r.ordinary
  let s := (s.reqs.filter mine).foldl unreserveNode s
  let s : State := { s with reqs := s.reqs.filter fun r => !mine r }
  let x := s.core c
  let s := s.setCore c { x with arrayq := x.arrayq.filter fun e => !(e.uid == u && e.op == .mswap) }
  s.setSlot c n { s.slotAt c n with held := none }

/-- A thread parks in a slot that stays disabled where it was (R68). -/
def reparkAt (s : State) (c : CoreId) (n : SlotId) (w : WaitOn) : State :=
  let off := (s.slotAt c n).st == .heldParked || (s.slotAt c n).st == .held
  let t := s.parkAt c n w
  if off then t.setSlot c n { t.slotAt c n with st := .heldParked } else t

/-- The thread of a slot leaves its park and `f` is done to it; where it parks again, a disabled slot stays disabled (R68). -/
def wakeTo (s : State) (c : CoreId) (n : SlotId) (f : State → State) : State :=
  let off := (s.slotAt c n).st == .heldParked
  let t := f ((s.at_ c n).wake c n)
  if off && (t.slotAt c n).st == .parked then t.setSlot c n { t.slotAt c n with st := .heldParked } else t

/-- The access a parked thread waits for has been answered: the bundle completes and the thread is READY, or the
bundle's other head takes effect first (R31, R72). -/
def answer (s : State) (c : CoreId) (n : SlotId) : State :=
  let x := s.slotAt c n
  match x.held with
  | some _ => s.setSlot c n { x with wait := .answered }
  | none =>
    let t := s.at_ c n
    (t.advance x.hcount x.width).wake c n

/-- The access ends in a trap at its bundle, with no effect. -/
def answerTrap (s : State) (c : CoreId) (n : SlotId) (i : TrapInfo) : State :=
  (s.withdraw c n).wakeTo c n fun t => t.takeTrap i

/-- The thread of a slot resumes at its next bundle: that bundle has completed already (R72). -/
def resume (s : State) (c : CoreId) (n : SlotId) : State := s.wake c n

/-- The thread named `uid` wherever it stands: in a slot, a landing buffer, a packet or a suspension record. -/
def mapUid (s : State) (uid : Nat) (f : Thread → Thread) : State :=
  let g (t : Thread) : Thread := if t.uid = uid then f t else t
  { s with
    cores := s.cores.map fun p => (p.1, { p.2 with
      slots := p.2.slots.map fun x => if x.st = .free ∨ x.st = .disabled then x else { x with th := g x.th }
      landing := p.2.landing.map fun l => match l with | .waits t => .waits (g t) | y => y
      susp := p.2.susp.map fun r => { r with th := g r.th } })
    packets := s.packets.map fun p => { p with th := g p.th } }

/-- Exceptions merged into the status of a thread that has not retired (R267, R304). -/
def mergeFl (s : State) (uid : Nat) (fl : BitVec 5) : State :=
  if fl = 0 then s else s.mapUid uid fun t => { t with fsr := t.fsr ||| fl.setWidth 64 }

end State

/-- The level an instruction needs (R60). -/
inductive Need60 | any | sup | mon | shadow
  deriving DecidableEq, Repr, Inhabited

/-- Trap 0x02 of a thread below the level (R60), and of a shadow handler that holds what R369 forbids it. -/
def privTrap (t : Thread) : Need60 → Option TrapInfo
  | .any => none
  | .sup => if t.level = .user then some ⟨0x02, 1, 0, 0⟩ else none
  | .mon => if t.level ≠ .mon then some ⟨0x02, 2, 0, 0⟩ else none
  | .shadow => if t.shadow.isNone then some ⟨0x02, 3, 0, 0⟩ else none

/-- The answer of one head of a pair, as a note; the state is the head's. -/
def noteOf (s0 : State) (p : PairSt) (h : Head) : State :=
  let put (s : State) (n : Note) : State :=
    { s with pair := some { p with note := n, fl := (match s.pair with | some q => q.fl | none => 0) } }
  match h with
  | .ok s => put s .ok
  | .jump s t m => put s (.jump t m)
  | .trap t => put s0 (.trap t)
  | .late s d => put s (.late d)
  | .park w => put s0 (.park w)
  | .pend s w => put s (.pend w)
  | .wait s w => put s (.wait w)
  | .turn s => put s .turn
  | .gone s => put s .gone

/-- An instruction at issue: privilege, the scan of its registers, its own checks and effect, in the order of R62.
Alone it is taken to its end; as a head of a pair each pass leaves a note. -/
def issue (priv : View → State → Option TrapInfo) (needs : View → List Need) (body : View → State → Head)
    (s : State) : Out :=
  match s.pair with
  | none =>
    let v := s.view
    .next (match priv v s with
      | some t => s.takeTrap t
      | none =>
        match s.settleScan (s.scan v (needs v)) with
        | some s' => s'
        | none => s.settle (body v s))
  | some p =>
    .next (match p.phase with
      | .priv => { s with pair := some { p with note := match priv p.view s with | some t => .trap t | none => .none } }
      | .scan => { s with pair := some { p with note := s.scan p.view (needs p.view) } }
      | .effect => noteOf s p (body p.view s))

/-- An instruction that runs at every level (R60) and may stand in a shadow handler. -/
def plain (needs : List Need) (body : View → State → Head) (s : State) : Out :=
  issue (fun _ _ => none) (fun _ => needs) body s

/-! ## Pairs -/

/-- One pass over one head of a pair. -/
def passHead (ex : Instr → State → Out) (s : State) (ph : Phase) (second : Bool) (v : View) (fl : BitVec 5)
    (i : Instr) : State × Note × BitVec 5 :=
  match ex i { s with pair := some ⟨ph, second, v, .none, fl⟩ } with
  | .next t =>
    match t.pair with
    | some p => ({ t with pair := none }, p.note, p.fl)
    | none => (t, .none, fl)
  | _ => (s, .none, fl)

/-- Merge the flags the heads raised, after every other effect (R140). -/
def mergeFlags (s : State) (fl : BitVec 5) : State :=
  if fl = 0 then s else s.setTh { s.th with fsr := s.th.fsr ||| fl.setWidth 64 }

/-- The bundle's end, from the notes of both heads in line order; `s0` stood before it, `s` holds both effects. -/
def pairEnd (s0 s : State) (n1 n2 : Note) : State :=
  let w := s0.cur.width
  let fin (k : State) : State :=
    match s.loopTrap w with
    | some t => s0.takeTrap t
    | none => k
  match n1, n2 with
  | .jump t m, _ => s.transfer t m
  | _, .jump t m => s.transfer t m
  | .gone, _ => s.setHere { s.here with retired := s.here.retired + 1 }
  | _, .gone => s.setHere { s.here with retired := s.here.retired + 1 }
  | .wait x, _ => fin ((s.advance s.cur.hcount w).park x)
  | _, .wait x => fin ((s.advance s.cur.hcount w).park x)
  | _, _ => fin (s.advance s.cur.hcount w)

/-- A head that takes effect at issue. -/
def Note.acts : Note → Bool
  | .ok => true
  | .jump .. => true
  | .wait _ => true
  | .gone => true
  | _ => false

/-- `sa` with the array queue and the tracks as in `s`: the other head of the bundle does not wait for what the array head has
queued and holds beside it (R31). -/
def State.unqueue (s sa : State) : State := sa.setHere { sa.here with arrayq := s.here.arrayq, tracks := s.here.tracks }

/-- `sb` with what the array head of the bundle has queued and holds, as it stands in `sa` beside `s`. -/
def State.requeue (s sa sb : State) : State :=
  let new := sa.here.arrayq.drop s.here.arrayq.length
  let held (t : TrackId) : Nat := (agetD sa.here.tracks t Track.reset).arrays - (agetD s.here.tracks t Track.reset).arrays
  let x := { sb.here with arrayq := sb.here.arrayq ++ new }
  sb.setHere (sa.here.tracks.foldl (fun (x : Core) p =>
    if held p.1 = 0 then x
    else
      let k := agetD x.tracks p.1 Track.reset
      { x with tracks := aset x.tracks p.1 { k with arrays := k.arrays + held p.1 } }) x)

/-- The bundle loops back to a line that does not pass its check: the test of R112 on the state that both heads leave. A control
transfer counts no loop. -/
def State.loopEnds (s : State) (width : Nat) : Note → Option TrapInfo
  | .jump .. => none
  | .gone => none
  | _ => s.loopTrap width

/-- The two heads of a bundle (R31, R62): privilege, then one scan, then both effects, the array head's first. A head whose
access is outstanding holds the other back; two such heads wait for each other (`State.mateReady`). -/
def runPair (ex : Instr → State → Out) (h1 h2 : Instr) (array1 : Bool) (s : State) : State :=
  let v := s.view
  let priv (b : Bool) (i : Instr) := (passHead ex s .priv b v 0 i).2.1
  match priv false h1, priv true h2 with
  | .trap t, _ => s.takeTrap t
  | _, .trap t => s.takeTrap t
  | _, _ =>
    let sc (b : Bool) (i : Instr) := (passHead ex s .scan b v 0 i).2.1
    match sc false h1, sc true h2 with
    | .deliver r d, _ => s.deliver (some r) d
    | .trap t, _ => s.takeTrap t
    | _, .deliver r d => s.deliver (some r) d
    | _, .trap t => s.takeTrap t
    | .blocked l, .blocked l' => s.park (.regs (l ++ l'))
    | .blocked l, _ => s.park (.regs l)
    | _, .blocked l => s.park (.regs l)
    | _, _ =>
      let (a, b) := if array1 then (h1, h2) else (h2, h1)
      let (sa, na, fa) := passHead ex s .effect (!array1) v 0 a
      let (sb, nb, fb) := passHead ex (if na.acts then s.unqueue sa else s) .effect array1 v fa b
      let sb := if na.acts then s.requeue sa sb else sb
      let (n1, n2) := if array1 then (na, nb) else (nb, na)
      let (s1, s2) := if array1 then (sa, sb) else (sb, sa)
      let alone (second : Bool) : State := (passHead ex s .effect second v 0 (if second then h2 else h1)).1
      let out (t : State) (w : WaitOn) (h : Option HeldHead) : State :=
        (t.setMe { t.me with hcount := s.cur.hcount, width := s.cur.width, held := h }).park w
      let hold (second : Bool) (w : WaitOn) (o : State) (on : Note) : State :=
        match o.loopEnds s.cur.width on with
        | some i => s.takeTrap i
        | none => out (alone second) w (some ⟨if second then h1 else h2, !second, v⟩)
      match n1, n2 with
      | .trap t, _ => (s.markLost t).takeTrap t
      | .late d, _ => (alone false).deliver none d
      | _, .trap t => (s.markLost t).takeTrap t
      | _, .late d => (alone true).deliver none d
      | .park w, _ => s.park w
      | _, .park w => s.park w
      | .turn, _ => alone false
      | _, .turn => alone true
      | .pend w1, .pend w2 =>
        let (t, _, _) := passHead ex sa .effect array1 v fa b
        match t.loopTrap s.cur.width with
        | some i => s.takeTrap i
        | none => out t (if array1 then w2 else w1) none
      | .pend w, n => hold false w s2 n
      | n, .pend w => hold true w s1 n
      | _, _ => pairEnd s (mergeFlags sb fb) n1 n2

/-! ## Held heads (R31) -/

/-- What the held head of a bundle comes to. -/
inductive HeldRes
  /-- it has taken effect; the bundle is still to end as the note says -/
  | acts (s : State) (n : Note)
  /-- the bundle has no effect: it traps, or its thread parks and reissues it -/
  | off (s : State)

/-- The held head of the bundle of a slot, when the other head's access is about to perform (R31). -/
def heldHead (ex : Instr → State → Out) (s : State) (c : CoreId) (n : SlotId) (h : HeldHead) : HeldRes :=
  let s0 := s.at_ c n
  let (t, note, fl) := passHead ex s0 .effect h.second h.v 0 h.i
  let u := mergeFlags t fl
  let again (w : WaitOn) : HeldRes := .off ((s.withdraw c n).reparkAt c n w)
  match note with
  | .trap i => .off ((s.withdraw c n).wakeTo c n fun t => (t.markLost i).takeTrap i)
  | .late d => .off ((t.withdraw c n).wakeTo c n fun t => t.deliver none d)
  | .park w => again w
  | .pend _ => again .woken
  | .turn => again .woken
  | _ =>
    match u.loopEnds s0.cur.width note with
    | some i => .off (s.answerTrap c n i)
    | none => .acts u note

end Sys2Proof.Machine
end

