-- ==== Sys2Proof/Machine/Flags.lean ====
section
/-! DEFINITION. The floating-point status: rounding mode, trap enables, merging of flags, floating-point traps (R36,
R135, R136, R139, R140, R149). -/
namespace Sys2Proof.Machine

/-- The mode that a code of `FSR.RM` names (R36, R140). -/
def rmOfCode (n : Nat) : RMode :=
  match n with
  | 1 => .rtz
  | 2 => .rdn
  | 3 => .rup
  | 4 => .rna
  | _ => .rne

/-- `FSR.RM` (R140). -/
def fsrMode (fsr : Word) : RMode := rmOfCode (bits fsr 12 10)
/-- `FSR`[9:5], the trap enables, in the order of the flags (R140). -/
def fsrEnables (fsr : Word) : BitVec 5 := BitVec.ofNat 5 (bits fsr 9 5)
def fsrOsat (fsr : Word) : Bool := bit fsr 13

end Sys2Proof.Machine
namespace Sys2Proof
open Machine

/-- The mode of a rounding field (R135). -/
def Rnd.mode (r : Rnd) (fsr : Word) : RMode :=
  match r with
  | .fixed m => m
  | .dyn => fsrMode fsr

end Sys2Proof
namespace Sys2Proof.Machine


/-- The environment of a scalar or vector operation: under the suppression of R149 the untrapped rules hold. -/
def View.fenv (v : View) (m : RMode) : FEnv :=
  ⟨m, fsrOsat v.th.fsr, bit v.th.fsr 6 && !v.th.fpMask⟩

/-- Does a set of exceptions trap (R139, R149)? -/
def View.fpTraps (v : View) (fl : Flags) : Bool := decide (fl &&& fsrEnables v.th.fsr ≠ 0) && !v.th.fpMask

/-- OR exceptions into `FSR`[4:0]; in a pair after both heads' effects (R140). -/
def State.orFlags (s : State) (fl : Flags) : State :=
  match s.pair with
  | none => mergeFlags s fl
  | some p => { s with pair := some { p with fl := p.fl ||| fl } }

/-- `NextPC` of the bundle (R29). -/
def State.nextPC (s : State) : Nat := nextPc s.th.pc s.cur.hcount s.cur.width

/-- Trap 0x07 with the default result (R149). -/
def State.fpTrap (s : State) (r : Word) (fl : Flags) : TrapInfo := ⟨0x07, r, word s.nextPC, fl⟩

/-- The exceptions of lanes as one set (R277). -/
def lanesFlags (l : List FRes) : Flags := l.foldl (fun a r => a ||| r.fl) 0

/-- Trap 0x08 (R149): the lanes that raised an enabled exception. -/
def View.laneTrap (v : View) (l : List FRes) : TrapInfo :=
  let en := fsrEnables v.th.fsr
  let m := (l.zipIdx.filter fun p => decide (p.1.fl &&& en ≠ 0)).foldl (fun a p => a + 2 ^ p.2) 0
  ⟨0x08, word (m % 2 ^ 64), word (m / 2 ^ 64), lanesFlags l⟩

end Sys2Proof.Machine
end

