-- ==== Sys2Proof/Machine/Operands.lean ====
section
/-! DEFINITION. Operand forms: condition registers (R97), memory operands (R35), the key check (R168) and the checks of a
memory instruction (R192). -/
namespace Sys2Proof.Machine

/-- `C(n)` (R97): `c8`–`c13` as they were sampled before the bundle. -/
def View.cond (v : View) (c : CReg) : Bool :=
  if c.toNat < 8 then v.th.c.getLsbD c.toNat
  else if c.toNat < 14 then v.ext.getLsbD (c.toNat - 8)
  else decide (c.toNat = 15)

end Sys2Proof.Machine
namespace Sys2Proof
open Machine

/-- Bytes of a size field (R35). -/
def Size.bytes : Size → Nat
  | .b8 => 1
  | .b16 => 2
  | .b32 => 4
  | .b64 => 8

def immOff (i : Half) : Word := i.signExtend 64

/-- Key register and offset of a memory operand (R35). -/
def MemI.at (m : MemI) (v : View) : KReg × Word :=
  match m with
  | .base k i => (k, immOff i)
  | .index k x i => (k, v.s x + immOff i)
def MemX.at (m : MemX) (v : View) : KReg × Word := (m.key, v.s m.x)
def MemA.at (m : MemA) (v : View) : KReg × Word :=
  match m with
  | .imm m => m.at v
  | .idx m => m.at v

/-- The registers a memory operand reads: X, and the key after it. R31 orders the scan D, A, B, C, X and names no key: the
key last is the model's choice (log entry 92). -/
def MemI.needs : MemI → List Need
  | .base k _ => [kN k]
  | .index k x _ => [x.need, kN k]
def MemX.needs (m : MemX) : List Need := [m.x.need, kN m.key]
def MemA.needs : MemA → List Need
  | .imm m => m.needs
  | .idx m => m.needs

end Sys2Proof
namespace Sys2Proof.Machine

/-- An address that passed its key check: device memory by virtual address, or a place's local store. -/
structure Addr where
  dev    : Bool
  /-- virtual address, or place × 2¹⁸ + offset -/
  va     : Nat
  tenant : BitVec 9
  key    : KReg
  off    : Word
  deriving DecidableEq, Repr, Inhabited

def Addr.place (a : Addr) : Nat := a.va / 2 ^ 18
def Addr.offset (a : Addr) : Nat := a.va % 2 ^ 18

/-- R168, with every right the access needs; of several missing the lowest-numbered is reported (R169). -/
def State.checkKey (s : State) (v : View) (key : KReg) (off : Word) (size : Nat) (rights : List Right) :
    Except TrapInfo Addr :=
  let k := v.th.k[key.toFin]
  let a : Addr := ⟨k.kind != 1, (if k.kind = 1 then bits k.w0 30 0 else k.base) + off.toNat, k.tenant, key, off⟩
  if k.tag = false then .error (kinfo 0 (some key) 0 off)
  else if v.th.level = .user ∧ k.tenant ≠ v.th.tenant then .error (kinfo 1 (some key) 0 off)
  else match rights.find? fun r => !k.has r with
    | some r => .error (kinfo 2 (some key) r.idx off)
    | none =>
      if off.toInt < 0 ∨ off.toNat + size > k.len then .error (kinfo 3 (some key) 0 off)
      else if k.kind = 1 ∧ a.place ≥ (s.placesOf s.cur.core).length then
        .error (kinfo 3 (some key) 0 (word a.va))
      else .ok a

/-- The checks of R192 in order: the key, a relaxed access to local store, the alignment. -/
def State.checkAccess (s : State) (v : View) (key : KReg) (off : Word) (size : Nat) (rights : List Right)
    (relaxed : Bool) (align : Nat) : Except TrapInfo Addr :=
  match s.checkKey v key off size rights with
  | .error t => .error t
  | .ok a =>
    if relaxed && !a.dev then .error (kinfo 11 (some key) 0 off)
    else if a.va % align ≠ 0 then .error ⟨0x06, off, 0, 0⟩
    else .ok a

/-- Rights lists are in the order of R169. -/
def rightsR : List Right := [.read]
def rightsW : List Right := [.write]

end Sys2Proof.Machine
namespace Sys2Proof
open Machine

/-- The amount of a shift (R125). -/
def ShAmt.amount (m : ShAmt) (v : View) : Nat :=
  match m with
  | .reg b => bits (v.s b) 5 0
  | .imm n => n.toNat

def ShAmt.needs : ShAmt → List Need
  | .reg b => [b.need]
  | .imm _ => []

end Sys2Proof
namespace Sys2Proof.Machine

/-- The place's core for a local-store address; the accessing core's own partition looks it up (R93, R164). -/
def State.homeOf (s : State) (a : Addr) : CoreId := (s.placeCore s.cur.core a.place).getD s.cur.core

namespace State

/-- A range overlap in the same space. -/
def Range.meets (g : Range) (a : Addr) (size : Nat) (c : CoreId) : Bool :=
  (g.dev == a.dev) && (if a.dev then decide (g.tenant = a.tenant) else decide (g.core = c)) &&
    (let x := if a.dev then a.va else a.offset
     decide (x < g.lo + g.len) && decide (g.lo < x + size))

/-- A range on the core's acquire list whose drain has not ended and that a read overlaps (R208, R356). -/
def drainMet (s : State) (a : Addr) (size : Nat) : Option (NodeId × Nat) :=
  let home := s.homeOf a
  (s.here.acquire.flatMap fun x => (x.ranges.map fun g => (x.node, g))).findSome? fun (n, g) =>
    if State.Range.meets g a size home && s.drains.any (fun w => w.node == n && w.chunk == g.chunk)
    then some (n, g.chunk) else none

end State

end Sys2Proof.Machine
end

