-- ==== Sys2Proof/Machine/Integer.lean ====
section
/-! DEFINITION. The integer instructions (R95, R96, R121 to R133). -/
namespace Sys2Proof.Machine

/-- Write an `s` result, full (R95). -/
def putS (d : SReg) (w : Word) (s : State) : Head := .ok (s.setTh (s.th.setS d w))

/-- Two sources, one result (R95, R96). -/
def alu2 (f : Word → Word → Word) (d : SReg) (a b : Src) : State → Out :=
  plain [sN d, a.need, b.need] fun v s => putS d (f (v.s a) (v.s b)) s

/-- One source, one result. -/
def alu1 (f : Word → Word) (d : SReg) (a : Src) : State → Out :=
  plain [sN d, a.need] fun v s => putS d (f (v.s a)) s

/-- R121, with the exact result of a signed and of an unsigned reading. -/
def addValue (f : AddF) (x y : Word) : Word :=
  match f with
  | .wrap => word (wrapN 64 (x.toInt + y.toInt))
  | .satS => word (satS 64 (x.toInt + y.toInt))
  | .satU => word (satU 64 ((x.toNat : Int) + y.toNat))
  | .word => signExt 32 (word (wrapN 32 (sxN 32 x.toNat + sxN 32 y.toNat)))

def subValue (f : AddF) (x y : Word) : Word :=
  match f with
  | .wrap => word (wrapN 64 (x.toInt - y.toInt))
  | .satS => word (satS 64 (x.toInt - y.toInt))
  | .satU => word (satU 64 ((x.toNat : Int) - y.toNat))
  | .word => signExt 32 (word (wrapN 32 (sxN 32 x.toNat - sxN 32 y.toNat)))

/-- `ADDI`: the immediate is signed in every form (R121). -/
def addiValue (f : AddF) (x : Word) (imm : Half) : Word :=
  match f with
  | .satU => word (satU 64 ((x.toNat : Int) + imm.toInt))
  | _ => addValue f x (imm.signExtend 64)

def execAdd (f : AddF) (d : SReg) (a b : Src) : State → Out := alu2 (addValue f) d a b
def execSub (f : AddF) (d : SReg) (a b : Src) : State → Out := alu2 (subValue f) d a b
def execAddi (f : AddF) (d : SReg) (a : Src) (imm : Half) : State → Out := alu1 (addiValue f · imm) d a

/-- R122. -/
def mulValue (x y : Word) : Word := word (wrapN 64 (x.toInt * y.toInt))
def mulhValue (f : MulhF) (x y : Word) : Word :=
  let p : Int := match f with
    | .ss => x.toInt * y.toInt
    | .uu => (x.toNat : Int) * y.toNat
    | .su => x.toInt * (y.toNat : Int)
  word (wrapN 64 (p / 2 ^ 64))

def execMul (d : SReg) (a b : Src) : State → Out := alu2 mulValue d a b
def execMulh (f : MulhF) (d : SReg) (a b : Src) : State → Out := alu2 (mulhValue f) d a b

/-- R123. -/
def divValue (u : Bool) (x y : Word) : Word :=
  if u then (if y = 0 then word (2 ^ 64 - 1) else word (x.toNat / y.toNat))
  else if y = 0 then word (2 ^ 64 - 1)
  else word (wrapN 64 (Int.tdiv x.toInt y.toInt))
def remValue (u : Bool) (x y : Word) : Word :=
  if y = 0 then x
  else if u then word (x.toNat % y.toNat)
  else word (wrapN 64 (Int.tmod x.toInt y.toInt))

def execDiv (u : Bool) (d : SReg) (a b : Src) : State → Out := alu2 (divValue u) d a b
def execRem (u : Bool) (d : SReg) (a b : Src) : State → Out := alu2 (remValue u) d a b

/-- R124. -/
def execAnd (d : SReg) (a b : Src) : State → Out := alu2 (fun x y => x &&& y) d a b
def execOr (d : SReg) (a b : Src) : State → Out := alu2 (fun x y => x ||| y) d a b
def execXor (d : SReg) (a b : Src) : State → Out := alu2 (fun x y => x ^^^ y) d a b
def execAndn (d : SReg) (a b : Src) : State → Out := alu2 (fun x y => x &&& ~~~y) d a b

/-- R125: the shift of `x` by 0 to 63. -/
def shlValue (x : Word) (n : Nat) : Word := word (x.toNat * 2 ^ n)
def shrValue (x : Word) (n : Nat) : Word := word (x.toNat / 2 ^ n)
def sarValue (x : Word) (n : Nat) : Word := word (wrapN 64 (x.toInt / 2 ^ n))
def rotrValue (x : Word) (n : Nat) : Word := word (x.toNat / 2 ^ n + x.toNat % 2 ^ n * 2 ^ (64 - n))

def shift (f : Word → Nat → Word) (d : SReg) (a : Src) (m : ShAmt) : State → Out :=
  plain ([sN d, a.need] ++ m.needs) fun v s => putS d (f (v.s a) (m.amount v)) s

def execShl (d : SReg) (a : Src) (m : ShAmt) : State → Out := shift shlValue d a m
def execShr (d : SReg) (a : Src) (m : ShAmt) : State → Out := shift shrValue d a m
def execSar (d : SReg) (a : Src) (m : ShAmt) : State → Out := shift sarValue d a m
def execRotr (d : SReg) (a : Src) (m : ShAmt) : State → Out := shift rotrValue d a m

/-- R126. -/
def minValue (u : Bool) (x y : Word) : Word :=
  if u then (if x.toNat ≤ y.toNat then x else y) else if x.toInt ≤ y.toInt then x else y
def maxValue (u : Bool) (x y : Word) : Word :=
  if u then (if x.toNat ≤ y.toNat then y else x) else if x.toInt ≤ y.toInt then y else x

def execMin (u : Bool) (d : SReg) (a b : Src) : State → Out := alu2 (minValue u) d a b
def execMax (u : Bool) (d : SReg) (a b : Src) : State → Out := alu2 (maxValue u) d a b

/-- R127. -/
def relHolds (r : Rel) (x y : Word) : Bool :=
  match r with
  | .eq => x == y
  | .ne => x != y
  | .lt => decide (x.toInt < y.toInt)
  | .ge => decide (y.toInt ≤ x.toInt)
  | .ltu => decide (x.toNat < y.toNat)
  | .geu => decide (y.toNat ≤ x.toNat)
  | .tst => (x &&& y) != 0

def putC (d : BitVec 3) (b : Bool) (s : State) : Head := .ok (s.setTh (s.th.setC d b))

def execCmp (r : Rel) (d : BitVec 3) (a b : Src) : State → Out :=
  plain [a.need, b.need] fun v s => putC d (relHolds r (v.s a) (v.s b)) s
def execCmpi (r : Rel) (d : BitVec 3) (a : Src) (imm : Half) : State → Out :=
  plain [a.need] fun v s => putC d (relHolds r (v.s a) (imm.signExtend 64)) s

/-- R128. -/
def execSel (d : SReg) (a b : Src) (c : CReg) : State → Out :=
  plain [sN d, a.need, b.need] fun v s => putS d (if v.cond c then v.s a else v.s b) s

/-- R129. -/
def execLi (d : SReg) (imm : Half) : State → Out := plain [sN d] fun _ s => putS d (imm.signExtend 64) s
def lihValue (pos : BitVec 2) (x : Word) (imm : Half) : Word :=
  setBits x (16 * pos.toNat + 15) (16 * pos.toNat) imm.toNat
def execLih (pos : BitVec 2) (d : SReg) (a : Src) (imm : Half) : State → Out := alu1 (lihValue pos · imm) d a

/-- R130. -/
def clzValue (trail : Bool) (x : Word) : Word :=
  match (List.range 64).find? fun i => bit x (if trail then i else 63 - i) with
  | some i => word i
  | none => 64
def popcValue (x : Word) : Word := word ((List.range 64).filter (bit x ·)).length

def execClz (trail : Bool) (d : SReg) (a : Src) : State → Out := alu1 (clzValue trail) d a
def execPopc (d : SReg) (a : Src) : State → Out := alu1 popcValue d a

/-- R131. -/
def bfxValue (sgn : Bool) (pos len : Nat) (x : Word) : Word :=
  let f := x.toNat / 2 ^ pos % 2 ^ len
  if sgn then signExt len (word f) else word f
def bfiValue (pos len : Nat) (x y : Word) : Word :=
  word (x.toNat - x.toNat / 2 ^ pos % 2 ^ len * 2 ^ pos + y.toNat % 2 ^ len * 2 ^ pos)

def execBfx (sgn : Bool) (d : SReg) (a : Src) (pos : BitVec 6) (len : BitVec 7) : State → Out :=
  alu1 (bfxValue sgn pos.toNat len.toNat) d a
def execBfi (d : SReg) (a b : Src) (pos : BitVec 6) (len : BitVec 7) : State → Out :=
  alu2 (bfiValue pos.toNat len.toNat) d a b

/-- The 127-bit carry-less product (R132). -/
def clmulN (x y : Word) : Nat :=
  (List.range 64).foldl (fun acc i => if bit x i then Nat.xor acc (y.toNat * 2 ^ i) else acc) 0
def clmulValue (hi : Bool) (x y : Word) : Word :=
  if hi then word (clmulN x y / 2 ^ 64) else word (clmulN x y)

def execClmul (hi : Bool) (d : SReg) (a b : Src) : State → Out := alu2 (clmulValue hi) d a b

/-- R133: `c15`…`c0` as a number. -/
def State.condWord (s : State) (v : View) : Word :=
  word ((List.range 16).foldl (fun acc i => if v.cond (BitVec.ofNat 4 i) then acc + 2 ^ i else acc) 0)

def execMovc (d : SReg) : State → Out := plain [sN d] fun v s => putS d (s.condWord v) s
def execMovcWr (a : Src) : State → Out :=
  plain [a.need] fun v s => .ok (s.setTh { s.th with c := (v.s a).setWidth 8 })

end Sys2Proof.Machine
end

