-- ==== Sys2Proof/Machine/Pages.lean ====
section
/-! DEFINITION. Page faults: how a fault joins, enters or is held before a die's page-request queue (R175 to R177), and
the sending of messages (R218, R219). -/
namespace Sys2Proof.Machine

/-- Header word of a message (R219). -/
def msgHeader (kind place len slot : Nat) (tag : Nat) : Word :=
  word (kind % 256 * 2 ^ 56 + place % 2 ^ 13 * 2 ^ 43 + len % 8 * 2 ^ 40 + slot % 16 * 2 ^ 32 + tag % 2 ^ 32)

/-- The eight words of an inbox entry: header and payload, zero above it. -/
def msgWords (hdr : Word) (pay : List Word) : List Word :=
  hdr :: (List.range 7).map fun i => pay.getD i 0

namespace State

/-- A message enters the request plane (R216, R218). -/
def send (s : State) (src : Sender) (core : CoreId) (entries : List InEntry) : State :=
  { s with
    msgs := s.msgs ++ [⟨s.serial, entries, src, core, .flight, none,
      match src with | .slot c _ => s.isCoupled c | _ => false, s.serial⟩]
    serial := s.serial + 1 }

end State

/-- Tenants that hold a reserve on a die (R176). -/
def Die.reserved (d : Die) : List (BitVec 9) := d.active.take 64

/-- Entries of a tenant in the queue. -/
def Die.count (d : Die) (t : BitVec 9) : Nat := (d.pageq.filter fun r => r.tenant = t).length

/-- Entries taken beyond the reserves (R176). -/
def Die.shared (d : Die) : Nat :=
  d.pageq.length - (d.reserved.map fun t => min 4 (d.count t)).sum

/-- May a request of a tenant enter (R176)? -/
def Die.room (d : Die) (t : BitVec 9) : Bool :=
  (d.reserved.contains t && decide (d.count t < 4)) || decide (d.shared + 4 * d.reserved.length < 256)

/-- Same tenant and page (R175). -/
def PageReq.same (a b : PageReq) : Bool :=
  decide (a.tenant = b.tenant) && decide (a.fine = b.fine) &&
    (if a.fine.isSome then decide (a.va / 2 ^ 10 = b.va / 2 ^ 10) else decide (a.va / 2 ^ 21 = b.va / 2 ^ 21))

/-- A fault joins a queued entry of the same page. -/
def joinPage (l : List PageReq) (r : PageReq) : Option (List PageReq) :=
  match l with
  | [] => none
  | x :: xs =>
    if x.same r then
      some ({ x with waiters := x.waiters ++ r.waiters, write := x.write || r.write, fetch := x.fetch || r.fetch } :: xs)
    else match joinPage xs r with
      | some ys => some (x :: ys)
      | none => none

namespace State

/-- Place of the thread that waits for a page, or for which a node or an access does (R219). -/
def waiterPlace (s : State) (w : PageWaiter) : Nat :=
  let atReq (i : Nat) : Nat := match s.reqs.find? fun r => r.id == i with | some r => s.placeOf r.core | none => 0
  match w with
  | .thread c .. => s.placeOf c
  | .scale c _ => s.placeOf c
  | .req i => atReq i
  | .node n _ => (s.node n.cl n.idx).place
  | .unpin n => (s.node n.cl n.idx).place
  | .drain i => match s.drains.find? fun d => d.id == i with | some d => (s.node d.node.cl d.node.idx).place | none => 0

/-- The overflow notification (R177, R220): it names the place of the thread whose request is held (R219). -/
def overflowNotice (s : State) (d : BitVec 3) (r : PageReq) : State :=
  let x := s.die d
  match (s.part x.npart).places[bits x.fqstat 48 36]? with
  | none => s
  | some c =>
    s.send .waliasal c
      [⟨msgWords (msgHeader 0x06 ((r.waiters.map s.waiterPlace).headD 0) 1 0 0)
          [word (d.toNat + bits x.fqstat 24 16 * 2 ^ 16)], 0, true, none, []⟩]

/-- A request reaches its die's page-request queue: joins, enters, or is held with OVF set and, at its first
setting, a notification (R175 to R177). -/
def pageFault (s : State) (d : BitVec 3) (r : PageReq) : State :=
  let x := s.die d
  match joinPage x.pageq r with
  | some q => s.setDie d { x with pageq := q }
  | none =>
    if x.room r.tenant then s.setDie d { x with pageq := x.pageq ++ [r] }
    else
      let fq := setBits (setBits x.fqstat 63 63 1) 24 16 r.tenant.toNat
      let s' := s.setDie d { x with held := x.held ++ [r], fqstat := fq }
      if bit x.fqstat 63 = false ∧ bit x.fqstat 35 then s'.overflowNotice d r else s'

/-- The issuing thread's fault on a page (R175): its request, with the thread as waiter. -/
def threadFault (s : State) (tenant : BitVec 9) (va : Nat) (write fetch : Bool) : State :=
  s.pageFault (dieOf s.cur.core)
    ⟨tenant, s.fineOf s.cur.core tenant va, va, write, fetch, [.thread s.cur.core s.cur.slot s.th.uid]⟩

end State

end Sys2Proof.Machine
end

