-- ==== Sys2Proof/Machine/Control.lean ====
section
/-! DEFINITION. Control transfer, register windows, hardware loops, waiting, retiring, system calls and the return from a
trap (R98 to R115, R161, R162). -/
namespace Sys2Proof.Machine

/-- No register read, no check: `NOP` (R98). -/
def execNop (_d : BitVec 6) (_hints : List Half) : State → Out := plain [] fun _ s => .ok s

/-- A branch target taken (R32). -/
def goTo (s : State) (t : Nat) : Head :=
  match s.targetTrap t with
  | some i => .trap i
  | none => .jump s t false

def execBr (t : BTarget) : State → Out := plain [] fun v s => goTo s (branchTarget v.th.pc t)

/-- `BC`, taken when `c` differs from N (R100); the target is checked only when taken. -/
def execBc (n : Bool) (c : CReg) (t : BTarget) : State → Out :=
  plain [] fun v s => if v.cond c != n then goTo s (branchTarget v.th.pc t) else .ok s

/-- A transfer to a register value, with the checks of R101. -/
def goReg (s : State) (w : Word) : Head :=
  match s.jumpTrap w with
  | some i => .trap i
  | none => .jump s w.toNat false

def execJmp (r : SReg) : State → Out := plain [sN r] fun v s => goReg s (v.sd r)

/-! ## Register windows -/

/-- `WSP` fields (R103). -/
def wspHome (w : Word) : Nat := bits w 63 51
def wspLimit (w : Word) : Nat := bits w 50 39
def wspBase (w : Word) : Nat := bits w 38 27
def wspDepth (w : Word) : Nat := bits w 26 17
def wspPtr (w : Word) : Nat := bits w 16 5

def setDepth (w : Word) (n : Nat) : Word := setBits w 26 17 n
def setPtr (w : Word) (n : Nat) : Word := setBits w 16 5 n

/-- Windows that lie on the stack: those below SAVED (R102). -/
def savedWindows (w : Word) : Nat := wspPtr w - wspBase w

/-- Index of the oldest resident window. -/
def oldestWindow (t : Thread) : Nat := wspDepth t.wsp - t.callers.length

/-- Resident windows not written to the stack (R74). -/
def dirtyWindows (t : Thread) : Nat :=
  ((List.range (t.callers.length + 1)).filter fun i => decide (savedWindows t.wsp ≤ wspDepth t.wsp - i)).length

/-- The sixteen registers of a resident window by its index, the current one's `s8`–`s23` or a caller's. -/
def windowCells (t : Thread) (idx : Nat) : Option (Vector Cell 16) :=
  let back := wspDepth t.wsp - idx
  if wspDepth t.wsp < idx then none
  else if back = 0 then some (Vector.ofFn fun i => t.s[i.val + 8]'(by omega))
  else t.callers[back - 1]?

/-- The core whose local store holds a thread's window stack: the core of the place HOME, looked up in the
partition of the thread's core (R93, R103). -/
def State.stackCore (s : State) (c : CoreId) (t : Thread) : CoreId := (s.placeCore c (wspHome t.wsp)).getD c

namespace State

/-- Four words written to a local store at a byte offset as ordinary stores (R104, R170, R180). -/
def lsWrite (s : State) (c : CoreId) (off : Nat) (ws : List Word) : State :=
  (ws.zipIdx).foldl (fun s p => s.storeW (.ls c) (off / 8 + p.2) p.1) s

/-- One spill step (R104) of window `idx` of the thread in a slot: four words to unit PTR at HOME; after the fourth
step PTR moves on. Words for another core travel as ordinary writes. -/
def spillStep (s : State) (c : CoreId) (n : SlotId) (idx : Nat) : State :=
  let t := (s.slotAt c n).th
  match windowCells t idx with
  | none => s
  | some w =>
    let ws : List Word := (List.range 4).map fun i => (w.toList.getD (4 * t.spill + i) Cell.zero).v
    let off := 128 * wspPtr t.wsp + 32 * t.spill
    let home := s.stackCore c t
    let s1 :=
      if home = c then s.lsWrite c off ws
      else { s with
        reqs := s.reqs ++ [{
          id := s.serial, core := c, slot := n, uid := t.uid, relaxed := false, op := .spill ws, dst := .none, dev := false,
          tenant := t.tenant, sec := false, fine := none, va := wspHome t.wsp * 2 ^ 18 + off, size := 32, key := 0, pc := t.pc, stage := .home, home := home,
          pas := [], post := none, bita := none, dt := false, inj := s.serial, retry := 0, reply := none, gate := s.isCoupled c }]
        serial := s.serial + 1 }
    let x := s1.slotAt c n
    let t' : Thread :=
      if t.spill = 3 then { x.th with spill := 0, wsp := setPtr t.wsp (wspPtr t.wsp + 1) }
      else { x.th with spill := t.spill + 1 }
    s1.setSlot c n { x with th := t' }

end State

/-- A window cell with a deferred fault, and the window with that register full and zero (R105, R148). -/
def windowFault (w : Vector Cell 16) : Option (Deferred × Vector Cell 16) :=
  match (List.range 16).find? fun i => match (w.toList.getD i Cell.zero).f with | .fault _ => true | _ => false with
  | none => none
  | some i =>
    match (w.toList.getD i Cell.zero).f with
    | .fault d => if h : i < 16 then some (d, w.set i Cell.zero) else none
    | _ => none

def windowEmpty (w : Vector Cell 16) : Bool :=
  w.toList.any fun c => match c.f with | .empty _ => true | _ => false

/-- The slide of a call (R102, R105). -/
def slideIn (t : Thread) (ret : Nat) : Thread :=
  let cur : Vector Cell 16 := Vector.ofFn fun i => t.s[i.val + 8]'(by omega)
  let t := t.setS 31 (word ret)
  { t with
    callers := (cur :: t.callers).take 3
    s := Vector.ofFn fun i =>
      if _h1 : i.val < 8 then t.s[i]
      else if _h2 : i.val < 16 then t.s[i.val + 16]'(by omega)
      else Cell.zero
    wsp := setDepth t.wsp (wspDepth t.wsp + 1) }

/-- What `CALLW` does once its target `go` is known good (R105). -/
def callWindow (v : View) (s : State) (go : Nat) : Head :=
  let t := s.th
  let trap (n : Nat) : Head := .trap ⟨0x10, word n, v.th.wsp, 0⟩
  let slide : Head := .jump (s.setTh (slideIn t s.nextPC)) go false
  if wspDepth v.th.wsp = 1023 then trap 2
  else if t.callers.length < 3 then slide
  else
    let old := oldestWindow t
    if old < savedWindows t.wsp then slide
    else if wspPtr t.wsp = wspLimit t.wsp then trap 0
    else match windowCells t old with
      | none => slide
      | some w =>
        match windowFault w with
        | some (d, w') => .late (s.setTh { t with callers := t.callers.set 2 w' }) d
        | none =>
          if windowEmpty w then .park .window
          else .turn (s.spillStep s.cur.core s.cur.slot old)

/-- Instructions that a shadow handler may not hold (R369). -/
def noShadow (v : View) (_ : State) : Option TrapInfo :=
  if v.th.shadow.isSome then some ⟨0x02, 4, 0, 0⟩ else none

def execCallw (t : BTarget) : State → Out :=
  issue noShadow (fun _ => [sN 31]) fun v s =>
    let go := branchTarget v.th.pc t
    match s.targetTrap go with
    | some i => .trap i
    | none => callWindow v s go

def execCallwx (r : SReg) : State → Out :=
  issue noShadow (fun _ => [sN r, sN 31]) fun v s =>
    match s.jumpTrap (v.sd r) with
    | some i => .trap i
    | none => callWindow v s (v.sd r).toNat

/-- Sixteen words of a window read back from a local store: a poisoned word leaves its register empty-with-fault. -/
def State.windowWords (s : State) (t : Thread) (c : CoreId) (off : Nat) : Vector Cell 16 :=
  Vector.ofFn fun i =>
    let k := off / 8 + i.val
    if s.badAt (.ls c) k then
      ⟨s.rdW (.ls c) k, .fault ⟨t.uid, t.pc, 0x14, 0, 1, 0⟩⟩
    else ⟨s.rdW (.ls c) k, .full⟩

/-- The slide of a return (R106): `s24`–`s31` become the callee's `s8`–`s15`, `s8`–`s23` the caller's window. -/
def slideOut (t : Thread) (w : Vector Cell 16) : Thread :=
  { t with
    callers := t.callers.drop 1
    s := Vector.ofFn fun i =>
      if _h1 : i.val < 8 then t.s[i]
      else if _h2 : i.val < 24 then w[i.val - 8]'(by omega)
      else t.s[i.val - 16]'(by omega)
    wsp := setDepth t.wsp (wspDepth t.wsp - 1) }

/-- A caller window that lies on a stack in another core: sixteen empty registers and the reads that fill them. -/
def State.fillFar (s : State) (home : CoreId) (off : Nat) : State × Vector Cell 16 :=
  let t := s.th
  let w : Vector Cell 16 := Vector.ofFn fun i => ⟨0, .empty (s.serial + i.val)⟩
  let rs : List Req := (List.range 16).map fun i =>
    { id := s.serial + i, core := s.cur.core, slot := s.cur.slot, uid := t.uid, relaxed := false, op := .fill i,
      dst := .tok, dev := false, tenant := t.tenant, sec := false, fine := none,
      va := wspHome t.wsp * 2 ^ 18 + off + 8 * i, size := 8, key := 0, pc := t.pc, stage := .home, home := home,
      pas := [], post := none, bita := none, dt := false, inj := s.serial + i, retry := 0, reply := none, gate := false }
  ({ s with reqs := s.reqs ++ rs, serial := s.serial + 16 }, w)

/-- `RETW` (R106). A window read back that an acquired node has written waits for its drain (R208). -/
def execRetw : State → Out :=
  issue noShadow (fun _ => [sN 15]) fun v s =>
    if wspDepth v.th.wsp = 0 then .trap ⟨0x10, 1, v.th.wsp, 0⟩
    else match s.jumpTrap (v.sd 15) with
      | some i => .trap i
      | none =>
        let t := s.th
        let go := (v.sd 15).toNat
        match t.callers with
        | w :: _ =>
          let t' := slideOut t w
          let d := wspDepth t.wsp - 1
          .jump (s.setTh (
            if d < savedWindows t.wsp then { t' with wsp := setPtr t'.wsp (wspPtr t'.wsp - 1), spill := 0 }
            else if d = savedWindows t.wsp then { t' with spill := 0 } else t')) go false
        | [] =>
          let ptr := wspPtr t.wsp - 1
          let home := s.stackCore s.cur.core t
          match s.drainMet ⟨false, wspHome t.wsp * 2 ^ 18 + 128 * ptr, t.tenant, 0, 0⟩ 128 with
          | some (n, c) => .park (.drain n c)
          | none =>
            let (s, w) :=
              if home = s.cur.core then (s, s.windowWords t home (128 * ptr)) else s.fillFar home (128 * ptr)
            let t' := slideOut t w
            .jump (s.setTh { t' with wsp := setPtr t'.wsp ptr, spill := 0 }) go false

/-! ## Hardware loops -/

/-- `LEn` for a body from `start` to the head at `e` (R110). -/
def loopBounds (start e : Nat) : Word :=
  word (start / 2 % 32 * 2 ^ 59 + (e / 64 - start / 64) % 256 * 2 ^ 51 + e / 2 % 2 ^ 51)

/-- PC of the bundle after the one that holds the head at `e`, read from that line (R29, R111). -/
def afterBundle (l : List Half) (e : Nat) : Nat :=
  let i := e / 2 % 32
  let joined := (lineHead l i).p
  nextPc e (lineCount l) (if joined then 2 else 1)

/-- The effect of `LOOP` (R111). -/
def loopEffect (n : Nat) (e : Nat) (l : List Half) (s : State) : Head :=
  let t := s.th
  let endPC (le : Word) : Nat := bits le 50 0 * 2
  if t.lc0 ≠ 0 ∧ t.lc1 ≠ 0 then .trap ⟨0x0F, 0, 0, 0⟩
  else
    let alone := decide (t.lc0 = 0) && decide (t.lc1 ≠ 0)
    if alone && decide (endPC t.le1 < e) then .trap ⟨0x0F, 1, 0, 0⟩
    else
      let t := if alone then { t with lc0 := t.lc1, le0 := t.le1, lc1 := 0 } else t
      let outer := decide (t.lc0 ≠ 0)
      if outer && decide (endPC t.le0 < e) then .trap ⟨0x0F, 1, 0, 0⟩
      else if n = 0 then .jump (s.setTh t) (afterBundle l e) false
      else
        let le := loopBounds s.nextPC e
        .ok (s.setTh (if outer then { t with lc1 := word n, le1 := le } else { t with lc0 := word n, le0 := le }))

/-- `LOOP` reads the header of its end line, as a fetch of that line (R111). -/
def loopBody (n : Nat) (tgt : BTarget) (v : View) (s : State) : Head :=
  let e := branchTarget v.th.pc tgt
  match s.lineAt s.cur.core s.me (e / 64 * 64) with
  | .trap i => .trap i
  | .page tn true => .park (.mig tn (e / 64 * 64) true)
  | .page tn false => .turn ((s.threadFault tn (e / 64 * 64) false true).park (.page tn (e / 64 * 64)))
  | .ok l =>
    if e / 2 % 32 = 0 ∨ e / 2 % 32 > lineCount l then .trap (s.encTrap 0 10 (word e))
    else loopEffect n e l s

def execLoop (cnt : SReg) (e : BTarget) : State → Out :=
  issue noShadow (fun _ => [sN cnt]) fun v s => loopBody (bits (v.sd cnt) 31 0) e v s
def execLoopImm (cnt : Half) (e : BTarget) : State → Out :=
  issue noShadow (fun _ => []) fun v s => loopBody cnt.toNat e v s

/-! ## Waiting and retiring -/

def execPark (c : CReg) : State → Out :=
  plain [] fun v s => if v.cond c then .ok s else .park (.cond c)

def execYield : State → Out :=
  plain [] fun _ s => .ok (s.setMe { s.me with last := some (s.now + 8) })

/-- A thread leaves its slot by retirement (R68, R115, R327). A slot that was disabled is disabled again once it is empty. -/
def State.retire (s : State) (c : CoreId) (n : SlotId) : State :=
  let x := s.slotAt c n
  s.setSlot c n { x with
    st := .draining, drain := .retire, held := none, wait := .answered, refusal := none,
    chosen := x.chosen || x.st == .held || x.st == .heldParked,
    th := { x.th with callers := [], tileb := 0, hclaim := 0, shadow := none } }

/-- `HALT` (R115); a deferred-store record is delivered first (R148). -/
def execHalt : State → Out :=
  plain [] fun v s =>
    match v.th.dstore with
    | some d => .late (s.setTh { s.th with dstore := none }) d
    | none => .gone (s.retire s.cur.core s.cur.slot)

/-! ## System calls and returns -/

def execTrap (n : Half) : State → Out :=
  plain [] fun _ s => .trap ⟨0x16, word n.toNat, word s.nextPC, 0⟩

/-- Levels by their code in PPRIV (R145). -/
def levelOf (n : Nat) : Level :=
  match n with
  | 0 => .user
  | 1 => .sup
  | _ => .mon

/-- The return PC, cause, further information and next level of the level in force (R162). -/
def eretRegs (t : Thread) : Word × Word × Word × Level :=
  match t.level with
  | .user => (t.epc, t.ecause, t.einfo2, .user)
  | .sup => (t.sepc, t.scause, t.sinfo2, levelOf (bits t.scause 60 59))
  | .mon => (t.mepc, t.mcause, t.minfo2, levelOf (bits t.mcause 60 59))

/-- ACTIVE and MASK cleared in the cause register of the level in force (R162). -/
def eretCause (t : Thread) : Thread :=
  let clr (w : Word) : Word := setBits w 62 61 0
  match t.level with
  | .user => { t with ecause := clr t.ecause }
  | .sup => { t with scause := clr t.scause }
  | .mon => { t with mcause := clr t.mcause }

def execEret : State → Out :=
  plain [] fun v s =>
    let (p, c, i2, nl) := eretRegs v.th
    let t := if bit c 63 then i2 else p
    match s.jumpTrap t with
    | some i => .trap i
    | none => .jump (s.setTh { eretCause s.th with level := nl }) t.toNat (bit c 62)

end Sys2Proof.Machine
end

