-- ==== Sys2Proof/Machine/Levels.lean ====
section
/-! DEFINITION. The launch hierarchy: entries of the level table, counts, completion, opening, sealing, `JOIN` and
`CANCEL` (R76 to R84, R119, R120). -/
namespace Sys2Proof
open Machine

/-- Entries of a level (R76). -/
def Lvl.size : Lvl → Nat
  | .launch => 4096
  | .graph => 512
  | .phase => 64
  | .job => 16

/-- Codes of R79. -/
def Lvl.num : Lvl → Nat
  | .launch => 0
  | .graph => 1
  | .phase => 2
  | .job => 3

/-- The level above. -/
def Lvl.up : Lvl → Option Lvl
  | .launch => some .graph
  | .graph => some .phase
  | .phase => some .job
  | .job => none

end Sys2Proof
namespace Sys2Proof.Machine

def lvlOfNum (n : Nat) : Lvl :=
  match n with
  | 0 => .launch
  | 1 => .graph
  | 2 => .phase
  | _ => .job

namespace State

def lv (s : State) (e : EntryId) : LvEntry := agetD (s.part e.part).levels (e.lvl, e.idx) LvEntry.zero
def setLv (s : State) (e : EntryId) (x : LvEntry) : State :=
  s.setPart e.part { s.part e.part with levels := aset (s.part e.part).levels (e.lvl, e.idx) x }

/-- The entry above. -/
def above (s : State) (e : EntryId) : Option EntryId :=
  match e.lvl.up with
  | some l => some ⟨e.part, l, (s.lv e).parent⟩
  | none => none

/-- Is one of the Waliasal cores that serve the page-request queues and the breakwater in service, core 0, core 1, or the standby in the
role of either (R24, R425)? -/
def served (s : State) : Bool := s.roles.toList.any fun r => r != .failed

/-- Every slot of the part, changed alike. -/
def mapSlots (s : State) (f : CoreId → Slot → Slot) : State :=
  { s with cores := s.cores.map fun p => (p.1, { p.2 with slots := p.2.slots.map (f p.1) }) }

/-- Every thread parked on an entry is woken (R77). -/
def wakeEntry (s : State) (e : EntryId) : State :=
  s.mapSlots fun _ x => if x.wait = .entry e ∧ (x.st = .parked ∨ x.st = .heldParked) then { x with wait := .woken } else x

/-- A record of the journal (R422). -/
def journalAdd (s : State) (r : JRec) : State :=
  { s with journal := ({ r with seq := s.seq } :: s.journal).take 2048, seq := s.seq + 1 }

/-- Does Waliasal owe its reports and notices: its core 0 has failed, or core 2 has still to work off what core 0 left (R425)? -/
def owing (s : State) : Bool := s.roles[(0 : Fin 2)] == .failed || s.taking.isSome

/-- A job that became DONE reports to Waliasal, which journals it with opcode 5 (R77, R422); the report waits while core 0 has
failed (R425). -/
def jobReport (s : State) (e : EntryId) : State :=
  if s.owing then { s with owed := s.owed ++ [.job e] }
  else
    s.journalAdd { seq := 0, ctx := 0, slot := 0, opcode := 5, id := e.idx, reason := 0, status := .complete, tag := 0,
                   closes := 0 }

/-- A notice of the control complex (R423): its event is journaled, under an opcode that is the model's choice (log entry 106), and the
notice goes to the place that die 0 names, while notification is enabled, and to the host. No thread stands behind it: its SRCPLACE is
NPLACE, the model's choice (log entry 102). It waits while core 0 has failed (R425). -/
def notice (s : State) (code : Nat) : State :=
  if s.owing then { s with owed := s.owed ++ [.notice code] }
  else
    let x := s.die 0
    let seq := s.seq
    let s := s.journalAdd { seq := 0, ctx := 0, slot := 0, opcode := 7, id := 0, reason := code, status := .complete, tag := 0,
                            closes := 0 }
    let s := { s with notices := (code, seq) :: s.notices }
    let p := bits x.fqstat 48 36
    match (if bit x.fqstat 35 then (s.part x.npart).places[p]? else none) with
    | none => s
    | some c => s.send .waliasal c [⟨msgWords (msgHeader 0x07 p 2 0 0) [word code, word seq], 0, true, none, []⟩]

/-- The count of an entry drops by `n`; a SEALED entry that reaches 0 becomes DONE, wakes its waiters and drops its
parent's count by 1, up to the job, which reports (R77). `fuel` is the number of levels. -/
def dropCount (s : State) (fuel : Nat) (e : EntryId) (n : Nat) : State :=
  match fuel with
  | 0 => s
  | fuel + 1 =>
    let x := s.lv e
    let x := { x with count := x.count - n }
    if x.st = .sealed ∧ x.count = 0 then
      let s := (s.setLv e { x with st := .done }).wakeEntry e
      match s.above e with
      | some p => s.dropCount fuel p 1
      | none => s.jobReport e
    else s.setLv e x

def addCount (s : State) (e : EntryId) (n : Nat) : State :=
  let x := s.lv e
  s.setLv e { x with count := x.count + n }

/-- Is CANC set on an entry or an ancestor (R83)? -/
def cancelled (s : State) (fuel : Nat) (e : EntryId) : Bool :=
  match fuel with
  | 0 => false
  | fuel + 1 =>
    (s.lv e).canc || (match s.above e with | some p => s.cancelled fuel p | none => false)

/-- Does entry `e` lie at or below `a`? -/
def within (s : State) (fuel : Nat) (e a : EntryId) : Bool :=
  match fuel with
  | 0 => false
  | fuel + 1 => decide (e = a) || (match s.above e with | some p => s.within fuel p a | none => false)

/-- `Open` of R79: the entry, its parent, which a job ignores, and its tenant. Levels 1 to 3 only. -/
def openEntry (s : State) (e : EntryId) (parent : Nat) (tenant : BitVec 9) : Option State :=
  let x := s.lv e
  let up : Option EntryId := match e.lvl.up with | some l => some ⟨e.part, l, parent⟩ | none => none
  let upOk : Bool := match up with
    | none => true
    | some p => decide (p.idx < p.lvl.size) && ((s.lv p).st == .opened || (s.lv p).st == .sealed)
  if e.lvl = .launch ∨ (x.st ≠ .free ∧ x.st ≠ .done) ∨ upOk = false then none
  else
    let s := s.setLv e { x with
      st := .opened, canc := false, tenant := tenant, parent := if e.lvl = .job then 0 else parent, count := 1 }
    some (match up with | some p => s.addCount p 1 | none => s)

/-- `Seal` of R79: the hold is subtracted (R77). -/
def sealEntry (s : State) (e : EntryId) : Option State :=
  let x := s.lv e
  if x.st = .opened then some ((s.setLv e { x with st := .sealed }).dropCount 4 e 1) else none

/-- `Free` of R79. -/
def freeEntry (s : State) (e : EntryId) : Option State :=
  let x := s.lv e
  if x.st = .done then some (s.setLv e { x with st := .free }) else none

/-- The entry of a launch id (R78). -/
def launchEntry (part : Nat) (id : BitVec 16) : EntryId := ⟨part, .launch, id.toNat % 4096⟩

/-- Does a launch id name a completed launch (R322)? -/
def launchOver (s : State) (part : Nat) (id : BitVec 16) : Bool :=
  let x := s.lv (launchEntry part id)
  x.st == .done || x.st == .free || decide (x.gen.toNat ≠ id.toNat / 4096)

/-- The lowest launch entry FREE or DONE (R78). -/
def freeLaunch (s : State) (part : Nat) : Option Nat :=
  lowest 4096 fun i => let st := (s.lv ⟨part, .launch, i⟩).st; st == .free || st == .done

/-- Partition of the issuing core; a core in none runs no code (R401), and its table is that of number 64, empty. -/
def partHere (s : State) : Nat := (s.partOf s.cur.core).getD 64

/-- The copy of its partition's tables that the issuing core's cluster holds. -/
def copyHere (s : State) : TableCopy := s.copy s.partHere (clusterOf s.cur.core)

end State

end Sys2Proof.Machine
end

