-- ==== Sys2Proof/Machine/Tiles.lean ====
section
/-! DEFINITION. Rows of accumulator tiles and the ownership check of a use (R268 to R274, R293). -/
namespace Sys2Proof.Machine

/-- A row whose data a routed tile still has to read (R394). -/
def State.heldRow (s : State) (c : CoreId) (t : TileId) (r : VReg) : Bool :=
  (s.core c).tide.toList.any fun e => e.opn && e.src == t &&
    (match e.rows[r.toNat]? with | some x => x.held | none => false)

def View.row (v : View) (t : TileId) (r : VReg) : Row := v.tiles[t.toFin][r.toFin].v

/-- A further effect of an answer that takes effect at issue. One that is outstanding has none yet. -/
def Head.also (h : Head) (f : State → State) : Head :=
  match h with
  | .ok s => .ok (f s)
  | .jump s t m => .jump (f s) t m
  | .wait s w => .wait (f s) w
  | .gone s => .gone (f s)
  | x => x

namespace State

def rowCell (s : State) (c : CoreId) (t : TileId) (r : VReg) : RowCell := (s.core c).tiles[t.toFin][r.toFin]

def setRowCell (s : State) (c : CoreId) (t : TileId) (r : VReg) (x : RowCell) : State :=
  s.setCore c { s.core c with tiles := (s.core c).tiles.set t.toFin ((s.core c).tiles[t.toFin].set r.toFin x) }

/-- Write a row, full. -/
def setRow (s : State) (c : CoreId) (t : TileId) (r : VReg) (x : Row) : State := s.setRowCell c t r ⟨x, .full⟩

/-- Leave a row empty until the result `tok` arrives (R271). -/
def emptyRow (s : State) (c : CoreId) (t : TileId) (r : VReg) (tok : Nat) : State :=
  s.setRowCell c t r ⟨(s.rowCell c t r).v, .empty tok⟩

/-- The tile of a core claimed for a thread's launch (R274); XFER stays. -/
def claimTile (s : State) (c : CoreId) (t : TileId) (th : Thread) : State :=
  let x := s.core c
  s.setCore c { x with aown := x.aown.set t.toFin (ownWord th ||| (x.aown[t.toFin] &&& 0x4000000000000000)) }

/-- A use of a tile (R274): parks while another thread transfers it, claims an unowned tile, traps on a foreign one. A
claim is an effect of the bundle: it stands only when the rest of the instruction takes effect (R8, R31). -/
def useTile (s : State) (v : View) (t : TileId) (k : State → Head) : Head :=
  let o := v.aown[t.toFin]
  if v.th.level = .mon then k s
  else if bit o 62 ∧ s.here.xferBy[t.toFin] ≠ v.th.uid then .park (.tile t)
  else if bit o 63 = false then
    (k s).also fun s => s.claimTile s.cur.core t v.th
  else if ownedBy o v.th then k s
  else .trap ⟨0x09, word t.toNat, o, 0⟩

/-- The bound tile, used (R277): without a binding trap 0x09 kind 1. -/
def boundTile (s : State) (v : View) (k : TileId → State → Head) : Head :=
  match v.th.bound with
  | none => .trap ⟨0x09, 16, 0, 0⟩
  | some t => s.useTile v t (k t)

end State

/-- Element types by their code (R235). -/
def etyOfCode (n : Nat) : ETy :=
  match n with
  | 0 => .f64
  | 1 => .f32
  | 2 => .bf16
  | 3 => .f16
  | 4 => .e4m3
  | 5 => .e5m2
  | 6 => .i32
  | 7 => .i16
  | 8 => .i8
  | _ => .i4

/-- The element type of the binding (R269). -/
def Thread.ety (t : Thread) : ETy := etyOfCode (bits t.tileb 3 0)

end Sys2Proof.Machine
end

