-- ==== Sys2Proof/Machine/Memory.lean ====
section
/-! DEFINITION. The memory and key instructions at issue: the requests they make, and the trigger of a migration (R184 to
R187, R188 to R203, R228, R229). -/
namespace Sys2Proof.Machine

/-! ## Migration of the issuing thread -/

/-- May a thread migrate (R228)? -/
def State.mayMigrate (s : State) (c : CoreId) (t : Thread) : Bool :=
  t.bound.isNone && decide (t.hclaim = 0) &&
  t.d.toList.all (fun x => x.f == .full && x.cls == 1) &&
  !(bit t.ecause 61 || bit t.scause 61 || bit t.mcause 61) && t.shadow.isNone && t.dstore.isNone &&
  t.s.toList.all (fun x => match x.f with | .fault _ => false | _ => true) &&
  t.callers.all (fun w => w.toList.all fun x => match x.f with | .fault _ => false | _ => true) &&
  !t.fpMask &&
  decide (wspPtr t.wsp + ((List.range t.callers.length).filter fun i =>
    decide (savedWindows t.wsp ≤ wspDepth t.wsp - 1 - i)).length ≤ wspLimit t.wsp) &&
  !s.isCoupled c

/-- Does the access write outside the pair without returning a value (R410)? -/
def Op.outside : Op → Bool
  | .st .. => true
  | .stb .. => true
  | .stv _ => true
  | .kst .. => true
  | .asave .. => true
  | .spill _ => true
  | .stw _ => true
  | _ => false

/-- Not yet sent on to its home. -/
def Stage.early : Stage → Bool
  | .rows => true
  | .port => true
  | .miss => true
  | .walk => true
  | .page => true
  | _ => false

namespace State

/-- A reservation request sets out for the target (R229). -/
def requestMigration (s : State) (c : CoreId) (n : SlotId) (place : Nat) (target : CoreId) : State :=
  { s with
    resvs := s.resvs ++ [⟨s.serial, c, n, (s.slotAt c n).th.uid, place, target, .flight, s.serial⟩]
    serial := s.serial + 1 }

/-! ## Requests -/

/-- The request of an access that has passed its checks. The PC it carries, and that a deferred fault reports in `EPC` (R148), is that of
the bundle, its first head's, also where the access is the bundle's second head: the model's choice (log entry 97). -/
def newReq (s : State) (v : View) (a : Addr) (size : Nat) (op : Op) (dst : Dst) (relaxed : Bool) : Req where
  id := s.serial
  core := s.cur.core
  slot := s.cur.slot
  uid := v.th.uid
  relaxed := relaxed
  op := op
  dst := dst
  dev := a.dev
  tenant := a.tenant
  sec := bit s.here.world 0
  fine := if a.dev then s.fineOf s.cur.core a.tenant a.va else none
  va := a.va
  size := size
  key := a.key
  pc := v.th.pc
  stage := if a.dev then .port else .home
  home := s.homeOf a
  pas := []
  post := none
  bita := none
  dt := false
  inj := s.serial
  retry := 0
  reply := none
  gate := s.isCoupled s.cur.core && op.outside && (a.dev || s.homeOf a != s.cur.core)

def addReq (s : State) (r : Req) : State := { s with reqs := s.reqs ++ [r], serial := s.serial + 1 }

/-- Relaxed accesses of a thread that count (R195): loads until they fill, posted stores until they are translated. -/
def relaxedCount (s : State) (uid : Nat) : Nat :=
  (s.reqs.filter fun r => decide (r.uid = uid) && r.relaxed && (r.dst != .none || r.stage.early)).length

/-- The addresses at which an access of `size` bytes at `va` enters a unit of 1 KiB. -/
def unitsOf (va size : Nat) : List Nat :=
  (List.range ((va + size - 1) / 2 ^ 10 + 1 - va / 2 ^ 10)).map fun i => max va ((va / 2 ^ 10 + i) * 2 ^ 10)

/-- The refusal of a page that an access of the issuing thread reaches (R179): the trap, with the first address in the page. -/
def refusedIn (s : State) (a : Addr) (size : Nat) : Option TrapInfo :=
  if a.dev then
    (unitsOf a.va size).findSome? fun x =>
      (s.me.refusedAt a.tenant (s.fineOf s.cur.core a.tenant x) x).map fun r => refusalTrap r a.tenant a.key x
  else none

end State

/-- Does the request write (R182)? -/
def Op.writes : Op → Bool
  | .lds m => m == .take
  | .sts .. => true
  | .amo .. => true
  | x => x.outside

/-- Does the operation read memory (R208)? -/
def Op.reads : Op → Bool
  | .st .. => false
  | .stv _ => false
  | .sts .. => false
  | .kst .. => false
  | .asave .. => false
  | .spill _ => false
  | .stw _ => false
  | .harvest .. => false
  | _ => true

/-- An ordinary access (R188): it migrates the thread (R193), traps on a page the pager refused (R179), waits for a
drain it reads from (R208), or sets out. `follow`: the instruction can migrate. -/
def State.ordinary (s : State) (v : View) (a : Addr) (size : Nat) (follow : Bool) (r : Req) : Head :=
  let away := !a.dev && decide (s.homeOf a ≠ s.cur.core)
  if away && follow && (v.th.k[a.key.toFin]).has .follow && s.mayMigrate s.cur.core v.th then
    .turn ((s.requestMigration s.cur.core s.cur.slot a.place (s.homeOf a)).park .migrate)
  else
    match s.refusedIn a size with
    | some x => .trap x
    | none =>
      match (if r.op.reads then s.drainMet a size else none) with
      | some (n, c) => .park (.drain n c)
      | none => .pend (s.addReq r) .access

/-- A relaxed access (R188, R195). -/
def State.relaxedAccess (s : State) (v : View) (r : Req) (k : State → State) : Head :=
  if 8 ≤ s.relaxedCount v.th.uid then .park .relaxed else .ok (k (s.addReq r))

/-! ## Loads and stores -/

/-- X after mode 011 (R35). -/
def postX (v : View) (m : MemX) (n : Nat) : SReg × Word := (m.x.reg, v.s m.x + word n)

/-- `LD` (R196). `post`: X of mode 011 and its new value. -/
def loadBody (z : Size) (sx rlx : Bool) (d : SReg) (ko : KReg × Word) (post : Option (SReg × Word)) (v : View)
    (s : State) : Head :=
  let n := z.bytes
  match s.checkAccess v ko.1 ko.2 n [.read] rlx n with
  | .error t => .trap t
  | .ok a =>
    if rlx then
      s.relaxedAccess v (s.newReq v a n (.ld n sx) .tok true) fun s' =>
        let t := match post with | some (x, w) => s'.th.setS x w | none => s'.th
        s'.setTh (t.emptyS d s.serial)
    else
      s.ordinary v a n true { s.newReq v a n (.ld n sx) (.s d) false with post := post }

/-- `ST` (R196). -/
def storeBody (z : Size) (rlx : Bool) (d : SReg) (ko : KReg × Word) (post : Option (SReg × Word)) (v : View)
    (s : State) : Head :=
  let n := z.bytes
  match s.checkAccess v ko.1 ko.2 n [.write] rlx n with
  | .error t => .trap t
  | .ok a =>
    if rlx then
      s.relaxedAccess v (s.newReq v a n (.st n (v.sd d)) .none true) fun s' =>
        match post with | some (x, w) => s'.setTh (s'.th.setS x w) | none => s'
    else
      s.ordinary v a n true { s.newReq v a n (.st n (v.sd d)) .none false with post := post }

def execLd (z : Size) (sx rlx : Bool) (d : SReg) (m : MemI) : State → Out :=
  plain (sN d :: m.needs) fun v s => loadBody z sx rlx d (m.at v) none v s
def execLdIndexed (z : Size) (sx rlx : Bool) (d : SReg) (m : MemX) : State → Out :=
  plain (sN d :: m.needs) fun v s => loadBody z sx rlx d (m.at v) none v s
def execLdPostinc (z : Size) (sx rlx : Bool) (d : SReg) (m : MemX) : State → Out :=
  plain (sN d :: m.needs) fun v s => loadBody z sx rlx d (m.at v) (some (postX v m z.bytes)) v s
def execSt (z : Size) (rlx : Bool) (d : SReg) (m : MemI) : State → Out :=
  plain (sN d :: m.needs) fun v s => storeBody z rlx d (m.at v) none v s
def execStIndexed (z : Size) (rlx : Bool) (d : SReg) (m : MemX) : State → Out :=
  plain (sN d :: m.needs) fun v s => storeBody z rlx d (m.at v) none v s
def execStPostinc (z : Size) (rlx : Bool) (d : SReg) (m : MemX) : State → Out :=
  plain (sN d :: m.needs) fun v s => storeBody z rlx d (m.at v) (some (postX v m z.bytes)) v s

/-! ## Bit fields -/

/-- The bit offset after a bit access, modulo 2⁵⁵ (R197). -/
def nextBit (b n : Nat) : Word := word ((b + n) % 2 ^ 55)

/-- `LDB` and `STB` (R197): the field length, the words the field covers, and the access to them. -/
def bitBody (sx : Bool) (load : Bool) (d : SReg) (m : MemX) (v : View) (s : State) : Head :=
  let x := v.s m.x
  let n := x.toNat
  if n = 0 ∨ n > 64 then .trap ⟨0x06, x, 1, 0⟩
  else
    let b := bits v.th.bita 54 0
    let w0 := b / 64
    let w1 := (b + n - 1) / 64
    let size := 8 * (w1 - w0 + 1)
    match s.checkKey v m.key (word (8 * w0)) size [if load then .read else .write] with
    | .error t => .trap t
    | .ok a =>
      let a' := { a with va := a.va - 8 * w0 + b / 8 }
      let op : Op := if load then .ldb (b % 8) n sx else .stb (b % 8) n (v.sd d)
      let r := s.newReq v a' ((b % 8 + n + 7) / 8) op (if load then .s d else .none) false
      s.ordinary v a size true { r with bita := some (nextBit b n) }

def execLdb (sx : Bool) (d : SReg) (m : MemX) : State → Out :=
  plain (sN d :: m.needs) fun v s => bitBody sx true d m v s
def execStb (d : SReg) (m : MemX) : State → Out :=
  plain (sN d :: m.needs) fun v s => bitBody false false d m v s

/-! ## Rows -/

/-- Row-fault records that a thread holds or that its outstanding relaxed `LDV`s may leave (R272). -/
def State.recordLoad (s : State) (t : Thread) : Nat :=
  t.rowFaults.length + (s.reqs.filter fun r => r.uid == t.uid && r.row.isSome).length

/-- `LDV` (R198). A row that a `ROUTE` holds is not written (R394). -/
def ldvBody (rlx : Bool) (r : VReg) (ko : KReg × Word) (v : View) (s : State) : Head :=
  s.boundTile v fun t s =>
    match s.checkAccess v ko.1 ko.2 128 [.read] rlx 128 with
    | .error e => .trap e
    | .ok a =>
      if s.heldRow s.cur.core t r then .park (.held t r)
      else if rlx then
        if 8 ≤ s.recordLoad v.th then .park .records
        else s.relaxedAccess v { s.newReq v a 128 .ldv .tok true with row := some (t, r) } fun s' =>
          s'.emptyRow s.cur.core t r s.serial
      else s.ordinary v a 128 true (s.newReq v a 128 .ldv (.v r) false)

/-- `STV` (R198). -/
def stvBody (rlx : Bool) (r : VReg) (ko : KReg × Word) (v : View) (s : State) : Head :=
  s.boundTile v fun t s =>
    match s.checkAccess v ko.1 ko.2 128 [.write] rlx 128 with
    | .error e => .trap e
    | .ok a =>
      if rlx then s.relaxedAccess v (s.newReq v a 128 (.stv (v.row t r)) .none true) id
      else s.ordinary v a 128 true (s.newReq v a 128 (.stv (v.row t r)) .none false)

def execLdv (rlx : Bool) (r : VReg) (m : MemI) : State → Out :=
  plain (vN r :: m.needs) fun v s => ldvBody rlx r (m.at v) v s
def execLdvIndexed (rlx : Bool) (r : VReg) (m : MemX) : State → Out :=
  plain (vN r :: m.needs) fun v s => ldvBody rlx r (m.at v) v s
def execStv (rlx : Bool) (r : VReg) (m : MemI) : State → Out :=
  plain (vN r :: m.needs) fun v s => stvBody rlx r (m.at v) v s
def execStvIndexed (rlx : Bool) (r : VReg) (m : MemX) : State → Out :=
  plain (vN r :: m.needs) fun v s => stvBody rlx r (m.at v) v s

/-! ## Sync accesses and atomics -/

/-- Rights of `LDS` (R199). -/
def ldsRights (m : LdsMode) : List Right :=
  match m with
  | .take => [.read, .write, .sync]
  | _ => [.read, .sync]

/-- `LDS` (R199). -/
def ldsBody (f : LdsMode) (d : SReg) (ko : KReg × Word) (v : View) (s : State) : Head :=
  match s.checkAccess v ko.1 ko.2 8 (ldsRights f) false 8 with
  | .error t => .trap t
  | .ok a => s.ordinary v a 8 true (s.newReq v a 8 (.lds f) (.s d) false)

/-- `STS` (R199). -/
def stsBody (f : StsMode) (d : SReg) (ko : KReg × Word) (v : View) (s : State) : Head :=
  match s.checkAccess v ko.1 ko.2 8 [.write, .sync] false 8 with
  | .error t => .trap t
  | .ok a => s.ordinary v a 8 true (s.newReq v a 8 (.sts f (v.sd d)) .none false)

def execLds (f : LdsMode) (d : SReg) (m : MemI) : State → Out :=
  plain (sN d :: m.needs) fun v s => ldsBody f d (m.at v) v s
def execLdsIndexed (f : LdsMode) (d : SReg) (m : MemX) : State → Out :=
  plain (sN d :: m.needs) fun v s => ldsBody f d (m.at v) v s
def execSts (f : StsMode) (d : SReg) (m : MemI) : State → Out :=
  plain (sN d :: m.needs) fun v s => stsBody f d (m.at v) v s
def execStsIndexed (f : StsMode) (d : SReg) (m : MemX) : State → Out :=
  plain (sN d :: m.needs) fun v s => stsBody f d (m.at v) v s

/-- `AMO` (R202). -/
def execAmo (f : AmoF) (wide : Bool) (d : SReg) (m : MemA) (a b : Src) : State → Out :=
  plain ([sN d, a.need, b.need] ++ m.needs) fun v s =>
    let n := if wide then 8 else 4
    let ko := m.at v
    match s.checkAccess v ko.1 ko.2 n [.read, .write, .sync] false n with
    | .error t => .trap t
    | .ok x => s.ordinary v x n true (s.newReq v x n (.amo f n (v.s a) (v.s b)) (.s d) false)

/-! ## Fences -/

/-- `FENCE` (R203): the thread waits, with the nodes its core has acquired and, at cluster scope and wider, with a
probe to every slice of `TMASK`; a fence with nothing to wait for completes at issue. -/
def fenceWaits (s : State) (v : View) (sc : Scope) : Bool :=
  s.reqs.any (fun r => decide (r.uid = v.th.uid) && r.relaxed && (r.dst != .none || r.stage.early)) ||
  v.th.dstore.isSome ||
  (decide (sc ≠ .core) && decide (v.th.tmask ≠ 0)) ||
  (decide (sc = .package ∨ sc = .system) && !s.here.acquire.isEmpty) ||
  (decide (sc = .system) && s.fabricStores.any (fun p => p.1 == v.th.uid))

def execFence (sc : Scope) : State → Out :=
  plain [] fun v s =>
    if fenceWaits s { v with th := { v.th with dstore := none } } sc = false then
      match v.th.dstore with
      | some d => .late (s.setTh { s.th with dstore := none }) d
      | none => .ok s
    else
      let nodes := if sc = .package ∨ sc = .system then s.here.acquire.map (·.node) else []
      .pend s (.fence sc nodes)

/-! ## Keys -/

/-- A read or write of keys or of a descriptor image: `Check` with R or W, then C, then the alignment (R184, R192, R257, R374). -/
def State.checkCap (s : State) (v : View) (k : KReg) (off : Word) (size : Nat) (right : Right) (align : Nat) :
    Except TrapInfo Addr :=
  match s.checkKey v k off size [right] with
  | .error t => .error t
  | .ok a =>
    if (v.th.k[k.toFin]).has .cap = false then .error (kinfo 2 (some k) 5 off)
    else if a.va % align ≠ 0 then .error ⟨0x06, off, 0, 0⟩
    else .ok a

/-- `KLD` (R184): both words as one access. -/
def kldBody (d : KReg) (ko : KReg × Word) (v : View) (s : State) : Head :=
  match s.checkCap v ko.1 ko.2 16 .read 16 with
  | .error t => .trap t
  | .ok a => s.ordinary v a 16 false (s.newReq v a 16 .kld (.k d) false)

/-- `KST` (R184). -/
def kstBody (d : KReg) (ko : KReg × Word) (v : View) (s : State) : Head :=
  match s.checkCap v ko.1 ko.2 16 .write 16 with
  | .error t => .trap t
  | .ok a =>
    let k := v.th.k[d.toFin]
    s.ordinary v a 16 false (s.newReq v a 16 (.kst k.w0 k.w1 k.tag) .none false)

def execKld (d : KReg) (m : MemI) : State → Out :=
  plain (kN d :: m.needs) fun v s => kldBody d (m.at v) v s
def execKldIndexed (d : KReg) (m : MemX) : State → Out :=
  plain (kN d :: m.needs) fun v s => kldBody d (m.at v) v s
def execKst (d : KReg) (m : MemI) : State → Out :=
  plain (kN d :: m.needs) fun v s => kstBody d (m.at v) v s
def execKstIndexed (d : KReg) (m : MemX) : State → Out :=
  plain (kN d :: m.needs) fun v s => kstBody d (m.at v) v s

/-- A key shrunk by `KNARROW` (R185). -/
def narrowKey (k : KCell) (o n m : Nat) : KCell :=
  { k with
    w0 := setBits (setBits k.w0 51 0 (k.base + o)) 57 52 (Nat.land k.rights m)
    w1 := setBits k.w1 51 0 n
    f := .full }

def execKnarrow (d : KReg) (a : KSrc) (off len mask : Src) : State → Out :=
  plain [kN d, a.need, off.need, len.need, mask.need] fun v s =>
    let k := v.th.k[a.reg.toFin]
    let o := (v.s off).toNat
    let n := (v.s len).toNat
    let m := v.s mask
    if k.tag = false then .trap (kinfo 0 (some a.reg) 0 (v.s off))
    else if bits m 63 6 ≠ 0 ∨ o + n > k.len then .trap (kinfo 7 (some a.reg) 0 (v.s off))
    else .ok (s.setTh (s.th.setK d (narrowKey k o n (bits m 5 0))))

/-- A field of a key (R186). -/
def keyField (f : KInfoF) (k : KCell) : Word :=
  match f with
  | .base => word k.base
  | .limit => word k.len
  | .rights => word (k.rights + k.kind * 256)
  | .tenant => word k.tenant.toNat
  | .place => if k.kind = 1 then word k.place else 0
  | .tag => if k.tag then 1 else 0

def execKinfo (f : KInfoF) (d : SReg) (a : KSrc) : State → Out :=
  plain [sN d, a.need] fun v s => putS d (keyField f v.th.k[a.reg.toFin]) s

/-- `HARVEST` (R187): an ordinary access at the dirty map. -/
def execHarvest (d : SReg) (a b : Src) : State → Out :=
  issue (fun v _ => privTrap v.th .sup) (fun _ => [sN d, a.need, b.need]) fun v s =>
    let f := v.s a
    let i := v.s b
    if f.toNat > 589823 then .trap (kinfo 6 none 0 f)
    else if i.toNat > 511 then .trap (kinfo 3 none 0 i)
    else
      let x : Addr := ⟨false, 0, v.th.tenant, 0, 0⟩
      .pend (s.addReq { s.newReq v x 8 (.harvest f.toNat i.toNat) (.s d) false with stage := .home, home := s.cur.core })
        .access

end Sys2Proof.Machine
end

