-- ==== Sys2Proof/Machine/Descriptors.lean ====
section
/-! DEFINITION. Tensor descriptors: the fields of an entry, sharding, element addresses, the checks of `TDSET`, and the
instructions that read and write the table (R245 to R258). -/
namespace Sys2Proof.Machine

/-! ## Fields (R247 to R250) -/

def Desc.w (d : Desc) (i : Fin 8) : Word := d.words[i]
def Desc.kind (d : Desc) : Nat := bits (d.w 0) 63 62
def Desc.format (d : Desc) : Nat := bits (d.w 0) 61 58
def Desc.rank (d : Desc) : Nat := bits (d.w 0) 57 56 + 1
def Desc.swizzle (d : Desc) : Nat := bits (d.w 0) 55 53
/-- Group size (R247). -/
def Desc.group (d : Desc) : Nat := 32 * 2 ^ bits (d.w 0) 52 51
def Desc.rscale (d : Desc) : Bool := bit (d.w 0) 50
def Desc.scoff (d : Desc) : Nat := bits (d.w 0) 47 0
/-- The key of an entry (R248). -/
def Desc.key (d : Desc) : KCell := ⟨d.w 1, d.w 2, true, .full⟩

/-- SHAPE i and STRIDE i (R249). -/
def Desc.shape (d : Desc) (i : Nat) : Nat :=
  match i with
  | 0 => bits (d.w 3) 31 0
  | 1 => bits (d.w 3) 63 32
  | 2 => bits (d.w 4) 31 0
  | _ => bits (d.w 4) 63 32
def Desc.stride (d : Desc) (i : Nat) : Nat :=
  match i with
  | 0 => bits (d.w 5) 31 0
  | 1 => bits (d.w 5) 63 32
  | 2 => bits (d.w 6) 31 0
  | _ => bits (d.w 6) 63 32

/-- Shard fields of dimension i (R250). -/
def Desc.mode (d : Desc) (i : Nat) : Nat := bits (d.w 7) (16 * i + 1) (16 * i)
def Desc.ways (d : Desc) (i : Nat) : Nat := bits (d.w 7) (16 * i + 8) (16 * i + 2) + 1
def Desc.coord (d : Desc) (i : Nat) : Nat := bits (d.w 7) (16 * i + 15) (16 * i + 9)

/-- Word 7 of a stitched entry (R250). -/
def Desc.version (d : Desc) : Nat := bits (d.w 7) 63 32
def Desc.rowgran (d : Desc) : Nat := bits (d.w 7) 31 16

/-- A new version in the copy of a stitched entry (R374). -/
def Desc.newVersion (d : Desc) (v shape1 : BitVec 32) : Desc :=
  { d with words := (d.words.set 7 (setBits (d.w 7) 63 32 v.toNat)).set 3 (setBits (d.w 3) 63 32 shape1.toNat) }

/-- Width of an element format in bits (R235). -/
def fmtBits (code : Nat) : Nat :=
  match code with
  | 0 => 64
  | 1 => 32
  | 2 => 16
  | 3 => 16
  | 4 => 8
  | 5 => 8
  | 6 => 32
  | 7 => 16
  | 8 => 8
  | 9 => 4
  | 10 => 8
  | _ => 4

def Desc.width (d : Desc) : Nat := fmtBits d.format

def ceilDiv (a b : Nat) : Nat := (a + b - 1) / b

/-- Local extent of dimension i (R251). -/
def Desc.extent (d : Desc) (i : Nat) : Nat :=
  if d.kind = 2 then d.shape i
  else match d.mode i with
    | 0 => d.shape i
    | _ => ceilDiv (d.shape i) (d.ways i)

/-- The local index of a global index, if this part holds it (R251). -/
def Desc.localIndex (d : Desc) (i x : Nat) : Option Nat :=
  let w := d.ways i
  let c := d.coord i
  let e := ceilDiv (d.shape i) w
  match d.mode i with
  | 0 => if x < d.shape i then some x else none
  | 1 => if c * e ≤ x ∧ x < min ((c + 1) * e) (d.shape i) then some (x - c * e) else none
  | _ => if x < d.shape i ∧ x % w = c then some (x / w) else none

/-- The local index of a global index at the part that holds it (R251). -/
def Desc.partIndex (d : Desc) (i x : Nat) : Nat :=
  match d.mode i with
  | 0 => x
  | 1 => x % max 1 (ceilDiv (d.shape i) (d.ways i))
  | _ => x / d.ways i

/-- Where a byte of a unit is stored under a swizzle (R253). -/
def swizzled (code off : Nat) : Nat :=
  let u := off / 128
  let b := off % 128
  match code with
  | 1 => u * 128 + Nat.xor (b / 16) (u % 8) * 16 + b % 16
  | 2 => u * 128 + Nat.xor (b / 32) (u % 4) * 32 + b % 32
  | _ => off

/-- Bytes of a row: the run of e0 elements (R349). -/
def Desc.rowBytes (d : Desc) : Nat := d.extent 0 * d.width / 8

/-- Byte offset, before the swizzle, of local row (l1, l2, l3). -/
def Desc.rowOffset (d : Desc) (l1 l2 l3 : Nat) : Nat :=
  (l1 * d.stride 1 + l2 * d.stride 2 + l3 * d.stride 3) * d.width / 8

/-- Number of groups (R255). -/
def Desc.groups (d : Desc) : Nat := d.extent 0 / d.group * d.extent 1 * d.extent 2 * d.extent 3

/-- Byte offset of scale g, and bit offset of zero point g (R255). -/
def Desc.scaleAt (d : Desc) (g : Nat) : Nat := d.scoff + 2 * g
def Desc.zeroBit (d : Desc) (g : Nat) : Nat := 8 * (d.scoff + 2 * d.groups) + d.width * g

/-! ## The checks of `TDSET` (R256) -/

/-- Trap 0x0D for a tensor id, a word and a reason (R256). -/
def descTrap (id : TensorId) (w reason : Nat) : TrapInfo := ⟨0x0D, word (reason * 2 ^ 12 + w * 256 + id.toNat), 0, 0⟩

/-- Reason 0: defined values and zero fields. -/
def Desc.defined (d : Desc) : Option Nat :=
  let w0 := d.w 0
  if d.kind = 3 ∨ d.format > 11 ∨ bits w0 52 51 = 3 ∨ d.swizzle > 2 ∨ bits w0 49 48 ≠ 0 then some 0
  else if d.kind ≠ 1 ∧ bits w0 52 51 ≠ 0 then some 0
  else if d.kind ≠ 1 ∧ d.rscale = false ∧ d.scoff ≠ 0 then some 0
  else if d.kind = 2 ∧ (d.rscale ∨ d.scoff ≠ 0) then some 0
  else if d.kind ≠ 2 ∧ (List.range 4).any (fun i => d.mode i == 3) then some 7
  else none

/-- Does a key satisfy what R166 says of every tagged key: its layout, and its bounds? -/
def keyShape (k : KCell) : Bool :=
  decide (k.kind < 2) && bit k.w0 63 == false && bits k.w0 60 58 == 0 && bits k.w1 63 61 == 0 &&
    (if k.kind = 1 then bits k.w0 51 31 == 0 && decide (bits k.w0 17 0 + k.len ≤ 2 ^ 18) else decide (k.base + k.len ≤ 2 ^ 52))

/-- First bad word of the geometry (R256, first reason 3). -/
def Desc.geometry (d : Desc) : Option Nat :=
  if d.stride 0 ≠ 1 then some 5
  else
    let dimBad (i : Nat) : Option Nat :=
      if i < d.rank then (if d.shape i = 0 then some (3 + i / 2) else none)
      else if d.shape i ≠ 1 then some (3 + i / 2)
      else if d.stride i ≠ 0 then some (5 + i / 2)
      else none
    match (List.range 4).findSome? fun i => if i = 0 then (if d.shape 0 = 0 then some 3 else none) else dimBad i with
    | some w => some w
    | none =>
      if d.kind = 2 then
        if d.rank ≠ 2 then some 0
        else if d.version = 0 ∨ d.rowgran = 0 ∨ bits (d.w 7) 15 0 ≠ 0 then some 7
        else none
      else if d.kind = 1 ∧ d.shape 0 % (d.ways 0 * d.group) ≠ 0 then some 3
      else none

/-- Shards (R256, reason 4). WAYS that R250 wants 0 in MODE 0 are reported here too (log entry 99). -/
def Desc.shards (d : Desc) : Option Nat :=
  if d.kind = 2 then none
  else if (List.range 4).any fun i =>
      d.coord i ≥ d.ways i || (d.mode i == 0 && d.ways i != 1) || (d.mode i == 1 && d.coord i * ceilDiv (d.shape i) (d.ways i) ≥ d.shape i) then some 7
  else if d.kind = 1 ∧ d.mode 0 = 2 then some 7
  else none

/-- The alignment A of R256. -/
def Desc.align (d : Desc) : Nat :=
  let bytes := ceilDiv (d.extent 0 * d.width) 8
  let r := 2 ^ (if bytes ≤ 1 then 0 else (bytes - 1).log2 + 1)
  min 128 (max 8 r)

def Desc.base (d : Desc) : Nat := if d.key.kind = 1 then bits d.key.w0 17 0 else d.key.base

/-- Alignment (R256, reason 1). -/
def Desc.aligned (d : Desc) : Option Nat :=
  let a := d.align
  if d.base % a ≠ 0 then some 1
  else match [1, 2, 3].find? fun i => d.stride i * d.width % (8 * a) ≠ 0 with
    | some i => some (5 + i / 2)
    | none => if d.scoff % 8 ≠ 0 then some 0 else none

/-- The byte after the last one an entry reaches (R256, last reason 3). -/
def Desc.reach (d : Desc) : Nat :=
  let last := (List.range 4).foldl (fun acc i => acc + (d.extent i - 1) * d.stride i) 0
  let bytes := ceilDiv ((last + 1) * d.width) 8
  let bytes := if d.swizzle ≠ 0 then ceilDiv bytes 128 * 128 else bytes
  let ends :=
    if d.kind = 1 then ceilDiv (d.zeroBit d.groups) 8
    else if d.rscale then d.scoff + 2 * (d.extent 1 * d.extent 2 * d.extent 3)
    else 0
  max bytes ends

/-- The first condition of R256 that an image breaks, but for reason 8; `tags`: both key words were tagged. -/
def Desc.check (d : Desc) (id : TensorId) (level : Level) (tenant : BitVec 9) (tags : Bool) : Option TrapInfo :=
  match d.defined with
  | some w => some (descTrap id w 0)
  | none =>
    if tags = false ∨ keyShape d.key = false ∨ (level = .user ∧ d.key.tenant ≠ tenant) ∨
        (d.kind = 2 ∧ d.key.kind ≠ 0) then some (descTrap id 1 2)
    else if (d.kind = 1 ∧ d.format < 10) ∨ (d.kind = 0 ∧ d.format > 9) ∨
        (d.kind = 2 ∧ ¬ (d.format ≤ 5 ∨ d.format = 8)) ∨ (d.rscale ∧ ¬ (d.kind = 0 ∧ d.format = 8)) then
      some (descTrap id 0 5)
    else match d.geometry with
      | some w => some (descTrap id w 3)
      | none => match d.shards with
        | some w => some (descTrap id w 4)
        | none => match d.aligned with
          | some w => some (descTrap id w 1)
          | none =>
            if d.kind ≠ 2 ∧ d.reach > d.key.len then some (descTrap id 2 3) else none

namespace State

/-- The entry of an id in the copy of the issuing cluster, if the thread may use it (R246). -/
def descOf (s : State) (v : View) (id : TensorId) : Option Desc :=
  match aget s.copyHere.descs id with
  | some d => if d.tenant = v.th.tenant then some d else none
  | none => none

/-- An access that no key register of the thread names: at a tensor's home, a descriptor home, a node's cluster. -/
def homeReq (s : State) (v : View) (op : Op) (dst : Dst) : Req :=
  { s.newReq v ⟨true, 0, v.th.tenant, 0, 0⟩ 8 op dst false with stage := .home, fine := none, gate := false }

/-- What a read of the region of a key waits for: the drain of a node that the core has acquired (R208). -/
def keyDrain (s : State) (k : KCell) : Option WaitOn :=
  let a := if k.kind = 1 then bits k.w0 30 0 else k.base
  (s.drainMet ⟨k.kind != 1, a, k.tenant, 0, 0⟩ k.len).map fun p => .drain p.1 p.2

/-- An access at a tensor's home, which reads of the region of a key, sets out. -/
def homeAccess (s : State) (v : View) (k : KCell) (op : Op) (dst : Dst) : Head :=
  match s.keyDrain k with
  | some w => .park w
  | none => .pend (s.addReq (s.homeReq v op dst)) .access

/-- The clusters of a partition. -/
def clustersOf (s : State) (p : Nat) : List (BitVec 9) :=
  let x := s.part p
  ((List.range x.len).map fun i => clusterOf (hilbertCore (x.base + i))).eraseDups

end State

/-! ## Instructions -/

/-- `TDSET` (R257): the read of the image sets out; the update follows at its reply. -/
def execTdset (t : TensorId) (k : KReg) (x : SReg) : State → Out :=
  plain [kN k, sN x] fun v s =>
    match s.checkCap v k (v.sd x) 64 .read 64 with
    | .error e => .trap e
    | .ok a =>
      match s.refusedIn a 64 with
      | some r => .trap r
      | none =>
        match s.drainMet a 64 with
        | some (n, c) => .park (.drain n c)
        | none => .pend (s.addReq (s.newReq v a 64 (.tdset t) .none false)) .access

/-- `TDGET` of a word (R258). -/
def execTdget (d : SReg) (t : TensorId) (x : SReg) : State → Out :=
  plain [sN d, sN x] fun v s =>
    match s.descOf v t with
    | none => .trap (descTrap t 0 6)
    | some e =>
      let i := v.sd x
      if bits i 63 3 ≠ 0 then .trap (descTrap t 0 0)
      else putS d (e.words.toList.getD (bits i 2 0) 0) s

/-- `TDGET` of the version (R258): an ordinary access at the tensor's home for a stitched entry. -/
def execTdgetVer (d : SReg) (t : TensorId) : State → Out :=
  plain [sN d] fun v s =>
    match s.descOf v t with
    | none => .trap (descTrap t 0 6)
    | some e =>
      if e.kind = 2 then s.homeAccess v e.key (.ver t e) (.s d)
      else .pend (s.addReq (s.homeReq v (.ver t e) (.s d))) .access

end Sys2Proof.Machine
end

