-- ==== Sys2Proof/Machine/Transcend.lean ====
section
/-! DEFINITION. The real functions of the special-function and directional units (R297, R302): 2^x, e^x, log2, tanh,
sigmoid and 1/√x on exact dyadic arguments, each to 256 fixed-point bits. A result is (m, e) for a value m · 2^e whose
last bit stands for everything below it, so that one rounding of it is a rounding of the true value unless that value
lies within 2^-200 of a rounding boundary (log entry 21). -/
namespace Sys2Proof.Machine

/-- Working bits. -/
def fxP : Nat := 256
/-- ln 2 in units of 2^-256. -/
def fxLn2 : Nat := 0xb17217f7d1cf79abc9e3b39803f2f6af40f343267298b62d8a0d175b8baafa2b
/-- log2 e in units of 2^-256. -/
def fxLog2e : Nat := 0x171547652b82fe1777d0ffda0d23a7d11d6aef551bad2b4b1164a2cd9a342648f

/-- Σ t^k / k! from the term `term`, in units of 2^-256. -/
def expSeries (t : Nat) : Nat → Nat → Nat → Nat
  | 0, _, acc => acc
  | n + 1, term, acc => let k := 80 - n; let term' := term * t / 2 ^ fxP / k; expSeries t n term' (acc + term')

/-- 2^(f / 2^256) for a fraction, in units of 2^-256. -/
def exp2Frac (f : Nat) : Nat :=
  expSeries (f * fxLn2 / 2 ^ fxP) 80 (2 ^ fxP) (2 ^ fxP)

/-- A dyadic value in units of 2^-256, rounded down; magnitudes above 2^20 are held there, where every format has long
overflowed or underflowed. -/
def fxOf (s : Bool) (m : Nat) (e : Int) : Int :=
  if m = 0 then 0
  else if e + bitLen m > 20 then sgnInt s (2 ^ (fxP + 20))
  else if 0 ≤ e + fxP then sgnInt s (m * 2 ^ (e + fxP).toNat)
  else sgnInt s m / 2 ^ (-(e + fxP)).toNat

/-- 2^(x / 2^256), inexact unless `exact` and the fraction is zero. -/
def exp2Fx (x : Int) (exact : Bool) : Nat × Int :=
  let n := x / 2 ^ fxP
  let f := (x % 2 ^ fxP).toNat
  if exact && f == 0 then (1, n) else (2 * exp2Frac f + 1, n - fxP - 1)

/-- 2^x. -/
def rExp2 (s : Bool) (m : Nat) (e : Int) : Nat × Int := exp2Fx (fxOf s m e) (decide (0 ≤ e + fxP) || m == 0)

/-- e^x. -/
def rExp (s : Bool) (m : Nat) (e : Int) : Nat × Int :=
  if m = 0 then (1, 0) else exp2Fx (fxOf s (m * fxLog2e) (e - fxP)) false

/-- Σ z^(2k+1) / (2k+1) with z² = `zz`, in units of 2^-256. -/
def atanhSeries (zz : Nat) : Nat → Nat → Nat → Nat → Nat
  | 0, _, _, acc => acc
  | n + 1, k, pow, acc => atanhSeries zz n (k + 2) (pow * zz / 2 ^ fxP) (acc + pow / k)

/-- log2 of a positive dyadic value, in units of 2^-256 rounded down, and whether it is exact. -/
def log2Fx (m : Nat) (e : Int) : Int × Bool :=
  let l := m.log2
  let n : Int := e + l
  if m = 2 ^ l then (n * 2 ^ fxP, true)
  else
    let x := if l ≤ fxP then m * 2 ^ (fxP - l) else m / 2 ^ (l - fxP)
    let one := 2 ^ fxP
    let z := (x - one) * one / (x + one)
    let at' := atanhSeries (z * z / one) 100 1 z 0
    (n * 2 ^ fxP + (2 * at' * one / fxLn2 : Nat), false)

/-- A fixed-point number of units 2^-256 as sign and dyadic magnitude with a sticky bit. -/
def ofFx (x : Int) (exact : Bool) : Bool × Nat × Int :=
  (decide (x < 0), 2 * x.natAbs + (if exact then 0 else 1), -(fxP : Int) - 1)

/-- log2 of a positive value. -/
def rLog2 (m : Nat) (e : Int) : Bool × Nat × Int := let (x, ex) := log2Fx m e; ofFx x ex

/-- Numerator and denominator of (E − 1)/(E + 1) or 1/(E + 1) for E = m·2^e. -/
def overCommon (m : Nat) (e : Int) : Nat × Nat :=
  if 0 ≤ e then (m * 2 ^ e.toNat, 1) else (m, 2 ^ (-e).toNat)

/-- The largest value below one that the working bits hold. -/
def justBelowOne : Nat × Int := (2 ^ (fxP + 1) - 1, -(fxP : Int) - 1)

/-- tanh of a positive value. -/
def rTanh (m : Nat) (e : Int) : Nat × Int :=
  if e + bitLen m < -70 then (2 * (m * 256 - 1) + 1, e - 9)
  else if e + bitLen m > 9 then justBelowOne
  else
    let (k, x) := rExp false m (e + 1)
    let (a, one) := overCommon k x
    quotient (a - one) 0 (a + one) 0

/-- 1 / (1 + e^−x). -/
def rSigm (s : Bool) (m : Nat) (e : Int) : Nat × Int :=
  if m = 0 then (1, -1)
  else if e + bitLen m > 13 then (if s then (1, -1000000) else justBelowOne)
  else
    let (k, x) := rExp (!s) m e
    let (a, one) := overCommon k x
    quotient one 0 (a + one) 0

/-- 1 / √(m·2^e), m positive. -/
def rRsqrt (m : Nat) (e : Int) : Nat × Int :=
  let (m, e) := if e % 2 = 0 then (m, e) else (2 * m, e - 1)
  let k := 150 + bitLen m
  let r := isqrt (2 ^ (2 * k) / m)
  (2 * r + (if r * r * m = 2 ^ (2 * k) then 0 else 1), -(k : Int) - e / 2 - 1)

end Sys2Proof.Machine
end

