-- ==== Sys2Proof/Machine/Vector.lean ====
section
/-! DEFINITION. The vector unit: element types, lanes, and the vector instructions but for the special functions and the
dequantisation (R236, R270, R277, R288 to R296). -/
namespace Sys2Proof.Machine

/-- Lanes of a row as numbers, lane 0 first (R236). -/
def lanesOf (t : ETy) (r : Row) : List Nat := (List.range (etyLanes t)).map (lane (etyWidth t) r)

/-- A row from its lanes. -/
def rowOf (t : ETy) (l : List Nat) : Row := ofLanes (etyWidth t) l

/-- Write a row of a tile in full, or park while a routed row holds it (R277, R394). -/
def putRow (t : TileId) (d : VReg) (r : Row) (s : State) : Head :=
  if s.heldRow s.cur.core t d then .park (.held t d) else .ok (s.setRow s.cur.core t d r)

/-- The binding, the checks that depend on the type of the binding, and the use of the tile (R274, R277). -/
def withType (ovr : Option ETy) (chk : ETy → Option EncFault) (k : TileId → ETy → State → Head) (v : View)
    (s : State) : Head :=
  match v.th.bound with
  | none => .trap ⟨0x09, 16, 0, 0⟩
  | some t =>
    match ovr with
    | some ty => s.useTile v t (k t ty)
    | none =>
      match chk v.th.ety with
      | some e => .trap (s.encTrap e.tail e.sub 0)
      | none => s.useTile v t (k t v.th.ety)

/-- The mode of the TV2 rounding bits; absent, DYN (R59). -/
def tvMode (v : View) (lo : Option (BitVec 3)) : RMode :=
  match lo with
  | none => fsrMode v.th.fsr
  | some c => if c = 7 then fsrMode v.th.fsr else rmOfCode c.toNat

/-- Lanes of a floating result: trap 0x08, or the row written and the flags merged (R277). -/
def putLanes (ty : ETy) (t : TileId) (d : VReg) (l : List FRes) (v : View) (s : State) : Head :=
  let fl := lanesFlags l
  if v.fpTraps fl then .trap (v.laneTrap l)
  else match putRow t d (rowOf ty (l.map (·.val))) s with
    | .ok s' => .ok (s'.orFlags fl)
    | h => h

/-- An integer lane result (R277). -/
def intLane (w : Nat) (sat : Bool) (x : Int) : Nat := if sat then satS w x else wrapN w x

/-- What the modifiers of a row of R59 say: SAT, override, rounding bits if a TV2 is present. -/
structure VMods where
  sat : Bool
  ovr : Option ETy
  lo  : Option (BitVec 3)
  deriving DecidableEq, Repr, Inhabited

def VMods.none : VMods := ⟨false, .none, .none⟩

end Sys2Proof.Machine
namespace Sys2Proof
open Machine

def Mods.v (m : Mods) : VMods := ⟨m.sat, m.ovr, some m.rnd⟩
def ModsQ.v (m : ModsQ) : VMods := ⟨m.sat, m.ovr, .none⟩

end Sys2Proof
namespace Sys2Proof.Machine

/-- The checks of a row that rounds when its type is floating (R59). -/
def chkRound (m : VMods) (ty : ETy) : Option EncFault :=
  match m.lo with
  | none => none
  | some c => typeFault ty true ty.isFloat m.sat (some c) 2

/-- The checks of a row that never rounds. -/
def chkPlain (fOk : ETy → Bool) (m : VMods) (ty : ETy) : Option EncFault := typeFault ty (fOk ty) false m.sat none 2

/-! ## Lane-wise arithmetic -/

/-- Operand B of R288: a row, or a scalar's low bits in every lane. -/
def operandB (sc : Bool) (b : Src) (t : TileId) (ty : ETy) (v : View) : List Nat :=
  if sc then List.replicate (etyLanes ty) ((v.s b).toNat % 2 ^ etyWidth ty) else lanesOf ty (v.row t b.reg)

/-- `VADD`, `VSUB`, `VMUL` (R288). -/
def arith3 (ff : Fmt → FEnv → Nat → Nat → FRes) (fi : Int → Int → Int) (m : VMods) (sc : Bool) (d : VReg) (a b : Src) :
    State → Out :=
  plain [vN d, a.vneed, if sc then b.need else b.vneed] <| withRow
where
  /-- The lanes of both operands combined. -/
  withRow (v : View) : State → Head :=
    withType m.ovr (chkRound m) (fun t ty s =>
      let x := lanesOf ty (v.row t a.reg)
      let y := operandB sc b t ty v
      if ty.isFloat then
        putLanes ty t d (List.zipWith (ff (etyFmt ty) (v.fenv (tvMode v m.lo))) x y) v s
      else
        let w := etyWidth ty
        putRow t d (rowOf ty (List.zipWith (fun p q => intLane w m.sat (fi (sxN w p) (sxN w q))) x y)) s) v

def execVadd (sc : Bool) (d : VReg) (a b : Src) : State → Out := arith3 fAdd (· + ·) VMods.none sc d a b
def execVaddTv2 (sc : Bool) (d : VReg) (a b : Src) (m : Mods) : State → Out := arith3 fAdd (· + ·) m.v sc d a b
def execVsub (sc : Bool) (d : VReg) (a b : Src) : State → Out := arith3 fSub (· - ·) VMods.none sc d a b
def execVsubTv2 (sc : Bool) (d : VReg) (a b : Src) (m : Mods) : State → Out := arith3 fSub (· - ·) m.v sc d a b
def execVmul (sc : Bool) (d : VReg) (a b : Src) : State → Out := arith3 fMul (· * ·) VMods.none sc d a b
def execVmulTv2 (sc : Bool) (d : VReg) (a b : Src) (m : Mods) : State → Out := arith3 fMul (· * ·) m.v sc d a b

/-- The exact integer value of a form of R154. -/
def fmaInt (f : FmaF) (x y z : Int) : Int :=
  match f with
  | .pp => x * y + z
  | .pm => x * y - z
  | .mp => -(x * y) + z
  | .mm => -(x * y) - z

/-- Three lists combined lane by lane. -/
def zip3 (f : Nat → Nat → Nat → β) (x y z : List Nat) : List β :=
  List.zipWith (fun p r => f p.1 p.2 r) (x.zip y) z

/-- R290. -/
def execVfma (f : FmaF) (d : VReg) (a b c : Src) (m : Mods) : State → Out :=
  plain [vN d, a.vneed, b.vneed, c.vneed] fun v =>
    withType m.ovr (chkRound m.v) (fun t ty s =>
      let x := lanesOf ty (v.row t a.reg)
      let y := lanesOf ty (v.row t b.reg)
      let z := lanesOf ty (v.row t c.reg)
      if ty.isFloat then putLanes ty t d (zip3 (fFma (etyFmt ty) (v.fenv (tvMode v (some m.rnd))) f) x y z) v s
      else
        let w := etyWidth ty
        putRow t d (rowOf ty (zip3 (fun p q r => intLane w m.sat (fmaInt f (sxN w p) (sxN w q) (sxN w r))) x y z)) s) v

/-! ## Selection and comparison -/

/-- One lane of `VMINMAX` (R291). -/
def minmaxLane (ty : ETy) (f : MinMaxF) (x y : Nat) : FRes :=
  if ty.isFloat then fMinMax (etyFmt ty) f x y
  else
    let w := etyWidth ty
    let less := decide (sxN w x ≤ sxN w y)
    ⟨if (f == .min || f == .minnum) == less then x else y, 0⟩

/-- One lane of `VCMP` (R291), and its flags. -/
def vcmpLane (ty : ETy) (r : VRel) (x y : Nat) : FRes :=
  let ones := 2 ^ etyWidth ty - 1
  if ty.isFloat then
    let f := etyFmt ty
    let (c, fl) : Bool × Flags := match r with
      | .eq => fCompare f .eq x y
      | .ne => let (c, fl) := fCompare f .eq x y; (!c, fl)
      | .lt => fCompare f .lt x y
      | .le => fCompare f .le x y
      | .un => fCompare f .un x y
    ⟨if c then ones else 0, fl⟩
  else
    let w := etyWidth ty
    let p := sxN w x
    let q := sxN w y
    let c := match r with
      | .eq => decide (p = q)
      | .ne => decide (p ≠ q)
      | .lt => decide (p < q)
      | .le => decide (p ≤ q)
      | .un => false
    ⟨if c then ones else 0, 0⟩

/-- A row that never rounds, lane by lane (R291). -/
def lanes2 (fOk : ETy → Bool) (f : ETy → Nat → Nat → FRes) (m : VMods) (d : VReg) (a b : Src) : State → Out :=
  plain [vN d, a.vneed, b.vneed] fun v =>
    withType m.ovr (chkPlain fOk m) (fun t ty s =>
      putLanes ty t d (List.zipWith (f ty) (lanesOf ty (v.row t a.reg)) (lanesOf ty (v.row t b.reg))) v s) v

def execVminmax (f : MinMaxF) (d : VReg) (a b : Src) : State → Out :=
  lanes2 f.okFor (fun ty => minmaxLane ty f) VMods.none d a b
def execVminmaxTv2 (f : MinMaxF) (d : VReg) (a b : Src) (m : ModsQ) : State → Out :=
  lanes2 f.okFor (fun ty => minmaxLane ty f) m.v d a b
def execVcmp (r : VRel) (d : VReg) (a b : Src) : State → Out :=
  lanes2 r.okFor (fun ty => vcmpLane ty r) VMods.none d a b
def execVcmpTv2 (r : VRel) (d : VReg) (a b : Src) (m : ModsQ) : State → Out :=
  lanes2 r.okFor (fun ty => vcmpLane ty r) m.v d a b

/-- `VSEL` (R291). -/
def execVsel (d : VReg) (a b c : Src) (m : ModsQ) : State → Out :=
  plain [vN d, a.vneed, b.vneed, c.vneed] fun v =>
    withType m.ovr (chkPlain (fun _ => true) m.v) (fun t ty s =>
      putRow t d (rowOf ty (zip3 (fun x y z => if z ≠ 0 then x else y) (lanesOf ty (v.row t a.reg))
        (lanesOf ty (v.row t b.reg)) (lanesOf ty (v.row t c.reg)))) s) v

/-! ## Conversion -/

/-- One lane converted (R292). -/
def cvtLane (src dst : ETy) (sat : Bool) (env : FEnv) (x : Nat) : FRes :=
  let w := etyWidth dst
  if src.isFloat then
    if dst.isFloat then fToF (etyFmt src) (etyFmt dst) env x
    else fToInt (etyFmt src) env.mode true w x
  else
    let n := sxN (etyWidth src) x
    if dst.isFloat then intToF (etyFmt dst) env n else ⟨intLane w sat n, 0⟩

/-- The checks of `VCVT` under the type of the binding (R59, R292). -/
def chkCvt (src : ETy) (p : Nat) (m : VMods) (ty : ETy) : Option EncFault :=
  match (match m.lo with
    | none => none
    | some c => typeFault ty true (src.isFloat || ty.isFloat) m.sat (some c) 2) with
  | some e => some e
  | none => if partOk src ty p then none else some ⟨5, 2⟩

/-- The lanes of D after a conversion, with the results of the converted lanes. -/
def cvtLanes (src dst : ETy) (p : Nat) (sat : Bool) (env : FEnv) (x old : List Nat) : List FRes :=
  let ls := etyLanes src
  let ld := etyLanes dst
  if ld ≤ ls then (List.range ld).map fun j => cvtLane src dst sat env (x.getD (p * ld + j) 0)
  else (List.range ld).map fun j =>
    if p * ls ≤ j ∧ j < p * ls + ls then cvtLane src dst sat env (x.getD (j - p * ls) 0) else ⟨old.getD j 0, 0⟩

/-- `VCVT` (R292). -/
def convert (src : ETy) (d : VReg) (a : Src) (p : Nat) (m : VMods) : State → Out :=
  plain [vN d, a.vneed] fun v =>
    withType m.ovr (chkCvt src p m) (fun t ty s =>
      putLanes ty t d (cvtLanes src ty p m.sat (v.fenv (tvMode v m.lo)) (lanesOf src (v.row t a.reg))
        (lanesOf ty (v.row t d))) v s) v

def execVcvt (src : ETy) (d : VReg) (a : Src) : State → Out := convert src d a 0 VMods.none
def execVcvtTv2 (src : ETy) (d : VReg) (a : Src) (p : BitVec 3) (m : Mods) : State → Out :=
  convert src d a p.toNat m.v

/-! ## Reduction -/

/-- The exact sum of finite lanes as units of 2^`e`. -/
def sumFin (l : List FV) (e : Int) : Int :=
  l.foldl (fun acc x => match x with | .fin s m k => acc + sgnInt s m * 2 ^ (k - e).toNat | _ => acc) 0

/-- The floating sum of R294: exact, rounded once. -/
def fSumLanes (f : Fmt) (env : FEnv) (l : List Nat) : FRes :=
  let xs := l.map f.decode
  match propNaN f xs with
  | some r => r
  | none =>
    let pos := xs.any fun x => match x with | .inf s => !s | _ => false
    let neg := xs.any fun x => match x with | .inf s => s | _ => false
    if pos && neg then invalid f
    else if pos then encInf f env false
    else if neg then encInf f env true
    else
      let e := xs.foldl (fun m x => match x with | .fin _ _ k => min m k | _ => m) (2000 : Int)
      let n := sumFin xs e
      if n = 0 then
        let zeros := xs.all fun x => match x with | .fin _ m _ => m == 0 | _ => false
        let sg : Bool :=
          if zeros && xs.all (fun x => x.sign) then true
          else if zeros && xs.all (fun x => !x.sign) then false
          else env.mode == .rdn
        ⟨f.signBit sg, 0⟩
      else roundFin f env (decide (n < 0)) n.natAbs e

/-- The reduction of a row's lanes (R294). -/
def reduceLanes (f : RedF) (ty : ETy) (sat : Bool) (env : FEnv) (l : List Nat) : FRes :=
  let w := etyWidth ty
  let fold (k : Nat → Nat → FRes) : FRes :=
    (l.drop 1).foldl (fun acc x => let r := k acc.val x; ⟨r.val, acc.fl ||| r.fl⟩) ⟨l.headD 0, 0⟩
  match f with
  | .sum =>
    if ty.isFloat then fSumLanes (etyFmt ty) env l
    else ⟨intLane w sat ((l.map (sxN w)).sum), 0⟩
  | .min => fold (minmaxLane ty .min)
  | .max => fold (minmaxLane ty .max)
  | .and => fold fun x y => ⟨Nat.land x y, 0⟩
  | .or => fold fun x y => ⟨Nat.lor x y, 0⟩
  | .xor => fold fun x y => ⟨Nat.xor x y, 0⟩

def reduce (f : RedF) (d : VReg) (a : Src) (m : VMods) : State → Out :=
  plain [vN d, a.vneed] fun v =>
    withType m.ovr (chkPlain f.okFor m) (fun t ty s =>
      putLanes ty t d [reduceLanes f ty m.sat (v.fenv (fsrMode v.th.fsr)) (lanesOf ty (v.row t a.reg))] v s) v

def execVred (f : RedF) (d : VReg) (a : Src) : State → Out := reduce f d a VMods.none
def execVredTv2 (f : RedF) (d : VReg) (a : Src) (m : ModsQ) : State → Out := reduce f d a m.v

/-! ## Moving lanes -/

/-- `VBCST` of a scalar (R295). -/
def execVbcst (d : VReg) (a : Src) : State → Out :=
  plain [vN d, a.need] fun v =>
    withType none (fun _ => none) (fun t ty s =>
      putRow t d (rowOf ty (List.replicate (etyLanes ty) ((v.s a).toNat % 2 ^ etyWidth ty))) s) v

/-- `VBCST` of a lane (R295). -/
def execVbcstLane (d : VReg) (a b : Src) : State → Out :=
  plain [vN d, a.vneed, b.need] fun v =>
    withType none (fun _ => none) (fun t ty s =>
      let x := lane (etyWidth ty) (v.row t a.reg) ((v.s b).toNat % etyLanes ty)
      putRow t d (rowOf ty (List.replicate (etyLanes ty) x)) s) v

/-- `VPERM` (R295). -/
def permute (z : Bool) (d : VReg) (a b : Src) (m : VMods) : State → Out :=
  plain [vN d, a.vneed, b.vneed] fun v =>
    withType m.ovr (chkPlain (fun _ => true) m) (fun t ty s =>
      let x := lanesOf ty (v.row t a.reg)
      let n := etyLanes ty
      putRow t d (rowOf ty ((lanesOf ty (v.row t b.reg)).map fun i =>
        if z ∧ n ≤ i then 0 else x.getD (i % n) 0)) s) v

def execVperm (z : Bool) (d : VReg) (a b : Src) : State → Out := permute z d a b VMods.none
def execVpermTv2 (z : Bool) (d : VReg) (a b : Src) (m : ModsQ) : State → Out := permute z d a b m.v

/-- A lane as an `s` value (R295): integer lanes sign-extended, floating lanes raw. -/
def laneWord (ty : ETy) (x : Nat) : Word :=
  if ty.isFloat then word x else BitVec.ofInt 64 (sxN (etyWidth ty) x)

/-- `VLANE` (R295). -/
def execVlane (d : SReg) (a b : Src) : State → Out :=
  plain [sN d, a.vneed, b.need] fun v =>
    withType none (fun _ => none) (fun t ty s =>
      putS d (laneWord ty (lane (etyWidth ty) (v.row t a.reg) ((v.s b).toNat % etyLanes ty))) s) v

def execVlaneImm (d : SReg) (a : Src) (l : BitVec 5) : State → Out :=
  plain [sN d, a.vneed] fun v =>
    withType none (fun _ => none) (fun t ty s =>
      putS d (laneWord ty (lane (etyWidth ty) (v.row t a.reg) (l.toNat % etyLanes ty))) s) v

/-! ## Bitwise operations -/

/-- One lane of `VLOGIC` (R296), by the raw second operand or the shift amount. -/
def logicLane (f : LogicF) (w : Nat) (x y sh : Nat) : Nat :=
  match f with
  | .and => Nat.land x y
  | .or => Nat.lor x y
  | .xor => Nat.xor x y
  | .andn => x - Nat.land x y
  | .not => 2 ^ w - 1 - x
  | .shl => x * 2 ^ sh % 2 ^ w
  | .shr => x / 2 ^ sh
  | .sar => wrapN w (sxN w x / 2 ^ sh)

/-- Is operand B of the function an `s` register (R296)? -/
def LogicF.shifts : LogicF → Bool
  | .shl => true
  | .shr => true
  | .sar => true
  | _ => false

def logic (f : LogicF) (d : VReg) (a b : Src) (m : VMods) : State → Out :=
  plain ([vN d, a.vneed] ++ (if LogicF.shifts f then [b.need] else if f == .not then [] else [b.vneed])) fun v =>
    withType m.ovr (chkPlain f.okFor m) (fun t ty s =>
      let w := etyWidth ty
      let x := lanesOf ty (v.row t a.reg)
      let y := lanesOf ty (v.row t b.reg)
      putRow t d (rowOf ty (List.zipWith (fun p q => logicLane f w p q (bits (v.s b) 5 0)) x y)) s) v

def execVlogic (f : LogicF) (d : VReg) (a b : Src) : State → Out := logic f d a b VMods.none
def execVlogicTv2 (f : LogicF) (d : VReg) (a b : Src) (m : ModsQ) : State → Out := logic f d a b m.v

end Sys2Proof.Machine
end

