-- ==== Sys2Proof/Machine/Directional.lean ====
section
/-! DEFINITION. Directional vectors: renormalisation, the four instructions, and the fill of a long-latency result (R299 to
R309). -/
namespace Sys2Proof.Machine

/-- Classes of R299. -/
def clNormal : BitVec 2 := 0
def clZero : BitVec 2 := 1
def clInvalid : BitVec 2 := 2
def clSat : BitVec 2 := 3

/-- A register of class zero (R300). -/
def dZero : DCell := DCell.zero
def dInvalid : DCell := ⟨0, clInvalid, 0, .full⟩

def lMax : BitVec 32 := 0x7FFFFFFF
def lMin : BitVec 32 := 0x80000000

/-- Components as integers in units of 2⁻¹⁵. -/
def comps (r : Row) : List Int := (List.range 64).map fun i => sxN 16 (lane 16 r i)
def rowOfComps (l : List Int) : Row := ofLanes 16 (l.map (wrapN 16))

/-- a / d rounded to nearest, ties to even, d positive. -/
def rneDiv (a : Int) (d : Nat) : Int :=
  let q := a / d
  let r := a % d
  if 2 * r < d then q else if 2 * r > d then q + 1 else q + q % 2

/-- 2¹⁵ · x / √s rounded to nearest even, for an integer x and the sum of squares s, clamped (R302). -/
def unitComp (x : Int) (s : Nat) : Int :=
  let n := x.natAbs * x.natAbs * 2 ^ 30
  let t := isqrt (n / s)
  let h := (2 * t + 1) * (2 * t + 1) * s
  let t := if h < 4 * n then t + 1 else if h = 4 * n then t + t % 2 else t
  if x < 0 then -(t : Int) else min (t : Int) 32767

def sumSq (l : List Int) : Nat := (l.map fun x => x.natAbs * x.natAbs).sum

/-- Index of the largest magnitude, lowest on ties. -/
def largest (l : List Int) : Nat :=
  (l.zipIdx.foldl (fun (b : Nat × Nat) p => if p.1.natAbs > b.1 then (p.1.natAbs, p.2) else b) (0, 0)).2

/-- One unit toward zero at the largest component, while the sum of squares passes 1 (R302). -/
def stepDown : Nat → List Int → List Int
  | 0, l => l
  | n + 1, l =>
    if sumSq l > 2 ^ 30 then
      let j := largest l
      let c := l.getD j 0
      stepDown n (l.set j (c - c.sign))
    else l

/-- `Renorm` (R302) of 64 integers in units of 2^`e` times 2^(`lo` / 2²⁴), with the exceptions it raises. -/
def renorm (x : List Int) (e lo : Int) : DCell × Flags :=
  let s := sumSq x
  if s = 0 then (dZero, 0)
  else
    let c := stepDown 128 (x.map fun v => unitComp v s)
    let d : Int := (log2Fx s 0).1 - (log2Fx (sumSq c) 0).1 + 2 * (15 + e) * 2 ^ 256 + 2 * lo * 2 ^ 232
    let l := rneDiv d (2 ^ 233)
    let row := rowOfComps c
    if l > 2 ^ 31 - 1 then (⟨row, clSat, lMax, .full⟩, flOF ||| flNX)
    else if l < -(2 ^ 31) then (⟨row, clSat, lMin, .full⟩, flUF ||| flNX)
    else (⟨row, clNormal, BitVec.ofInt 32 l, .full⟩, 0)

/-- The exact vector of lanes as integers with a common unit. -/
def exactLanes (l : List FV) : List Int × Int :=
  let e := l.foldl (fun m x => match x with | .fin _ _ k => min m k | _ => m) (0 : Int)
  (l.map fun x => match x with | .fin s m k => sgnInt s m * 2 ^ (k - e).toNat | _ => 0, e)

/-- `DCVT` of lanes to a direction (R303). -/
def dirOfLanes (l : List FV) : DCell × Flags :=
  if l.any FV.isNaN then (dInvalid, if l.any FV.isSNaN then flNV else 0)
  else if l.any fun x => match x with | .inf _ => true | _ => false then
    let x : List Int := l.map fun v => match v with | .inf s => if s then -1 else 1 | _ => 0
    let (r, _) := renorm x 0 0
    ({ r with cls := clSat, l := lMax }, 0)
  else
    let (x, e) := exactLanes l
    renorm x e 0

/-- 64 components from the lanes of a row (R306). -/
def dirSource (bf : Bool) (r : Row) : List FV :=
  if bf then (List.range 64).map fun i => fmtBf.decode (lane 16 r i)
  else (List.range 64).map fun i => if i < 32 then fmtS.decode (lane 32 r i) else .fin false 0 0

/-- A long-latency result sets out: the destination empty, the fill 32 cycles after issue (R304). -/
def State.dirStart (s : State) (v : View) (d : DReg) (r : DCell × Flags) : Head :=
  let tok := s.serial
  let s1 := s.setTh (s.th.setD d { s.th.d[d.toFin] with f := .empty tok })
  .ok ((s1.setHere { s1.here with
    dirs := s1.here.dirs ++ [⟨tok, s.cur.slot, v.th.uid, d, s.now + 32, r.1, r.2⟩] }).bump)

/-- `DCVT` of a row to a direction (R306). -/
def execDcvt (bf : Bool) (d : DReg) (a : Src) : State → Out :=
  plain [dN d, a.vneed] fun v s =>
    s.boundTile v fun t s => s.dirStart v d (dirOfLanes (dirSource bf (v.row t a.reg)))

/-- m · 2^(l / 2²⁴) · 2^e, m positive, as a dyadic value with a sticky last bit. -/
def scalePow (m : Nat) (l e : Int) : Nat × Int :=
  let i := l / 2 ^ 24
  let fr := (l % 2 ^ 24).toNat
  if fr = 0 then (m, e + i) else (2 * (m * exp2Frac (fr * 2 ^ 232)) + 1, e + i - 257)

/-- One lane of a direction converted to a row (R306). -/
def dirLane (f : Fmt) (env : FEnv) (x : DCell) (c : Int) : FRes :=
  let s := decide (c < 0)
  let l := x.l.toInt
  if x.cls = clZero then ⟨0, 0⟩
  else if x.cls = clInvalid then ⟨f.defNaN, flNV⟩
  else if x.cls = clSat then
    if c = 0 then ⟨0, 0⟩
    else if 0 ≤ l then ⟨f.signBit s + f.infBits, flOF ||| flNX⟩
    else ⟨f.signBit s, flUF ||| flNX⟩
  else if c = 0 then ⟨0, 0⟩
  else let (m, e) := scalePow c.natAbs l (-15); roundFin f env s m e

/-- `DCVT` of a direction to a row (R306). -/
def execDcvtToRow (bf : Bool) (d : DReg) (r : VReg) : State → Out :=
  plain [dN d, vN r] fun v s =>
    s.boundTile v fun t s =>
      let x := v.th.d[d.toFin]
      let f := if bf then fmtBf else fmtS
      let l := (comps x.v).take (if bf then 64 else 32)
      putLanes (if bf then .bf16 else .f32) t r (l.map (dirLane f (v.fenv (fsrMode v.th.fsr)) x)) v s

/-- The value of `DDOT` (R307). -/
def dotRes (sc : Bool) (env : FEnv) (a b : DCell) : FRes :=
  let p : Int := ((comps a.v).zip (comps b.v)).foldl (fun acc x => acc + x.1 * x.2) 0
  let s := decide (p < 0)
  let satHi (x : DCell) : Bool := x.cls == clSat && decide (0 ≤ x.l.toInt)
  let satLo (x : DCell) : Bool := x.cls == clSat && decide (x.l.toInt < 0)
  if a.cls = clInvalid ∨ b.cls = clInvalid then ⟨0x7FC00000, flNV⟩
  else if a.cls = clZero ∨ b.cls = clZero then ⟨0, 0⟩
  else if sc = false then
    if p.natAbs > 2 ^ 30 then ⟨fmtS.signBit s + 0x3F800000, flNX⟩ else roundFin fmtS env s p.natAbs (-30)
  else if p = 0 then ⟨0, 0⟩
  else if satHi a ∨ satHi b then ⟨fmtS.signBit s + fmtS.infBits, flOF ||| flNX⟩
  else if satLo a ∨ satLo b then ⟨fmtS.signBit s, flUF ||| flNX⟩
  else let (m, e) := scalePow p.natAbs (a.l.toInt + b.l.toInt) (-30); roundFin fmtS env s m e

/-- `DDOT` (R307); its trap is 0x08 with lane mask 1 (R304). -/
def execDdot (sc : Bool) (d : SReg) (a b : DSrc) : State → Out :=
  plain [sN d, a.need, b.need] fun v s =>
    let r := dotRes sc (v.fenv .rne) v.th.d[a.reg.toFin] v.th.d[b.reg.toFin]
    if v.fpTraps r.fl then .trap (v.laneTrap [r])
    else .ok ((s.setTh (s.th.setS d (word r.val))).orFlags r.fl)

/-- `DADD` (R308): the result and its exceptions. -/
def dirAdd (sb : Bool) (a b : DCell) : DCell × Flags :=
  if a.cls = clInvalid ∨ b.cls = clInvalid then (dInvalid, 0)
  else
    let ca := if a.cls = clZero then List.replicate 64 0 else comps a.v
    let cb := if b.cls = clZero then List.replicate 64 0 else comps b.v
    let la : Int := if a.cls = clZero then b.l.toInt else a.l.toInt
    let lb : Int := if b.cls = clZero then la else b.l.toInt
    let lo := min la lb
    let up (l : Int) : Int := (exp2Frac ((l - lo) % 2 ^ 24 * 2 ^ 232).toNat : Int) * 2 ^ ((l - lo) / 2 ^ 24).toNat
    let sg : Int := if sb then -1 else 1
    let x := List.zipWith (fun p q => p * up la + sg * q * up lb) ca cb
    let (r, fl) := renorm x (-271) lo
    if (a.cls = clSat ∨ b.cls = clSat) ∧ r.cls ≠ clZero then ({ r with cls := clSat }, 0) else (r, fl)

def execDadd (sb : Bool) (d : DReg) (a b : DSrc) : State → Out :=
  plain [dN d, a.need, b.need] fun v s =>
    s.dirStart v d (dirAdd sb v.th.d[a.reg.toFin] v.th.d[b.reg.toFin])

/-- The components of a result negated (R309): −1 becomes the largest component, with NX. -/
def negComps (r : DCell) : DCell × Flags :=
  let l := comps r.v
  ({ r with v := rowOfComps (l.map fun c => min (-c) 32767) }, if l.any (· == -32768) then flNX else 0)

/-- `DSCL` before negation (R309). -/
def dirScale (a : DCell) (f : FV) : DCell × Flags :=
  let sn : Flags := if f.isSNaN then flNV else 0
  let hi : DCell := { a with cls := clSat, l := lMax, f := .full }
  let lo : DCell := { a with cls := clSat, l := lMin, f := .full }
  if a.cls = clInvalid ∨ f.isNaN then (dInvalid, sn)
  else if a.cls = clZero then
    match f with
    | .inf false => (dInvalid, flNV)
    | _ => (dZero, 0)
  else
    let sat := a.cls == clSat
    match f with
    | .inf s => (if s then lo else hi, if sat then 0 else (if s then flUF else flOF) ||| flNX)
    | .fin s m e =>
      let (n, k) := addExact (decide (a.l.toInt < 0)) a.l.toInt.natAbs (-24) s m e
      let (l, _) := roundInt .rne (decide (n < 0)) n.natAbs (k + 24)
      if l > 2 ^ 31 - 1 then (hi, if sat then 0 else flOF ||| flNX)
      else if l < -(2 ^ 31) then (lo, if sat then 0 else flUF ||| flNX)
      else ({ a with l := BitVec.ofInt 32 l, f := .full }, 0)
    | _ => (dInvalid, sn)

/-- `DSCL` (R309). -/
def execDscl (neg : Bool) (d : DReg) (a : DSrc) (b : Src) : State → Out :=
  plain [dN d, a.need, b.need] fun v s =>
    let (r, fl) := dirScale v.th.d[a.reg.toFin] (fmtS.decode ((v.s b).toNat % 2 ^ 32))
    let (r, fl) :=
      if neg ∧ (r.cls = clNormal ∨ r.cls = clSat) then let (x, g) := negComps r; (x, fl ||| g) else (r, fl)
    if v.fpTraps fl then .trap (v.laneTrap [⟨0, fl⟩])
    else .ok ((s.setTh (s.th.setD d { r with f := .full })).orFlags fl)

/-! ## The fill -/

/-- The slot of a core that holds a thread. -/
def State.slotOf (s : State) (c : CoreId) (uid : Nat) : Option SlotId :=
  (List.finRange 16).find? fun i =>
    let x := s.slotAt c i
    x.st != .free && x.st != .disabled && x.th.uid == uid

/-- The thread of a slot, changed. -/
def State.mapTh (s : State) (c : CoreId) (n : SlotId) (f : Thread → Thread) : State :=
  let x := s.slotAt c n
  s.setSlot c n { x with th := f x.th }

/-- `DIRECTIONAL_FILL` (R304): the `i`-th pending result of the core, once 32 cycles have passed. -/
def execDirectionalFill (c : CoreId) (i : Nat) (s : State) : Out :=
  .next <|
    let k := s.core c
    match k.dirs[i]? with
    | none => s
    | some e =>
      if k.cycle < e.due then s
      else
        let s := s.setCore c { k with dirs := k.dirs.eraseIdx i }
        match s.slotOf c e.uid with
        | none => s
        | some n =>
          s.mapTh c n fun t =>
            if t.d[e.d.toFin].f = .empty e.tok then { t.setD e.d e.val with fsr := t.fsr ||| e.fl.setWidth 64 } else t

end Sys2Proof.Machine
end

