-- ==== Sys2Proof/Machine/Array.lean ====
section
/-! DEFINITION. The matrix array at issue: modes and limits, tile images, the array queue, and the instructions that fill it;
the special functions and the dequantisation at issue (R260 to R264, R278, R280 to R287, R297, R298). -/
namespace Sys2Proof.Machine

/-! ## Modes (R263) -/

/-- Array modes. -/
inductive AMode | bf16 | fp16 | fp8 | w8a8 | w4a8 | w8a16 | w4a16 | fp32 | fp64
  deriving DecidableEq, Repr, Inhabited

/-- The mode of a weight entry and the format of an activation entry. -/
def arrayMode (w a : Desc) : Option AMode :=
  match w.kind, w.format, a.format with
  | 0, 2, 2 => some .bf16
  | 0, 3, 3 => some .fp16
  | 0, 4, 4 => some .fp8
  | 0, 4, 5 => some .fp8
  | 0, 5, 4 => some .fp8
  | 0, 5, 5 => some .fp8
  | 0, 1, 1 => some .fp32
  | 0, 0, 0 => some .fp64
  | 1, 10, 8 => if a.rscale then some .w8a8 else none
  | 1, 11, 8 => if a.rscale then some .w4a8 else none
  | 1, 10, 2 => some .w8a16
  | 1, 11, 2 => some .w4a16
  | _, _, _ => none

/-- K max and N max of a weight format over the modes that take it; `none`: no weight format. -/
def weightLimits (w : Desc) : Option (Nat × Nat) :=
  if w.kind = 0 then
    match w.format with
    | 0 => some (16, 16)
    | 1 => some (32, 32)
    | 2 => some (64, 32)
    | 3 => some (64, 32)
    | 4 => some (128, 32)
    | 5 => some (128, 32)
    | _ => none
  else if w.kind = 1 then
    match w.format with
    | 10 => some (128, 32)
    | 11 => some (256, 32)
    | _ => none
  else none

/-- Source rows of an activation row. -/
def AMode.r : AMode → Nat
  | .w4a8 => 2
  | .w8a16 => 2
  | .w4a16 => 4
  | _ => 1

/-- Cycles of an activation row, by whether its source is a tile. -/
def AMode.cycles (m : AMode) (fromTile : Bool) : Nat :=
  match m with
  | .w4a8 => if fromTile then 1 else 2
  | .w8a16 => 2
  | .w4a16 => 4
  | .fp32 => 2
  | .fp64 => 4
  | _ => 1

/-! ## Tile images -/

/-- `ABIND` (R280). -/
def execAbind (t : TileId) (ty : ETy) : State → Out :=
  plain [] fun _ s => .ok (s.setTh { s.th with tileb := word (128 + t.toNat * 16 + ty.code.toNat) })

def execAbindOff : State → Out := plain [] fun _ s => .ok (s.setTh { s.th with tileb := 0 })

/-- XFER set by a transfer (R281). -/
def State.setXfer (s : State) (v : View) (t : TileId) : State :=
  s.setHere { s.here with
    aown := s.here.aown.set t.toFin (s.here.aown[t.toFin] ||| 0x4000000000000000)
    xferBy := s.here.xferBy.set t.toFin v.th.uid }

/-- `ASAVE` and `ALOAD` (R281): one ordinary access that first waits for the rows (R276). A refused page traps with XFER
as the first issue set it. -/
def tileImage (save : Bool) (t : TileId) (ko : KReg × Word) (v : View) (s : State) : Head :=
  match s.checkAccess v ko.1 ko.2 4096 [if save then .write else .read] false 128 with
  | .error e => .trap e
  | .ok a =>
    match s.refusedIn a 4096 with
    | some e => .trap e
    | none =>
      match (if save then none else s.drainMet a 4096) with
      | some (n, c) => .turn ((s.setXfer v t).park (.drain n c))
      | none =>
        .pend ((s.setXfer v t).addReq
          { s.newReq v a 4096 (if save then .asave t [] else .aload t) .none false with stage := .rows }) .access

/-- An instruction that needs supervisor level (R60). -/
def needsSup (v : View) (_ : State) : Option TrapInfo := privTrap v.th .sup

def execAsave (t : TileId) (m : MemI) : State → Out :=
  issue needsSup (fun _ => m.needs) fun v s => tileImage true t (m.at v) v s
def execAsaveIndexed (t : TileId) (m : MemX) : State → Out :=
  issue needsSup (fun _ => m.needs) fun v s => tileImage true t (m.at v) v s
def execAload (t : TileId) (m : MemI) : State → Out :=
  issue needsSup (fun _ => m.needs) fun v s => tileImage false t (m.at v) v s
def execAloadIndexed (t : TileId) (m : MemX) : State → Out :=
  issue needsSup (fun _ => m.needs) fun v s => tileImage false t (m.at v) v s

/-- Is a row empty for another reason than the numbers that `ok` admits? -/
def State.rowEmpty (s : State) (c : CoreId) (t : TileId) (r : Nat) (ok : Nat → Bool) : Bool :=
  match (s.rowCell c t (BitVec.ofNat 5 r)).f with
  | .empty tok => !ok tok
  | _ => false

/-- Rows an instruction writes or reads beside its register fields: the first deferred fault of the thread itself is
delivered, an empty row or another thread's fault parks (R271, R272). -/
def State.rowsReady (s : State) (v : View) (t : TileId) (first count : Nat) (ok : Nat → Bool) (k : State → Head) : Head :=
  let rs := (List.range count).map (first + ·)
  match rs.findSome? fun r =>
      match s.rowRecord v s.cur.core t (BitVec.ofNat 5 r) with | .fault d => some (r, d) | _ => none with
  | some (r, d) =>
    let s := s.setTh { s.th with rowFaults := s.th.rowFaults.filter fun f => !(f.tile == t && f.row.toNat == r) }
    .late (s.setRow s.cur.core t (BitVec.ofNat 5 r) 0) d
  | none =>
    match rs.filter fun r => s.rowEmpty s.cur.core t r ok || s.rowRecord v s.cur.core t (BitVec.ofNat 5 r) == .foreign with
    | [] => k s
    | l => .park (.rows t l)

/-- The records of rows of a tile are dropped, whoever holds them (R282). -/
def Core.dropRecords (x : Core) (t : TileId) (rs : List Nat) : Core :=
  let clear (y : Thread) : Thread :=
    { y with rowFaults := y.rowFaults.filter fun f => !(f.tile == t && rs.contains f.row.toNat) }
  { x with
    slots := x.slots.map fun y => { y with th := clear y.th }
    susp := x.susp.map fun y => { y with th := clear y.th }
    orphans := x.orphans.filter fun o => !(o.tile == t && rs.contains o.row.toNat) }

/-- Does a handler clear a tile for another launch: within the transfer that its thread has begun, or in place of a launch that has
completed (R275)? -/
def State.handsOver (s : State) (v : View) (t : TileId) : Bool :=
  let o := v.aown[t.toFin]
  v.th.level != .user &&
    (if bit o 62 then s.here.xferBy[t.toFin] == v.th.uid
     else bit o 63 && (match s.partOf s.cur.core with | some p => s.launchOver p (BitVec.ofNat 16 (bits o 15 0)) | none => false))

/-- The use of a tile by `AZERO` (R274, R282). In step 3 of a transfer (R275) the tile is still its old owner's, and the ownership check
passes (log entry 100). -/
def State.clearTile (s : State) (v : View) (t : TileId) (k : State → Head) : Head :=
  if s.handsOver v t then k s else s.useTile v t k

/-- `AZERO` (R282). -/
def execAzero (t : TileId) (first : BitVec 5) (count : BitVec 6) : State → Out :=
  plain [] fun v s => s.clearTile v t fun s =>
    let rs := (List.range count.toNat).map (first.toNat + ·)
    let clear (s : State) : Head :=
      match rs.find? fun r => s.heldRow s.cur.core t (BitVec.ofNat 5 r) with
      | some r => .park (.held t (BitVec.ofNat 5 r))
      | none =>
        let s := rs.foldl (fun s r => s.setRow s.cur.core t (BitVec.ofNat 5 r) 0) s
        .ok (s.setHere (s.here.dropRecords t rs))
    if v.th.level = .user then s.rowsReady v t first.toNat count.toNat (fun _ => false) clear
    else match rs.filter fun r => s.rowEmpty s.cur.core t r fun _ => false with
      | [] => clear s
      | l => .park (.rows t l)

/-! ## The array queue -/

def AOp.isMldw : AOp → Bool
  | .mldw .. => true
  | _ => false
def AOp.isMma : AOp → Bool
  | .mma .. => true
  | _ => false
def AOp.isSwap : AOp → Bool
  | .mswap => true
  | _ => false

/-- The array claimed for a thread's launch where it has no owner (R262). -/
def State.claimArray (s : State) (v : View) : State :=
  if bit v.mown 63 = false then s.setHere { s.here with mown := ownWord v.th } else s

/-- The ownership check of the array (R262). -/
def State.useArray (s : State) (v : View) (k : State → Head) : Head :=
  if bit v.mown 63 = false then (k s).also fun s => s.claimArray v
  else if ownedBy v.mown v.th then k s
  else .trap ⟨0x09, 4, v.mown, 0⟩

/-- An entry joins the queue of 4, or the thread parks (R261). -/
def State.enqueue (s : State) (v : View) (op : AOp) (k : State → Head) : Head :=
  if 4 ≤ s.here.arrayq.length then .park .arrayQueue
  else
    let e : AEntry :=
      { tok := s.serial, slot := s.cur.slot, uid := v.th.uid, pc := v.th.pc, op := op, run := none, rows := 0, fail := none,
        refusal := none }
    k ((s.setHere { s.here with arrayq := s.here.arrayq ++ [e] }).bump)

/-- `MCFG` (R283). -/
def execMcfg (a : Src) : State → Out :=
  plain [a.need] fun v s => s.useArray v fun s =>
    let w := v.s a
    let kk := bits w 8 0
    let n := bits w 14 9
    if bits w 63 15 ≠ 0 ∨ kk > 256 ∨ n > 32 then .trap (descTrap 0 0 10)
    else s.enqueue v (.mcfg kk n) .ok

/-- The configuration in force at the end of the queue (R261). -/
def Core.config (x : Core) : Nat × Nat :=
  x.arrayq.foldl (fun c e => match e.op with | .mcfg k n => (k, n) | _ => c) (x.cfgk, x.cfgn)

/-! ### Tracks as sources (R321, R325, R332) -/

def Core.track (x : Core) (t : TrackId) : Track := agetD x.tracks t Track.reset
def Core.setTrack (x : Core) (t : TrackId) (k : Track) : Core := { x with tracks := aset x.tracks t k }

/-- Is a track HELD by a node or the array (R319)? -/
def Track.held (k : Track) : Bool := !k.nodes.isEmpty || decide (0 < k.arrays)

/-- Does the track move, wait to move, or scrub? -/
def Track.busy (k : Track) : Bool := k.move != .idle || k.after != .rest

/-- Is a track empty for a use (R314, R315, R320, R324, R325)? Array uses of a track that the array holds wait in the
array queue instead. -/
def Track.emptyFor (k : Track) (array : Bool) : Bool :=
  !k.nodes.isEmpty || (if array && decide (0 < k.arrays) then false else decide (0 < k.arrays) || k.busy)

/-- `HOWNt` as it reads (R319). -/
def Track.word (k : Track) : Word :=
  Machine.word (k.valid.toNat * 2 ^ 63 + k.xfer.toNat * 2 ^ 62 + k.held.toNat * 2 ^ 61 + k.scrub.toNat * 2 ^ 60 +
    k.lost.toNat * 2 ^ 59 + k.resid.toNat * 2 ^ 58 + k.tag.toNat * 2 ^ 55 + k.pos * 2 ^ 47 + k.tenant.toNat * 2 ^ 32 +
    k.errs.toNat * 2 ^ 16 + k.launch.toNat)

/-- Trap 0x0A (R328). -/
def ownTrap (t : TrackId) (k : Track) (kind : Nat) : TrapInfo :=
  ⟨0x0A, Machine.word (kind * 256 + t.toNat), k.word, 0⟩

/-- Trap 0x0B (R330), where position `p` was expected. -/
def shiftTrapAt (t : TrackId) (k : Track) (p : Nat) (prior recal : Bool) (code : Nat) : TrapInfo :=
  ⟨0x0B, Machine.word (prior.toNat * 2 ^ 29 + recal.toNat * 2 ^ 28 + code % 4096 * 2 ^ 16 + p * 2 ^ 8 + t.toNat), k.word, 0⟩

/-- Trap 0x0B at the head. -/
def shiftTrap (t : TrackId) (k : Track) (prior recal : Bool) (code : Nat) : TrapInfo := shiftTrapAt t k k.pos prior recal code

/-- The owner record, completed launches read as unclaimed (R322). -/
def State.trackOwned (s : State) (c : CoreId) (k : Track) : Bool :=
  k.valid && (match s.partOf c with | some p => !s.launchOver p k.launch | none => false)

/-- The check of a use by a user-level thread (R321): parks, traps, or passes and, where the rest of the instruction takes
effect, sets `HCLAIM` (R8). -/
def State.trackCheck (s : State) (v : View) (t : TrackId) (recal : Bool) (k : State → Head) : Head :=
  let x := s.here.track t
  if v.th.level ≠ .user then k s
  else if x.xfer then .park (.track t true)
  else if s.trackOwned s.cur.core x = false then .trap (ownTrap t x 3)
  else if x.launch ≠ v.th.launch then .trap (ownTrap t x (if x.tenant = v.th.tenant then 0 else 1))
  else if x.lost ∧ recal = false then .trap (shiftTrap t x true false 0xFFF)
  else (k s).also fun s => s.setTh { s.th with hclaim := s.th.hclaim ||| Machine.word (2 ^ t.toNat) }

/-! ### Location words -/

/-- The source that bits [15:0] of a location word name; `none`: reserved bits set (R284). -/
def locOf (src : ASrc) (w : Word) : Option Loc :=
  match src with
  | .tile => if bits w 15 7 ≠ 0 then none else some (.tile (BitVec.ofNat 2 (bits w 1 0)) (bits w 6 2))
  | .track => if bits w 15 6 ≠ 0 then none else some (.track (BitVec.ofNat 6 (bits w 5 0)))
  | .ls => if bits w 15 14 ≠ 0 then none else some (.ls (128 * bits w 13 3))

/-- The uses of the source: its tile (R274), or its track (R321), before the instruction's own checks. A word with reserved bits
set names no source, and nothing is used. -/
def State.useSource (s : State) (v : View) (src : ASrc) (w : Word) (k : State → Head) : Head :=
  match locOf src w with
  | some (.tile t _) => s.useTile v t k
  | some (.track t) => if (s.here.track t).emptyFor true then .park (.track t true) else s.trackCheck v t false k
  | _ => k s

/-- A local-store source of `n` bytes (R284): its byte offset in the core's own store. -/
def State.lsSource (s : State) (v : View) (w : Word) (n : Nat) : Except TrapInfo Nat :=
  let key : KReg := BitVec.ofNat 3 (bits w 2 0)
  let off := word (128 * bits w 13 3)
  match s.checkKey v key off n [.read] with
  | .error t => .error t
  | .ok a =>
    if a.dev ∨ a.place ≠ s.placeOf s.cur.core then .error (kinfo 11 (some key) 0 off) else .ok a.offset

/-- The source's last checks, and the hold on a track: trap 0x0C on another layout (R332). -/
def State.takeSource (s : State) (v : View) (src : ASrc) (w : Word) (bytes : Nat) (id : TensorId) (d : Desc)
    (k : Loc → State → Head) : Head :=
  match src with
  | .tile => k (.tile (BitVec.ofNat 2 (bits w 1 0)) (bits w 6 2)) s
  | .ls =>
    match s.lsSource v w bytes with
    | .error t => .trap t
    | .ok off => k (.ls off) s
  | .track =>
    let t : TrackId := BitVec.ofNat 6 (bits w 5 0)
    let x := s.here.track t
    if x.tag.toNat ≠ d.swizzle then
      .trap ⟨0x0C, word (id.toNat * 2 ^ 16 + d.swizzle * 2 ^ 12 + x.tag.toNat * 256 + t.toNat), 0, 0⟩
    else k (.track t) s

/-- An array instruction holds its track source until it has read its last row (R325). -/
def State.holdLoc (s : State) (l : Loc) : State :=
  match l with
  | .track t => s.setHere (s.here.setTrack t { s.here.track t with arrays := (s.here.track t).arrays + 1 })
  | _ => s

/-- `MLDW` (R285). -/
def execMldw (tr : Bool) (src : ASrc) (t : TensorId) (x : SReg) : State → Out :=
  plain [sN x] fun v s =>
    let w := v.sd x
    let use (k : State → Head) : Head := if bits w 31 16 = 0 then s.useSource v src w k else k s
    use fun s => s.useArray v fun s =>
      match s.descOf v t with
      | none => .trap (descTrap t 0 6)
      | some d =>
        let (kk, n) := s.here.config
        match weightLimits d with
        | none => .trap (descTrap t 0 10)
        | some (km, nm) =>
          if kk > km ∨ n > nm ∨ (d.kind = 1 ∧ kk % d.group ≠ 0) then .trap (descTrap t 0 10)
          else
            let rows := ceilDiv (kk * n * d.width) 1024
            let past : Bool := match locOf src w with
              | some (.tile _ r) => decide (r + rows > 32)
              | some _ => false
              | none => true
            if bits w 31 16 ≠ 0 ∨ past then .trap (descTrap t 0 9)
            else s.takeSource v src w (128 * rows) t d fun loc s =>
              s.enqueue v (.mldw tr kk n (bits w 63 32) loc t d) fun s => .ok (s.holdLoc loc)

/-- `MSWAP` (R286): enqueues, and waits until the swap has been made. -/
def execMswap : State → Out :=
  plain [] fun v s => s.useArray v fun s =>
    let tok := s.serial
    s.enqueue v .mswap fun s => .pend (s.claimArray v) (.swap tok)

/-- The stationary plane as the queued entries will leave it: state, weight entry, K and N (R287). -/
def Core.planeAhead (x : Core) : PlaneSt × Option Desc × Nat × Nat :=
  let a : PlaneSt × Option Desc × Nat × Nat := (x.stat.st, x.stat.desc, x.stat.k, x.stat.n)
  let b : PlaneSt × Option Desc × Nat × Nat :=
    if x.shad.st = .loading then (.loaded, x.shad.desc, x.shad.k, x.shad.n) else (x.shad.st, x.shad.desc, x.shad.k, x.shad.n)
  (x.arrayq.foldl (fun (p : (PlaneSt × Option Desc × Nat × Nat) × (PlaneSt × Option Desc × Nat × Nat)) e =>
    match e.op with
    | .mldw _ k n _ _ _ d => (p.1, (.loaded, some d, k, n))
    | .mswap => (p.2, p.1)
    | _ => p) (a, b)).1

/-- Is a number that of a queued `MMA`? -/
def Core.isMma (x : Core) (tok : Nat) : Bool :=
  x.arrayq.any fun e => e.tok == tok && (match e.op with | .mma .. => true | _ => false)

/-- `MMA` (R287). It does not wait for destination rows that are empty (R271); what another unit still owes them comes first. -/
def execMma (ow : Bool) (src : ASrc) (d : TileId) (t : TensorId) (x : SReg) : State → Out :=
  plain [sN x] fun v s =>
    let w := v.sd x
    let drow := bits w 20 16
    let m := bits w 26 21
    s.useTile v d fun s => s.useSource v src w fun s => s.useArray v fun s =>
      match s.descOf v t with
      | none => .trap (descTrap t 0 6)
      | some a =>
        let (st, wd, _, pn) := s.here.planeAhead
        if st = .unloaded then .trap (descTrap t 0 12)
        else match (match wd with | some w => arrayMode w a | none => none) with
          | none => .trap (descTrap t 0 11)
          | some mode =>
            let rows := mode.r * m
            let bad : Bool := match locOf src w with
              | none => true
              | some (.tile st r) =>
                decide (r + rows > 32) || (st == d && decide (r < drow + m) && decide (drow < r + rows))
              | some _ => false
            if bits w 31 27 ≠ 0 ∨ m > 32 ∨ drow + m > 32 ∨ bad then .trap (descTrap t 0 9)
            else s.takeSource v src w (128 * rows) t a fun loc s =>
              if 4 ≤ s.here.arrayq.length then .park .arrayQueue
              else
                let writes := decide (0 < m) && decide (0 < pn)
                s.rowsReady v d drow (if writes then m else 0) (fun _ => true) fun s =>
                  match (List.range (if writes then m else 0)).find? fun i => s.heldRow s.cur.core d (BitVec.ofNat 5 (drow + i)) with
                  | some i => .park (.held d (BitVec.ofNat 5 (drow + i)))
                  | none =>
                    let tok := s.serial
                    s.enqueue v (.mma ow loc d drow m (bits w 63 32) t a (fsrMode v.th.fsr)) fun s =>
                      let s := s.holdLoc loc
                      .ok (if writes then
                        (List.range m).foldl (fun s i => s.emptyRow s.cur.core d (BitVec.ofNat 5 (drow + i)) tok) s
                      else s)

/-! ## Special functions and dequantisation at issue -/

/-- `VSFU` (R297): D empty, the operand captured, the entry queued (R278). -/
def special (f : SfuF) (d : VReg) (a : Src) (m : VMods) : State → Out :=
  plain [vN d, a.vneed] fun v =>
    withType m.ovr (chkPlain ETy.isFloat m) (fun t ty s =>
      if 8 ≤ s.here.sfuq.length + s.here.sfuSusp.length then .park .sfuQueue
      else if s.heldRow s.cur.core t d then .park (.held t d)
      else
        let tok := s.serial
        let e : SfuEntry :=
          ⟨tok, s.cur.slot, v.th.uid, f, ty, t, d, v.row t a.reg, fsrMode v.th.fsr, fsrOsat v.th.fsr⟩
        .ok (((s.emptyRow s.cur.core t d tok).setHere
          { (s.emptyRow s.cur.core t d tok).here with sfuq := s.here.sfuq ++ [e] }).bump)) v

def execVsfu (f : SfuF) (d : VReg) (a : Src) : State → Out := special f d a VMods.none
def execVsfuTv2 (f : SfuF) (d : VReg) (a : Src) (m : ModsQ) : State → Out := special f d a m.v

/-- Trap 0x0E (R252) for an index past the local extent: tensor id, dimension, REMOTE where it lies below the `shape`, so that
another part holds it, and the index. -/
def indexTrap (id : TensorId) (dim shape x : Nat) : TrapInfo :=
  ⟨0x0E, word ((decide (x < shape)).toNat * 1024 + dim * 256 + id.toNat), word x, 0⟩

/-- `VDQ` (R298). -/
def execVdq (d : VReg) (t : TensorId) (x : SReg) : State → Out :=
  plain [vN d, sN x] fun v s => s.boundTile v fun tile s =>
    match s.descOf v t with
    | none => .trap (descTrap t 0 6)
    | some e =>
      let ty := v.th.ety
      let w := v.sd x
      let x0 := bits w 47 32
      let x1 := bits w 63 48
      let p := bits w 7 5
      let l := etyLanes ty
      if ¬ (ty = .bf16 ∨ ty = .f16 ∨ ty = .f32) ∨ e.kind ≠ 1 then .trap (descTrap t 0 11)
      else if x0 + p * l + l > e.extent 0 then
        .trap (indexTrap t 0 (e.shape 0) (max (x0 + p * l) (e.extent 0)))
      else if x1 ≥ e.extent 1 then .trap (indexTrap t 1 (e.shape 1) x1)
      else if bits w 31 8 ≠ 0 ∨ p ≥ 1024 / e.width / l then .trap (descTrap t 0 9)
      else
        let src : VReg := BitVec.ofNat 5 (bits w 4 0)
        s.rowsReady v tile src.toNat 1 (fun _ => false) fun s =>
          if s.heldRow s.cur.core tile d then .park (.held tile d)
          else
            let tok := s.serial
            let q : VdqEntry := ⟨tok, s.cur.slot, v.th.uid, v.th.pc, ty, tile, d, v.row tile src, p, x0, x1, e, none⟩
            let s1 := s.emptyRow s.cur.core tile d tok
            .ok ((s1.setHere { s1.here with vdqs := s1.here.vdqs ++ [q] }).bump)

end Sys2Proof.Machine
end

