-- ==== Sys2Proof/Machine/ArrayMath.lean ====
section
/-! DEFINITION. The arithmetic of the matrix array: one fused sum per element, and the FP64 chain (R265, R266). -/
namespace Sys2Proof.Machine

/-- The NaN of the array (R265). -/
def arrayNaN : Nat := 0x7FC00000

/-- A term of a fused sum with the exceptions that forming it raises. -/
structure Term where
  v  : FV
  fl : Flags
  deriving DecidableEq, Repr

def Term.bad : Term := ⟨.nan false 0 true, flNV⟩

/-- A NaN operand as a term: NV only when it is signalling. -/
def Term.ofNaN (v : FV) : Term := ⟨.nan false 0 true, if v.isSNaN then flNV else 0⟩

/-- The exact product of two values. -/
def prodTerm (a b : FV) : Term :=
  if a.isNaN ∨ b.isNaN then ⟨.nan false 0 true, if a.isSNaN ∨ b.isSNaN then flNV else 0⟩
  else match a, b with
    | .fin s m e, .fin t n d => ⟨.fin (s != t) (m * n) (e + d), 0⟩
    | .fin s m _, .inf t => if m = 0 then Term.bad else ⟨.inf (s != t), 0⟩
    | .inf s, .fin t m _ => if m = 0 then Term.bad else ⟨.inf (s != t), 0⟩
    | .inf s, .inf t => ⟨.inf (s != t), 0⟩
    | _, _ => Term.bad

/-- A scale times an exact integer (W8A8, W4A8). -/
def scaleInt (sw sa : FV) (n : Int) : Term :=
  match sw, sa with
  | .fin s m e, .fin t k d => ⟨.fin ((s != t) != decide (n < 0)) (m * k * n.natAbs) (e + d), 0⟩
  | _, _ => Term.bad

/-- A scale times Σ a(i, k) · u(k) with exact inner sum (W8A16, W4A16). -/
def scaleSum (sw : FV) (l : List (FV × Int)) : Term :=
  match sw with
  | .fin s m e =>
    let infs := l.filter fun p => match p.1 with | .inf _ => true | _ => false
    let sg (p : FV × Int) : Bool := p.1.sign != decide (p.2 < 0)
    let bad := infs ≠ [] ∧ (m = 0 ∨ infs.any (fun p => p.2 == 0) ∨ (infs.any sg ∧ infs.any fun p => !sg p))
    if l.any fun p => p.1.isNaN then ⟨.nan false 0 true, if l.any (fun p => p.1.isSNaN) ∨ bad then flNV else 0⟩
    else if bad then Term.bad
    else if infs ≠ [] then ⟨.inf ((infs.any sg) != s), 0⟩
    else
      let x := l.foldl (fun lo p => match p.1 with | .fin _ _ k => min lo k | _ => lo) (0 : Int)
      let n : Int := l.foldl (fun acc p => match p.1 with
        | .fin t k d => acc + sgnInt t k * p.2 * 2 ^ (d - x).toNat
        | _ => acc) 0
      ⟨.fin (s != decide (n < 0)) (m * n.natAbs) (e + x), 0⟩
  | _ => Term.bad

/-- ⌊log2 |t|⌋ of a finite term, if it is not zero. -/
def termExp (t : Term) : Option Int :=
  match t.v with
  | .fin _ m e => if m = 0 then none else some (e + bitLen m - 1)
  | _ => none

/-- The fused sum of R265. -/
def fusedSum (l : List Term) : FRes :=
  let fl := l.foldl (fun a t => a ||| t.fl) 0
  let infs := l.filter fun t => match t.v with | .inf _ => true | _ => false
  let both := infs.any (fun t => t.v.sign) ∧ infs.any (fun t => !t.v.sign)
  if l.any fun t => t.v.isNaN then ⟨arrayNaN, if both then fl ||| flNV else fl⟩
  else if infs ≠ [] then
    if both then ⟨arrayNaN, fl ||| flNV⟩
    else ⟨fmtS.signBit (infs.any fun t => t.v.sign) + fmtS.infBits, fl⟩
  else
    match (l.filterMap termExp).max? with
    | none => ⟨if l ≠ [] ∧ l.all (fun t => t.v.sign) then fmtS.signBit true else 0, fl⟩
    | some e =>
      let q := e - 40
      let (n, lost) := l.foldl (fun (acc : Int × Bool) t =>
        match t.v with
        | .fin s m x => let (k, r, _) := scaleTo m x q; (acc.1 + sgnInt s k, acc.2 || r != 0)
        | _ => acc) (0, false)
      let r := roundFin fmtS ⟨.rne, true, false⟩ (decide (n < 0)) n.natAbs q
      ⟨r.val, fl ||| r.fl ||| (if lost then flNX else 0)⟩

/-- The FP64 chain of R266. -/
def fp64Chain (rm : RMode) (prior : Nat) (l : List (Nat × Nat)) : FRes :=
  l.foldl (fun acc p =>
    let r := fFma fmtD ⟨rm, true, false⟩ .pp p.1 p.2 acc.val
    ⟨r.val, acc.fl ||| r.fl⟩) ⟨prior, 0⟩

end Sys2Proof.Machine
end

