-- ==== Sys2Proof/Machine/TrackOps.lean ====
section
/-! DEFINITION. Heads, motion, charging and position codes of the shift tracks (R314 to R318, R330). -/
namespace Sys2Proof.Machine

/-- The row at a position. -/
def Track.row (k : Track) (p : Nat) : Row := (look k.rows p).getD 0
/-- Write a row, poison cleared. -/
def Track.setRow (k : Track) (p : Nat) (r : Row) : Track :=
  { k with rows := put k.rows p (if r = 0 then none else some r), bad := mark k.bad p false }

/-- What the position code at the head says (R330): the position itself unless an error has changed it. -/
def Track.code (k : Track) : Option Nat :=
  match look k.codes k.pos with
  | none => some k.pos
  | some none => none
  | some (some c) => some c.toNat

/-- The outcome of comparing the code with the expected position. -/
inductive Probe3
  | exact
  | realign (n : Nat)
  | error (code : Nat)
  deriving DecidableEq, Repr, Inhabited

def Track.probe (k : Track) : Probe3 :=
  match k.code with
  | none => .error 0xFFF
  | some c =>
    let d := ((c : Int) - k.pos).natAbs
    if d = 0 then .exact else if d ≤ 3 then .realign d else .error c

/-- The head realigned: ERRCNT up by 1, saturating (R319, R330). The code then reads right. -/
def Track.realigned (k : Track) : Track :=
  { k with codes := put k.codes k.pos none, errs := if k.errs = 0xFFFF then k.errs else k.errs + 1 }

/-- The head before an access: realigned where its code asks for it, with the positions of the realignment; an error
beyond ±3 with the code read (R330). -/
def Track.align (k : Track) : Except Nat (Track × Nat) :=
  match k.probe with
  | .exact => .ok (k, 0)
  | .realign n => .ok (k.realigned, n)
  | .error code => .error code

/-- A step of `n` positions, clamped (R316): the track and the positions moved. -/
def Track.step (k : Track) (n : Int) : Track × Nat :=
  let t := (k.pos : Int) + n
  let q := (max 0 (min t 255)).toNat
  ({ k with pos := q, edge := k.edge || decide (t < 0) || decide (t > 255) }, (q - (k.pos : Int)).natAbs)

/-- Positions a recalibration scans before it reads code 0; `none`: it does not read it. The head of a track whose code reads other
than POS stands at the position that the code names (R330), and the scan goes down from there. -/
def Track.scan (k : Track) : Option Nat :=
  if k.code = some 0 then some 0
  else
    let start := k.code.getD k.pos
    (List.range (start + 1)).find? fun n => n ≠ 0 && ({ k with pos := start - n } : Track).code == some 0

/-- The track after a successful scan: position codes read right again but where their ECC is uncorrectable. -/
def Track.recalibrated (k : Track) : Track :=
  { k with lost := false, codes := k.codes.filter fun p => p.2.isNone }

/-- Cycles of a move of `n` positions (R314). -/
def shiftCycles (n : Nat) : Nat := (n + 1) / 2

namespace State

/-- `Charge` (R317, R318). -/
def charge (s : State) (uid : Nat) (n : Nat) : State :=
  if n = 0 then s else s.mapUid uid fun t => { t with shcnt := t.shcnt + word n }

/-- Moves of a core that run (R315). -/
def moving (s : State) (c : CoreId) : Nat :=
  ((s.core c).tracks.filter fun p => match p.2.move with | .moving _ => p.2.after != .zeroing | _ => false).length

/-- A move of `n` cycles of motion begins: at once, or from the shift queue when 16 moves run (R314, R315). -/
def startMove (s : State) (c : CoreId) (t : TrackId) (n : Nat) : State :=
  if n = 0 then s
  else
    let x := s.core c
    let k := x.track t
    if s.moving c < 16 ∧ x.shiftq = [] then s.setCore c (x.setTrack t { k with move := .moving (x.cycle + n) })
    else s.setCore c { x.setTrack t { k with move := .queued n } with shiftq := x.shiftq ++ [t] }

/-- Further motion of a head that a node moves (R314): it follows what is under way. -/
def addMove (s : State) (c : CoreId) (t : TrackId) (n : Nat) : State :=
  let x := s.core c
  let k := x.track t
  match k.move with
  | .idle => s.startMove c t n
  | .queued m => s.setCore c (x.setTrack t { k with move := .queued (m + n) })
  | .moving u => s.setCore c (x.setTrack t { k with move := .moving (max u x.cycle + n) })

/-- A row at the head of a track with the realignment that its code asks for: what an access by the array or an
instruction finds (R330). `none`: an error beyond ±3 with the code read. -/
def alignHead (s : State) (c : CoreId) (t : TrackId) (uid : Nat) : Except Nat (State × Nat) :=
  match ((s.core c).track t).align with
  | .ok (k, n) => .ok ((s.setCore c ((s.core c).setTrack t k)).charge uid n, n)
  | .error code => .error code

/-- LOST is set (R330). -/
def setLost (s : State) (c : CoreId) (t : TrackId) : State :=
  s.setCore c ((s.core c).setTrack t { (s.core c).track t with lost := true })

end State

end Sys2Proof.Machine
end

