-- ==== Sys2Proof/Machine/EvArray.lean ====
section
/-! DEFINITION. Execution of the array queue, the special-function unit and dequantisation (R261, R263 to R267, R272, R278,
R285 to R287, R297, R298, R325, R331, R333). -/
namespace Sys2Proof.Machine

/-! ## Reads through the key of a descriptor -/

/-- What such a read finds. -/
inductive KeyRead
  | ok (n : Nat)
  /-- a page that the pager is to supply -/
  | page (va : Nat)
  /-- the drain of a node that the core has acquired (R208) -/
  | wait
  /-- cause, information, further information -/
  | bad (cause : Nat) (info info2 : Word)
  deriving DecidableEq, Repr, Inhabited

namespace State

/-- Read `n` bytes inside one word through a key, for core `c` (R168, R171, R180, R255); `refused`: what the pager
answered for the access. What stands at another part is free, as is a refusal there (R427). -/
def keyRead (s : State) (c : CoreId) (k : KCell) (off n : Nat) (refused : Option PageRefusal) : KeyRead :=
  let trap (i : TrapInfo) : KeyRead := .bad i.cause i.info i.info2
  let a := if k.kind = 1 then bits k.w0 30 0 + off else k.base + off
  if k.has .read = false then trap (kinfo 2 none 0 (word off))
  else if off + n > k.len then trap (kinfo 3 none 0 (word off))
  else if ((s.at_ c 0).drainMet ⟨k.kind != 1, a, k.tenant, 0, 0⟩ n).isSome then .wait
  else if k.kind = 1 then
    match s.placeCore c (a / 2 ^ 18) with
    | none => trap (kinfo 3 none 0 (word a))
    | some h =>
      let o := a % 2 ^ 18
      if s.badAt (.ls h) (o / 8) then .bad 0x14 1 (word a) else .ok (s.rdN (.ls h) o n)
  else
    let va := k.base + off
    let fine := s.fineOf c k.tenant va
    if (s.fabricWin k.tenant va).isSome then
      match Config.pick (s.farIdx va) % 4 with
      | 0 => trap (kinfo 5 none 0 (word va))
      | 1 => .bad 0x17 (word k.tenant.toNat) (word va)
      | _ => .ok ((Config.freeWord (s.farIdx va)).toNat % 2 ^ (8 * n))
    else match s.translate k.tenant fine (bit (s.core c).world 0) va false false with
    | .ok l =>
      match s.keyOf k.tenant with
      | none => trap (kinfo 5 none 0 (word va))
      | some ks => if s.badAt (.dev ks) (l.pa / 8) then .bad 0x14 0 (word va) else .ok (s.rdN (.dev ks) l.pa n)
    | .frame => trap (kinfo 6 none 0 (word va))
    | .secure => trap (kinfo 4 none 0 (word va))
    | .mig => .page va
    | .fault =>
      match refused with
      | some .quota => .bad 0x17 (word k.tenant.toNat) (word va)
      | some .refused => trap (kinfo 5 none 0 (word va))
      | none => .page va

/-- Scale and zero point of group g (R255), each read through the entry's key. -/
def groupRead (s : State) (c : CoreId) (d : Desc) (refused : Option PageRefusal) (g : Nat) : KeyRead × KeyRead :=
  let z := d.zeroBit g
  (s.keyRead c d.key (d.scaleAt g) 2 refused,
   match s.keyRead c d.key (z / 8) 1 refused with
   | .ok b => .ok (b / 2 ^ (z % 8) % 2 ^ d.width)
   | x => x)

/-- The groups of a list, in order, or the first read that fails. -/
def groupReads (s : State) (c : CoreId) (d : Desc) (refused : Option PageRefusal) : List Nat →
    Except KeyRead (List (Nat × Nat))
  | [] => .ok []
  | g :: r =>
    match s.groupRead c d refused g with
    | (.ok a, .ok z) =>
      match s.groupReads c d refused r with
      | .ok l => .ok ((a, z) :: l)
      | .error e => .error e
    | (.ok _, e) => .error e
    | (e, _) => .error e

/-- Is a waiter on some page-request queue already? -/
def waitsPage (s : State) (d : BitVec 3) (w : PageWaiter) : Bool :=
  ((s.die d).pageq ++ (s.die d).held).any fun r => r.waiters.contains w

/-- A scale read of core `c` waits for its page (R175). -/
def scaleFault (s : State) (c : CoreId) (d : Desc) (va tok : Nat) : State :=
  s.pageFault (dieOf c) ⟨d.key.tenant, s.fineOf c d.key.tenant va, va, false, false, [.scale c tok]⟩

/-! ## Rows -/

/-- Has a thread not retired yet? -/
def lives (s : State) (uid : Nat) : Bool :=
  (s.cores.any fun p => (p.2.slots.toList.any fun x => x.st != .free && x.st != .disabled && x.th.uid == uid) ||
    (p.2.landing.any fun l => match l with | .waits t => t.uid == uid | _ => false) ||
    p.2.susp.any fun r => r.th.uid == uid) || s.packets.any fun p => p.th.uid == uid

/-- A row-fault record for a thread (R272), kept with the row for the tile's owner once the thread has retired. -/
def addRowFault (s : State) (c : CoreId) (uid : Nat) (f : RowFault) : State :=
  if s.lives uid then s.mapUid uid fun t => { t with rowFaults := t.rowFaults ++ [f] }
  else
    let x := s.core c
    let o := x.aown[f.tile.toFin]
    if bit o 63 then
      s.setCore c { x with orphans := x.orphans ++ [⟨BitVec.ofNat 16 (bits o 15 0), BitVec.ofNat 9 (bits o 40 32), f.tile, f.row⟩] }
    else s

/-- A result reaches its row: the row is written, and full when it awaits this result (R271, R287). -/
def fillRow (s : State) (c : CoreId) (t : TileId) (r : VReg) (tok : Nat) (x : Row) : State :=
  let f := (s.rowCell c t r).f
  s.setRowCell c t r ⟨x, if f = .empty tok then .full else f⟩

/-- A row whose result failed (R272): its record, and no longer awaited. -/
def failRow (s : State) (c : CoreId) (t : TileId) (r : VReg) (tok : Nat) (d : Deferred) : State :=
  (s.fillRow c t r tok (s.rowCell c t r).v).addRowFault c d.uid ⟨t, r, d⟩

/-! ## Sources of the array -/

/-- Entries of the queue before the one with a number. -/
def before (q : List AEntry) (tok : Nat) : List AEntry := q.takeWhile fun e => e.tok ≠ tok

/-- Will an entry write a row? -/
def writesRow (e : AEntry) (t : TileId) (r : Nat) : Bool :=
  match e.op with
  | .mma _ _ d drow m _ _ _ _ => d == t && decide (drow + e.rows ≤ r) && decide (r < drow + m)
  | _ => false

/-- Is a result of another unit older than a number still due at a row (R271)? -/
def rowOwed (s : State) (c : CoreId) (t : TileId) (r : VReg) (tok : Nat) : Bool :=
  let x := s.core c
  let sfu (e : SfuEntry) : Bool := e.tile == t && e.row == r && decide (e.tok < tok)
  x.sfuq.any sfu || x.sfuSusp.any sfu || (x.sfuRun.any fun p => sfu p.2) ||
    (x.vdqs.any fun e => e.tile == t && e.row == r && decide (e.tok < tok)) ||
    s.reqs.any fun q => q.core == c && q.row == some (t, r) && decide (q.id < tok)

/-- May the entry read row `i` of its source? A row of a tile must be full, without a record (R271, R272); one that only a later
`MMA` is to write holds its old bytes (R284). A track waits for its head, and for the entries ahead that name it (R314, R325); the
local store for the drain of an acquired node (R208). -/
def sourceReady (s : State) (c : CoreId) (e : AEntry) (loc : Loc) (i : Nat) : Bool :=
  let x := s.core c
  let ahead := before x.arrayq e.tok
  match loc with
  | .tile t r =>
    let k := r + i
    let v : VReg := BitVec.ofNat 5 k
    !(ahead.any fun a => writesRow a t k) && !x.recorded x.aown[t.toFin] none t v &&
      (match (s.rowCell c t v).f with
       | .empty tok => decide (e.tok < tok) && x.isMma tok && !s.rowOwed c t v e.tok
       | _ => true)
  | .track t =>
    (x.track t).move == .idle &&
    !(ahead.any fun a => match a.op with
      | .mldw _ _ _ _ (.track u) _ _ => u == t
      | .mma _ (.track u) _ _ _ _ _ _ _ => u == t
      | _ => false)
  | .ls off => ((s.at_ c 0).drainMet ⟨false, s.placeOf c * 2 ^ 18 + off + 128 * i, 0, 0, 0⟩ 128).isNone

/-- What a row read by the array yields: the row and the cycles of a realignment before it, or the cause and information of a fault. -/
abbrev RowRead := Except (Nat × Word × Word) (Row × Nat)

/-- One row of a track at its head, with the step of +1 (R314, R325, R330, R333): charged to the issuing thread. -/
def trackRead (s : State) (c : CoreId) (t : TrackId) (uid : Nat) : State × RowRead :=
  match s.alignHead c t uid with
  | .error code =>
    let i := shiftTrap t ((s.core c).track t) false false code
    (s.setLost c t, .error (i.cause, i.info, i.info2))
  | .ok (s, a) =>
    let k := (s.core c).track t
    if k.bad.contains k.pos then (s.startMove c t (shiftCycles a), .error (0x14, 2, word (t.toNat * 256 + k.pos)))
    else
      let (k', n) := k.step 1
      ((((s.setCore c ((s.core c).setTrack t k')).charge uid n).startMove c t (shiftCycles a + shiftCycles n)),
        .ok (k.row k.pos, shiftCycles a))

/-- One source row, the `i`-th: a track is read at its head. -/
def sourceRow (s : State) (c : CoreId) (uid : Nat) (loc : Loc) (i : Nat) : State × RowRead :=
  match loc with
  | .tile t r => (s, .ok ((s.rowCell c t (BitVec.ofNat 5 (r + i))).v, 0))
  | .track t => s.trackRead c t uid
  | .ls off =>
    let w := (off + 128 * i) / 8
    match (List.range 16).find? fun j => s.badAt (.ls c) (w + j) with
    | some j => (s, .error (0x14, 1, word (s.placeOf c * 2 ^ 18 + 8 * (w + j))))
    | none => (s, .ok (rowOfWords ((List.range 16).map fun j => s.rdW (.ls c) (w + j)), 0))

/-- An array instruction lets go of its track (R325). -/
def releaseLoc (s : State) (c : CoreId) (loc : Loc) : State :=
  match loc with
  | .track t => s.setCore c ((s.core c).setTrack t { (s.core c).track t with arrays := ((s.core c).track t).arrays - 1 })
  | _ => s

/-! ## The queue -/

def setEntry (s : State) (c : CoreId) (e : AEntry) : State :=
  s.setCore c { s.core c with arrayq := (s.core c).arrayq.map fun a => if a.tok = e.tok then e else a }

def dropEntry (s : State) (c : CoreId) (tok : Nat) : State :=
  s.setCore c { s.core c with arrayq := (s.core c).arrayq.filter fun a => a.tok ≠ tok }

end State

/-- The first entry of a kind, with the entries before it. -/
def firstOf (q : List AEntry) (p : AOp → Bool) : Option (List AEntry × AEntry) :=
  match q.find? fun e => p e.op with
  | some e => some (State.before q e.tok, e)
  | none => none

/-- `MCFG_RETIRE` (R261): the first `MCFG`, once every earlier entry has started. -/
def execMcfgRetire (c : CoreId) (s : State) : Out :=
  .next <|
    match firstOf (s.core c).arrayq fun o => match o with | .mcfg .. => true | _ => false with
    | none => s
    | some (ahead, e) =>
      if ahead.any fun a => a.run.isNone then s
      else match e.op with
        | .mcfg k n => (s.dropEntry c e.tok).setCore c { (s.dropEntry c e.tok).core c with cfgk := k, cfgn := n }
        | _ => s

/-- Elements of w bits in a number. -/
def elems (w x n : Nat) : List Nat := (List.range n).map fun i => x / 2 ^ (w * i) % 2 ^ w

/-- Rows as one number, the first row lowest. -/
def rowsNat (l : List Row) : Nat := l.foldr (fun r a => r.toNat + 2 ^ 1024 * a) 0

/-- `MLDW_START` (R261, R264, R285): the shadow plane is LOADING; the source rows follow, one per cycle. -/
def execMldwStart (c : CoreId) (s : State) : Out :=
  .next <|
    match firstOf (s.core c).arrayq AOp.isMldw with
    | none => s
    | some (ahead, e) =>
      match e.op with
      | .mldw tr k n _ loc id d =>
        let rows := ceilDiv (k * n * d.width) 1024
        let x := s.core c
        if e.run.isSome ∨ ahead.any (fun a => a.op.isSwap) then s
        else
          let s := (s.setCore c { x with shad := ⟨.loading, k, n, id, some d, tr, [], [], []⟩ }).setEntry c
            { e with run := some x.cycle, rows := rows, next := x.cycle }
          if rows = 0 then s.releaseLoc c loc else s
      | _ => s

/-- The running load reads its next source row (R264, R325); a fault ends its reading. -/
def State.loadRow (s : State) (c : CoreId) : State :=
  match firstOf (s.core c).arrayq AOp.isMldw with
  | none => s
  | some (_, e) =>
    match e.op, e.run with
    | .mldw _ _ _ _ loc _ _, some _ =>
      let x := s.core c
      if e.rows ≤ e.taken ∨ e.fail.isSome ∨ x.cycle < e.next ∨ s.sourceReady c e loc e.taken = false then s
      else match s.sourceRow c e.uid loc e.taken with
        | (s, .error f) => (s.setEntry c { e with fail := some f }).releaseLoc c loc
        | (s, .ok (r, a)) =>
          let s := s.setEntry c { e with taken := e.taken + 1, got := e.got ++ [r], next := x.cycle + a + 1 }
          if e.taken + 1 = e.rows then s.releaseLoc c loc else s
    | _, _ => s

/-- The weights of a plane from its source rows (R264). -/
def planeWeights (d : Desc) (tr : Bool) (k n : Nat) (l : List Row) : List Nat :=
  let el := elems d.width (rowsNat l) (k * n)
  if tr then (List.range (k * n)).map fun i => el.getD (i % k * n + i / k) 0 else el

/-- The groups of a load: group j of column n (R285). -/
def mldwGroups (d : Desc) (k n g0 : Nat) : List Nat :=
  if d.kind = 1 then
    (List.range n).flatMap fun x => (List.range (k / d.group)).map fun j => g0 + j + d.extent 0 / d.group * x
  else []

/-- `MLDW_COMPLETE` (R264, R285): after the rows, the scales and zero points; a failure leaves the plane UNLOADED and is reported at the
next `MSWAP`. -/
def execMldwComplete (c : CoreId) (s : State) : Out :=
  .next <|
    match firstOf (s.core c).arrayq AOp.isMldw with
    | none => s
    | some (_, e) =>
      match e.op, e.run with
      | .mldw tr k n g0 _ _ d, some _ =>
        let x := s.core c
        let failed (f : Nat × Word × Word) : State :=
          (s.dropEntry c e.tok).setCore c { (s.dropEntry c e.tok).core c with
            shad := Plane.reset, failed := some (x.failed.getD f) }
        match e.fail with
        | some f => failed f
        | none =>
          if e.taken < e.rows ∨ x.cycle < e.next ∨ s.waitsPage (dieOf c) (.scale c e.tok) then s
          else match s.groupReads c d e.refusal (mldwGroups d k n g0) with
            | .error (.page va) => s.scaleFault c d va e.tok
            | .error (.bad a b f) => failed (a, b, f)
            | .error _ => s
            | .ok l =>
              (s.dropEntry c e.tok).setCore c { (s.dropEntry c e.tok).core c with
                shad := { x.shad with st := .loaded, w := planeWeights d tr k n e.got, sc := l.map (·.1), zp := l.map (·.2) } }
      | _, _ => s

/-- The mode of an `MMA` on the plane present (R263, R287). -/
def planeMode (p : Plane) (a : Desc) : Option AMode :=
  match p.st, p.desc with
  | .loaded, some w => arrayMode w a
  | _, _ => none

/-- Rows `first` to `last − 1` of an entry's destination fail, and the entry retires; `holds`: its source is not read to the end. -/
def State.failRows (s : State) (c : CoreId) (e : AEntry) (loc : Loc) (holds : Bool) (tile : TileId) (first last : Nat)
    (f : Nat × Word × Word) : State :=
  let s := (List.range (last - first)).foldl (fun s i =>
    s.failRow c tile (BitVec.ofNat 5 (first + i)) e.tok ⟨e.uid, e.pc, f.1, 0, f.2.1, 0⟩) s
  (if holds then s.releaseLoc c loc else s).dropEntry c e.tok

/-- `MMA_START` (R261, R287): the first `MMA`, with no swap before it. On a plane that is not loaded or forms no mode every
destination row gets a row-fault record; an entry that writes nothing retires at once, and rows marked for it are full again. -/
def execMmaStart (c : CoreId) (s : State) : Out :=
  .next <|
    match firstOf (s.core c).arrayq AOp.isMma with
    | none => s
    | some (ahead, e) =>
      match e.op with
      | .mma _ loc tile drow m _ id d _ =>
        let x := s.core c
        if e.run.isSome ∨ ahead.any (fun a => a.op.isSwap) then s
        else if x.stat.st ≠ .loaded then
          s.failRows c e loc true tile drow (drow + m) (0x0D, (descTrap id 0 12).info, 0)
        else if x.stat.n = 0 then
          let s := (List.range m).foldl (fun s i =>
            let r : VReg := BitVec.ofNat 5 (drow + i)
            s.fillRow c tile r e.tok (s.rowCell c tile r).v) s
          (s.releaseLoc c loc).dropEntry c e.tok
        else match planeMode x.stat d with
          | none => s.failRows c e loc true tile drow (drow + m) (0x0D, (descTrap id 0 11).info, 0)
          | some _ =>
            if m = 0 then (s.releaseLoc c loc).dropEntry c e.tok
            else s.setEntry c { e with run := some x.cycle, next := x.cycle }
      | _ => s

/-- Is the source of an `MMA` a tile? -/
def Loc.isTile : Loc → Bool
  | .tile .. => true
  | _ => false

/-- The running `MMA` reads its next source row (R263, R284, R325). Its activation row enters with its first source row, and its
destination row fills 11 + c cycles later; a fault ends its reading, and fails the rows not yet filled once those read before have
filled (R331, R333; DEDUCED, log entry 108). -/
def State.mmaRow (s : State) (c : CoreId) : State :=
  match firstOf (s.core c).arrayq AOp.isMma with
  | none => s
  | some (_, e) =>
    match e.op, e.run with
    | .mma _ loc _ _ m _ _ d _, some _ =>
      let x := s.core c
      match planeMode x.stat d with
      | none => s
      | some mode =>
        if mode.r * m ≤ e.taken ∨ e.fail.isSome ∨ x.cycle < e.next ∨ s.sourceReady c e loc e.taken = false then s
        else match s.sourceRow c e.uid loc e.taken with
          | (s, .error f) => (s.setEntry c { e with fail := some f }).releaseLoc c loc
          | (s, .ok (r, a)) =>
            let cyc := mode.cycles loc.isTile
            let since := if e.got = [] then x.cycle else e.since
            let got := e.got ++ [r]
            let last := x.cycle + a
            let e := { e with taken := e.taken + 1, since := since }
            let s := s.setEntry c
              (if got.length < mode.r then { e with got := got, next := if cyc < mode.r then last else last + 1 }
               else { e with
                 got := [], next := max (since + cyc) (last + 1)
                 ins := e.ins ++ [(max (since + 11 + cyc) (last + 12), rowsNat got)] })
            if e.taken = mode.r * m then s.releaseLoc c loc else s
    | _, _ => s

/-- What the array reads in a cycle: a row of the load, and a row of the `MMA`, two of a tile in the mode that takes two rows per cycle
(R263, R264). -/
def State.arrayReads (s : State) (c : CoreId) : State := ((s.loadRow c).mmaRow c).mmaRow c

/-- The value of a code as a signed byte. -/
def i8 (x : Nat) : Int := sxN 8 x

/-- An FP32 prior value as a term. -/
def priorTerm (v : FV) : Term := if v.isNaN then Term.ofNaN v else ⟨v, 0⟩

/-- One output element (R265, R266): activations `a`, scale `sa` of the row, prior value. -/
def outElem (mode : AMode) (p : Plane) (w : Desc) (ad : Desc) (rm : RMode) (a : List Nat) (sa : Nat) (prior : Nat) (n : Nat) :
    FRes :=
  let ws := (List.range p.k).map fun k => p.w.getD (n * p.k + k) 0
  let wf := etyFmt (etyOfCode w.format)
  let af := etyFmt (etyOfCode ad.format)
  let g := w.group
  let grp (f : FV → Int → List (Nat × Int) → Term) : FRes :=
    fusedSum (priorTerm (fmtS.decode prior) ::
      (List.range (p.k / g)).map fun j =>
        let i := n * (p.k / g) + j
        let z : Int := p.zp.getD i 0
        f (fmtH.decode (p.sc.getD i 0)) z
          ((List.range g).map fun k => (a.getD (g * j + k) 0, (ws.getD (g * j + k) 0 : Int))))
  match mode with
  | .fp64 => fp64Chain rm prior (a.zip ws)
  | .w8a8 | .w4a8 =>
    grp fun sw z l => scaleInt sw (fmtH.decode sa) ((l.map fun x => i8 x.1 * (x.2 - z)).sum)
  | .w8a16 | .w4a16 => grp fun sw z l => scaleSum sw (l.map fun x => (fmtBf.decode x.1, x.2 - z))
  | _ => fusedSum (priorTerm (fmtS.decode prior) :: (a.zip ws).map fun x => prodTerm (af.decode x.1) (wf.decode x.2))

/-- A destination row with its lanes below N replaced, and the exceptions; with K = 0 and accumulate, no lane changes (R287). -/
def outRow (mode : AMode) (ow : Bool) (p : Plane) (w ad : Desc) (rm : RMode) (src sa : Nat) (old : Row) : Row × Flags :=
  if p.k = 0 ∧ ow = false then (old, 0) else
  let wd := if mode = .fp64 then 64 else 32
  let a := elems ad.width src p.k
  let rs := (List.range p.n).map fun n => outElem mode p w ad rm a sa (if ow then 0 else lane wd old n) n
  (ofLanes wd ((List.range (1024 / wd)).map fun n => match rs[n]? with | some r => r.val | none => lane wd old n),
   lanesFlags rs)

/-- The scale of an activation row (R255); zero in the modes that have none. -/
def State.rowScale (s : State) (c : CoreId) (mode : AMode) (d : Desc) (l1 : Nat) (refused : Option PageRefusal) : KeyRead :=
  match mode with
  | .w8a8 | .w4a8 => s.keyRead c d.key (d.scoff + 2 * l1) 2 refused
  | _ => .ok 0

/-- `MMA_ROW_FILL` (R263, R265 to R267, R287): the next destination row of the running `MMA`, whose activation row has been read; after
what another unit still owes the row (R271). When a source row has failed and no row read before it is left, the others fail. -/
def execMmaRowFill (c : CoreId) (s : State) : Out :=
  .next <|
    match firstOf (s.core c).arrayq AOp.isMma with
    | none => s
    | some (_, e) =>
      match e.op, e.ins with
      | .mma ow loc tile drow m asrow _ d rm, (due, v) :: rest =>
        let x := s.core c
        let p := x.stat
        match p.desc, planeMode p d with
        | some w, some mode =>
          let i := e.rows
          let r : VReg := BitVec.ofNat 5 (drow + i)
          if x.cycle < due ∨ s.rowOwed c tile r e.tok ∨ s.waitsPage (dieOf c) (.scale c e.tok) then s
          else match s.rowScale c mode d (asrow + i) e.refusal with
            | .page va => s.scaleFault c d va e.tok
            | .wait => s
            | .bad a b f => s.failRows c e loc (decide (e.taken < mode.r * m) && e.fail.isNone) tile (drow + i) (drow + m) (a, b, f)
            | .ok sa =>
              let (row, fl) := outRow mode ow p w d rm v sa (s.rowCell c tile r).v
              let s := (s.fillRow c tile r e.tok row).mergeFl e.uid fl
              if i + 1 = m then s.dropEntry c e.tok else s.setEntry c { e with rows := i + 1, ins := rest, refusal := none }
        | _, _ => s
      | .mma _ loc tile drow m _ _ _ _, [] =>
        match e.fail with
        | some f => s.failRows c e loc false tile (drow + e.rows) (drow + m) f
        | none => s
      | _, _ => s

/-! ## The special-function unit (R278, R297) -/

/-- Cycles from start to result. -/
def SfuEntry.latency (e : SfuEntry) : Nat :=
  match e.f with
  | .rcp => 10
  | .rsqrt => 12
  | .sqrt => 12
  | .exp2 => 14
  | .log2 => 14
  | .exp => 16
  | .tanh => 18
  | .sigm => 18

/-- Has the thread taken a trap since an instruction that it has not returned from? -/
def Thread.trapSince (t : Thread) (tok : Nat) : Bool :=
  (bit t.ecause 61 && decide (tok ≤ t.trapAt[(0 : Fin 3)])) || (bit t.scause 61 && decide (tok ≤ t.trapAt[(1 : Fin 3)])) ||
    (bit t.mcause 61 && decide (tok ≤ t.trapAt[(2 : Fin 3)]))

/-- Does a wait name the row of an entry? It could not end while the entry is suspended (log entry 22). -/
def SfuEntry.awaited (e : SfuEntry) (x : Slot) : Bool :=
  match x.wait with
  | .rows t l => t == e.tile && l.contains e.row.toNat
  | .regs l => x.th.bound == some e.tile && l.contains (.v e.row)
  | _ => false

/-- Is an entry suspended at the head (R278)? A thread that drains, or that waits for the entry's own row, keeps it running (R279). -/
def State.sfuBlocked (s : State) (c : CoreId) (e : SfuEntry) : Bool :=
  match s.slotOf c e.uid with
  | none => true
  | some n =>
    let x := s.slotAt c n
    let ready : Bool :=
      match x.st with
      | .ready => true
      | .draining => true
      | .parked => e.awaited x
      | _ => false
    !ready || (x.st != .draining && x.th.trapSince e.tok)

/-- Entries in issue order. -/
def byTok (l : List SfuEntry) : List SfuEntry :=
  l.foldr (fun e l => let (a, b) := l.span fun x => decide (x.tok < e.tok); a ++ e :: b) []

/-- Suspended entries whose thread may go on rejoin the tail in issue order (R278). -/
def State.sfuRejoin (s : State) (c : CoreId) : State :=
  let x := s.core c
  s.setCore c { x with
    sfuq := x.sfuq ++ byTok (x.sfuSusp.filter fun e => !s.sfuBlocked c e)
    sfuSusp := x.sfuSusp.filter fun e => s.sfuBlocked c e }

/-- `VSFU_START` (R278): the head starts, or is suspended; one start in a cycle. -/
def execVsfuStart (c : CoreId) (s : State) : Out :=
  .next <|
    let s := s.sfuRejoin c
    let x := s.core c
    match x.sfuq with
    | [] => s
    | e :: r =>
      if s.sfuBlocked c e then s.setCore c { x with sfuq := r, sfuSusp := x.sfuSusp ++ [e] }
      else if x.sfuRun.any fun p => p.1 == x.cycle + p.2.latency then s
      else s.setCore c { x with sfuq := r, sfuRun := x.sfuRun ++ [(x.cycle + e.latency, e)] }

/-- A real result (−1)^s · m · 2^e of an approximate function: one of the two neighbours of an inexact value, by the free
choice `up` (R297); overflow by the rounding mode (R136). -/
def nearby (f : Fmt) (env : FEnv) (up s : Bool) (m : Nat) (e : Int) : FRes :=
  let r := roundFin f { env with mode := if up then .rup else .rdn } s m e
  if r.fl &&& flOF ≠ 0 then encOverflow f env s else r

/-- One lane of a special function (R297). -/
def sfuLane (fn : SfuF) (f : Fmt) (env : FEnv) (up : Bool) (x : Nat) : FRes :=
  let v := f.decode x
  let one : Nat := f.bias * 2 ^ (f.p - 1)
  let near := nearby f env up
  let dz (s : Bool) : FRes := let r := encInf f env s; ⟨r.val, r.fl ||| flDZ⟩
  match propNaN f [v] with
  | some r => r
  | none =>
    match fn with
    | .rcp => match v with
      | .fin s 0 _ => dz s
      | _ => fDiv f env one x
    | .sqrt => fSqrt f env x
    | .rsqrt => match v with
      | .fin s 0 _ => dz s
      | .inf false => ⟨0, 0⟩
      | .fin false m e => let (n, d) := rRsqrt m e; near false n d
      | _ => invalid f
    | .exp2 => match v with
      | .inf s => if s then ⟨0, 0⟩ else encInf f env false
      | .fin s m e => let (n, d) := rExp2 s m e; near false n d
      | _ => invalid f
    | .exp => match v with
      | .inf s => if s then ⟨0, 0⟩ else encInf f env false
      | .fin s m e => let (n, d) := rExp s m e; near false n d
      | _ => invalid f
    | .log2 => match v with
      | .fin _ 0 _ => dz true
      | .inf false => encInf f env false
      | .fin false m e => let (s, n, d) := rLog2 m e; near s n d
      | _ => invalid f
    | .tanh => match v with
      | .inf s => ⟨f.signBit s + one, 0⟩
      | .fin s 0 _ => ⟨f.signBit s, 0⟩
      | .fin s m e => let (n, d) := rTanh m e; near s n d
      | _ => invalid f
    | .sigm => match v with
      | .inf s => if s then ⟨0, 0⟩ else ⟨one, 0⟩
      | .fin s m e => let (n, d) := rSigm s m e; near false n d
      | _ => invalid f

/-- `VSFU_RESULT` (R278, R297): the `i`-th running entry fills its row once its latency has passed. -/
def execVsfuResult (c : CoreId) (i : Nat) (s : State) : Out :=
  .next <|
    let x := s.core c
    match x.sfuRun[i]? with
    | none => s
    | some (due, e) =>
      if x.cycle < due then s
      else
        let rs := (lanesOf e.ty e.a).zipIdx.map fun p =>
          sfuLane e.f (etyFmt e.ty) ⟨e.rm, e.osat, false⟩ (Config.roundUp (s.fresh + p.2)) p.1
        let s := { s with fresh := s.fresh + etyLanes e.ty }
        let s := s.setCore c { x with sfuRun := x.sfuRun.eraseIdx i }
        (s.fillRow c e.tile e.row e.tok (rowOf e.ty (rs.map (·.val)))).mergeFl e.uid (lanesFlags rs)

/-! ## Dequantisation (R298) -/

/-- One lane: s·(q − z), rounded once. -/
def vdqLane (f : Fmt) (sc q z : Nat) : FRes :=
  let n : Int := (q : Int) - z
  match fmtH.decode sc with
  | .nan s fr qt => cvtNaN fmtH f s fr qt
  | v => mulV f ⟨.rne, true, false⟩ v (.fin (decide (n < 0)) n.natAbs 0)

/-- `VDQ_FILL` (R255, R272, R298). -/
def execVdqFill (c : CoreId) (i : Nat) (s : State) : Out :=
  .next <|
    let x := s.core c
    match x.vdqs[i]? with
    | none => s
    | some q =>
      if s.waitsPage (dieOf c) (.scale c q.tok) then s
      else
        let l := etyLanes q.ty
        let cs := (List.range l).map fun j => q.part * l + j
        let g (k : Nat) : Nat := (q.x0 + k) / q.d.group + q.d.extent 0 / q.d.group * q.x1
        let gs := (cs.map g).eraseDups
        let done := s.setCore c { x with vdqs := x.vdqs.eraseIdx i }
        match s.groupReads c q.d q.refusal gs with
        | .error (.page va) => s.scaleFault c q.d va q.tok
        | .error (.bad a b _) => done.failRow c q.tile q.row q.tok ⟨q.uid, q.pc, a, 0, b, 0⟩
        | .error _ => s
        | .ok vs =>
          let rs := cs.map fun k =>
            let (sc, z) := vs.getD (gs.findIdx (· == g k)) (0, 0)
            vdqLane (etyFmt q.ty) sc (lane q.d.width q.codes k) z
          (done.fillRow c q.tile q.row q.tok (rowOf q.ty (rs.map (·.val)))).mergeFl q.uid (lanesFlags rs)

end Sys2Proof.Machine
end

