-- ==== Sys2Proof/Machine/Tracks.lean ====
section
/-! DEFINITION. The shift-track instructions (R313 to R322, R327, R328, R330, R334 to R341). -/
namespace Sys2Proof.Machine

namespace State

/-- The issuing core's track `t`, replaced. -/
def putTrack (s : State) (t : TrackId) (k : Track) : State := s.setHere (s.here.setTrack t k)

/-- A use of a track after the checks of R62: an empty track parks, then the check of R321 (R334). -/
def useTrack (s : State) (v : View) (t : TrackId) (recal : Bool) (k : State → Head) : Head :=
  if (s.here.track t).emptyFor false then .park (.track t false) else s.trackCheck v t recal k

/-- The head leaves for another position (R314, R318): POS reads the target, the positions are charged, and the move
takes its cycles besides `extra`. -/
def moveHead (s : State) (v : View) (t : TrackId) (k : Track) (n extra : Nat) : State :=
  ((s.putTrack t k).charge v.th.uid n).startMove s.cur.core t (extra + shiftCycles n)

end State

/-! ## Claiming and releasing (R335, R336) -/

/-- `HOWNt` claimed for the thread's launch; rows, head and tag stay. -/
def Track.claim (k : Track) (t : Thread) : Track :=
  { k with valid := true, resid := true, launch := t.launch, tenant := t.tenant }

def hclaimSet (t : Thread) (n : TrackId) : Thread := { t with hclaim := t.hclaim ||| word (2 ^ n.toNat) }

def execHclm (d : SReg) (t : TrackId) : State → Out :=
  plain [sN d] fun v s =>
    let k := s.here.track t
    let give (s : State) : Head := .ok (s.setTh ((hclaimSet s.th t).setS d (word t.toNat)))
    if k.held ∨ k.xfer ∨ k.scrub then .park (.claim t)
    else if s.trackOwned s.cur.core k then
      if k.launch = v.th.launch then give s
      else .trap (ownTrap t k (if k.tenant = v.th.tenant then 0 else 1))
    else if k.resid ∧ k.tenant ≠ v.th.tenant then .trap (ownTrap t k 2)
    else give (s.putTrack t (k.claim v.th))

/-- The lowest track that `HCLM.any` may claim. -/
def State.anyTrack (s : State) (v : View) : Option Nat :=
  lowest 64 fun i =>
    let k := s.here.track (BitVec.ofNat 6 i)
    !(k.held || k.xfer || k.scrub || k.lost) && !s.trackOwned s.cur.core k && (!k.resid || k.tenant == v.th.tenant)

def execHclmAny (d : SReg) : State → Out :=
  plain [sN d] fun v s =>
    match s.anyTrack v with
    | none => .ok (s.setTh (s.th.setS d (word (2 ^ 64 - 1))))
    | some i =>
      let t : TrackId := BitVec.ofNat 6 i
      let s := s.putTrack t ((s.here.track t).claim v.th)
      .ok (s.setTh ((hclaimSet s.th t).setS d (word i)))

/-- `HREL` (R336): a use that does not trap on another owner or a released track. -/
def execHrel (t : TrackId) : State → Out :=
  plain [] fun v s =>
    let k := s.here.track t
    let mine := k.valid && k.launch == v.th.launch
    if k.emptyFor false ∨ (v.th.level = .user ∧ k.xfer) then .park (.track t false)
    else if v.th.level = .user ∧ mine ∧ k.lost then .trap (shiftTrap t k true false 0xFFF)
    else
      let s := if mine then s.putTrack t { k with valid := false } else s
      .ok (s.setTh { s.th with hclaim := s.th.hclaim &&& ~~~word (2 ^ t.toNat) })

/-! ## Moving the head (R337, R339) -/

/-- The head seeks a position; EDGE is cleared. -/
def seek (t : TrackId) (p : Nat) (v : View) (s : State) : Head :=
  s.useTrack v t false fun s =>
    let k := s.here.track t
    .ok (s.moveHead v t { k with pos := p, edge := false } ((p : Int) - k.pos).natAbs 0)

def execHseek (t : TrackId) (p : BitVec 8) : State → Out := plain [] fun v s => seek t p.toNat v s
def execHseekReg (t : TrackId) (r : SReg) : State → Out := plain [sN r] fun v s => seek t (bits (v.sd r) 7 0) v s
def execHrwd (t : TrackId) : State → Out := plain [] fun v s => seek t 0 v s

/-- `HRWD.r` (R339): the thread waits until the scan ends. -/
def execHrwdR (t : TrackId) : State → Out :=
  plain [] fun v s =>
    s.useTrack v t true fun s =>
      let k := s.here.track t
      let n := k.scan
      let k' := { k with pos := 0, edge := false }
      if n = some 0 then .ok (s.putTrack t k'.recalibrated)
      else
        let k' := { k' with after := .recal s.cur.slot v.th.uid n.isSome }
        let s := if v.th.level = .user then s.setTh (hclaimSet s.th t) else s
        .pend (s.moveHead v t k' (n.getD 264) 0) (.recal t)

/-! ## Rows (R338, R341) -/

/-- A six-bit step in two's complement (R334). -/
def stepOf (x : BitVec 6) : Int := sxN 6 x.toNat

/-- An access by an instruction at the head (R330), with the track realigned and the positions of that. -/
def State.atHead (s : State) (t : TrackId) (k : Track → Nat → Head) : Head :=
  let x := s.here.track t
  match x.align with
  | .error code => .trap (shiftTrap t x false false code)
  | .ok (x, n) => k x n

/-- The step after an access: realignment and step are charged, and the track is empty for both. -/
def State.stepHead (s : State) (v : View) (t : TrackId) (k : Track) (realign : Nat) (step : Int) : State :=
  let (k, n) := k.step step
  (s.charge v.th.uid realign).moveHead v t k n (shiftCycles realign)

def execHrds (t : TrackId) (d : VReg) (nb : Bool) (step : BitVec 6) : State → Out :=
  plain [vN d] fun v s => s.boundTile v fun tile s =>
    if nb ∧ (s.here.track t).emptyFor false then .trap ⟨0x03, word (0x400 + t.toNat), 0, 0⟩
    else s.useTrack v t false fun s => s.atHead t fun k n =>
      if k.bad.contains k.pos then .trap ⟨0x14, 2, word (t.toNat * 256 + k.pos), 0⟩
      else if s.heldRow s.cur.core tile d then .park (.held tile d)
      else .ok ((s.setRow s.cur.core tile d (k.row k.pos)).stepHead v t k n (stepOf step))

def execHwrs (t : TrackId) (a : Src) (step : BitVec 6) : State → Out :=
  plain [a.vneed] fun v s => s.boundTile v fun tile s =>
    s.useTrack v t false fun s => s.atHead t fun k n =>
      .ok (s.stepHead v t { k.setRow k.pos (v.row tile a.reg) with tag := 0 } n (stepOf step))

/-- What a fill does to a track: the track, positions realigned and moved, cycles of realignment. -/
structure Fills where
  k       : Track
  realign : Nat
  moved   : Nat
  cycles  : Nat
  deriving DecidableEq, Repr, Inhabited

/-- `n` writes of a row, each at the head and followed by the step; an error with the code read and the expected
position. -/
def fillRows (r : Row) (step : Int) : Nat → Fills → Except (Nat × Track) Fills
  | 0, f => .ok f
  | n + 1, f =>
    match f.k.align with
    | .error code => .error (code, f.k)
    | .ok (k, a) =>
      let (k, m) := (k.setRow k.pos r).step step
      fillRows r step n ⟨k, f.realign + a, f.moved + m, f.cycles + shiftCycles a⟩

def execHfill (t : TrackId) (c : Src) (step : BitVec 6) (a : Src) : State → Out :=
  plain [a.need, c.vneed] fun v s => s.boundTile v fun tile s =>
    s.useTrack v t false fun s =>
      let n := min (v.s a).toNat 256
      let st := stepOf step
      if n = 0 then .ok s
      else match fillRows (v.row tile c.reg) st n ⟨s.here.track t, 0, 0, 0⟩ with
        | .error (code, k) => .trap (shiftTrapAt t (s.here.track t) k.pos false false code)
        | .ok f =>
          let s := (s.putTrack t { f.k with tag := 0 }).charge v.th.uid (f.realign + f.moved)
          .ok (s.startMove s.cur.core t (f.cycles + n * max 1 (shiftCycles st.natAbs)))

/-! ## State of a track (R340) -/

/-- What `HPOS` reads. -/
def hposWord (t : Thread) (k : Track) : Word :=
  let mine := k.valid && k.launch == t.launch
  let see := mine || t.level != .user
  word ((if see then k.errs.toNat * 2 ^ 32 + k.tag.toNat * 2 ^ 10 + k.edge.toNat * 2 ^ 9 + k.pos else 0) +
    k.xfer.toNat * 2 ^ 17 + k.lost.toNat * 2 ^ 16 + k.held.toNat * 2 ^ 15 + k.valid.toNat * 2 ^ 14 + mine.toNat * 2 ^ 13 +
    (k.move != .idle && k.after != .zeroing).toNat * 2 ^ 8)

def execHpos (d : SReg) (t : TrackId) : State → Out := plain [sN d] fun v s => putS d (hposWord v.th (s.here.track t)) s

end Sys2Proof.Machine
end

