-- ==== Sys2Proof/Machine/EvTracks.lean ====
section
/-! DEFINITION. The steps of the tracks: moves that start and end, scrubs, recalibrations (R314, R315, R320, R339). -/
namespace Sys2Proof.Machine

/-- `SHIFT_MOVE_START` (R315): the oldest queued move starts, in the cycle after a running move has ended. -/
def execShiftMoveStart (c : CoreId) (s : State) : Out :=
  .next <|
    let x := s.core c
    match x.shiftq with
    | [] => s
    | t :: r =>
      if 16 ≤ s.moving c then s
      else
        let k := x.track t
        match k.move with
        | .queued n => s.setCore c { x.setTrack t { k with move := .moving (x.cycle + 1 + n) } with shiftq := r }
        | _ => s.setCore c { x with shiftq := r }

/-- Has the move of a track ended? -/
def Core.moveOver (x : Core) (t : TrackId) : Bool :=
  match (x.track t).move with
  | .moving u => decide (u ≤ x.cycle)
  | _ => false

/-- `SHIFT_MOVE_END` (R314): the track is full; the move of a scrub is followed by 128 cycles that zero it (R320). -/
def execShiftMoveEnd (c : CoreId) (t : TrackId) (s : State) : Out :=
  .next <|
    let x := s.core c
    let k := x.track t
    if x.moveOver t = false then s
    else match k.after with
      | .rest => s.setCore c (x.setTrack t { k with move := .idle })
      | .scrub =>
        let u := match k.move with | .moving u => u | _ => x.cycle
        s.setCore c (x.setTrack t { k with move := .moving (u + 128), after := .zeroing })
      | _ => s

/-- `SCRUB_COMPLETE` (R320). -/
def execScrubComplete (c : CoreId) (t : TrackId) (s : State) : Out :=
  .next <|
    let x := s.core c
    let k := x.track t
    if x.moveOver t ∧ k.after = .zeroing then
      s.setCore c (x.setTrack t { k with
        rows := [], bad := [], tag := 0, resid := false, scrub := false, move := .idle, after := .rest })
    else s

end Sys2Proof.Machine
end

