-- ==== Sys2Proof/Machine/Nodes.lean ====
section
/-! DEFINITION. Task nodes: their states, the storage their sides name, completion, and the invalidation of translations
(R174, R345 to R347, R349, R352, R353, R359, R366). -/
namespace Sys2Proof.Machine

/-! ## The graph table (R345) -/

/-- A node handle. -/
def NodeId.handle (n : NodeId) : Word := word (n.gen.toNat * 2 ^ 19 + n.cl.toNat * 2 ^ 10 + n.idx.toNat)

namespace State

/-- The lowest free entry of a cluster's table. -/
def freeNode (s : State) (cl : BitVec 9) : Option (BitVec 10) :=
  (lowest 1024 fun i => (s.node cl (BitVec.ofNat 10 i)).st == .free).map (BitVec.ofNat 10)

/-- Nodes an engine of a die holds (R353). -/
def engineLoad (s : State) (d : BitVec 3) (e : BitVec 5) : Nat :=
  ((s.clusters.filter fun p => dieOfCluster p.1 == d).map fun p =>
    (p.2.nodes.filter fun x => x.2.engine == some e && x.2.st == .running).length).sum

/-- The graph of a thread's launch (R77). -/
def graphOf (s : State) (t : Thread) : EntryId :=
  ⟨s.partHere, .graph, (s.lv (launchEntry s.partHere t.launch)).parent⟩

end State

/-- The tracks a node holds (R324). -/
def Node.tracks (n : Node) : List TrackId :=
  [n.src, n.dst].filterMap fun x => match x with | .track t _ => some t | _ => none

/-- The stitched sides of a node: descriptor, tensor and version. -/
def Node.pins (n : Node) : List (Desc × TensorId × BitVec 32) :=
  [n.src, n.dst].filterMap fun x => match x with | .piece d _ _ _ id v => some (d, id, v) | _ => none

/-- Ranges of the committed chunks (R356). -/
def Node.ranges (n : Node) : List Range :=
  n.chunks.flatMap fun c => match c.st with | .committed r => r | _ => []

/-- Does a status fail the successors (R347)? -/
def NStatus.bad : NStatus → Bool
  | .ok => false
  | .poisonRetried => false
  | _ => true

/-- Codes of R359. -/
def NStatus.num : NStatus → Nat
  | .ok => 0
  | .bounds => 1
  | .poisonRetried => 2
  | .poison => 3
  | .cancelled => 4
  | .fault => 5
  | .shift => 6

namespace State

/-- The completion message of a node (R359), to the place of the `TASK`, from the engine that runs it. The spec names no engine for a
node that ends before it has one: the first of its die is the model's choice (log entry 102). -/
def completion (s : State) (id : NodeId) (n : Node) (e : Option (BitVec 5)) : State × Option Nat :=
  if n.quiet then (s, none)
  else match s.placeCore n.core n.place with
    | none => (s, none)
    | some c =>
      let pay := [id.handle, word (n.posn * 2 ^ 32 + n.code % 256 * 256 + n.status.num), word n.commit, word n.addr]
      let note : TaskNote := ⟨id, if n.status.bad then [] else n.ranges, n.moved⟩
      (s.send (.engine (e.getD (BitVec.ofNat 5 (4 * (dieOfCluster id.cl).toNat)))) c [⟨msgWords (msgHeader 0x01 n.place 4 0 n.tag.toNat) pay, n.tenant, n.sys, some note, []⟩],
       some s.serial)

/-- An entry of a page table, written (R403). -/
def setPte (s : State) (a : Nat) (w : Word) : State := s.storeW (.dev monKey) (a / 8) w

/-- DT and MIG of a page's entry are cleared and the map of its frame is freed (R182). -/
def endTracking (s : State) (t : BitVec 9) (fine : Option Nat) (va p : Nat) : State :=
  let s := { s with dirty := s.dirty.filter fun x => x.1 ≠ p / 2 ^ 21 }
  match s.leafAddr t fine va with
  | .ok a => s.setPte a (setBits (setBits (s.pte a) 62 62 0) 3 3 0)
  | .error _ => s

/-- The fine table root of a page that a node migrates (R173, R349). -/
def migRoot (n : Node) : Option Nat :=
  match n.src with
  | .page t true va => regionRoot n.region t va
  | _ => none

/-- A page migration that ends before the frame has changed lets go of the page (R182, R357). -/
def dropMigration (s : State) (n : Node) : State :=
  match n.src, n.mig with
  | .page t _ va, .marked p _ => s.endTracking t (migRoot n) va p
  | .page t _ va, .copying p _ => s.endTracking t (migRoot n) va p
  | .page t _ va, .frozen p _ _ => s.endTracking t (migRoot n) va p
  | _, _ => s

/-- A node completes (R346): it is DRAINING, its staged writes are discarded, its tracks are no longer held, its
completion is sent, its pins are to be removed. -/
def nodeEnd (s : State) (cl : BitVec 9) (i : BitVec 10) (status : NStatus) (code addr posn : Nat) : State :=
  let n := s.node cl i
  let id : NodeId := ⟨cl, i, n.gen⟩
  let e := n.engine
  let status := if status = .ok ∧ n.chunks.any Chunk.poisoned then .poisonRetried else status
  let n := { n with st := .draining, engine := none, status := status, code := code, addr := addr, posn := posn,
                    unpin := n.pins, told := false }
  let s := n.tracks.foldl (fun s t =>
    let k := (s.core n.core).track t
    s.both n.core fun s => s.setCore n.core ((s.core n.core).setTrack t { k with nodes := k.nodes.filter fun m => m ≠ id })) s
  let s := s.dropMigration n
  let (s, m) := s.completion id n e
  s.setNode cl i { n with msg := m }

/-- The count of a released node is 0 (R346, R347). -/
def nodeReady (s : State) (cl : BitVec 9) (i : BitVec 10) : State :=
  let n := s.node cl i
  if n.doomed then s.nodeEnd cl i .cancelled 0 0 0
  else (s.setNode cl i { n with st := .ready, seq := s.serial }).bump

/-- Release (R346). -/
def nodeRelease (s : State) (cl : BitVec 9) (i : BitVec 10) : State :=
  let n := s.node cl i
  if n.preds = 0 then s.nodeReady cl i else s.setNode cl i { n with st := .waiting }

/-- A predecessor's drain has ended (R347). -/
def notify (s : State) (bad : Bool) (b : NodeId) : State :=
  let n := s.node b.cl b.idx
  if n.gen ≠ b.gen ∨ n.st = .free ∨ n.st = .draining then s
  else
    let n := { n with preds := n.preds - 1, doomed := n.doomed || bad }
    let s := s.setNode b.cl b.idx n
    if n.preds = 0 ∧ n.st = .waiting then s.nodeReady b.cl b.idx else s

/-- The drain of a node has ended: acquire lists, successors and the graph know (R77, R208, R347). -/
def drainEnded (s : State) (cl : BitVec 9) (i : BitVec 10) : State :=
  let n := s.node cl i
  let id : NodeId := ⟨cl, i, n.gen⟩
  let s := s.setNode cl i { n with told := true, succs := [] }
  let s : State := { s with cores := s.cores.map fun p =>
    (p.1, { p.2 with acquire := p.2.acquire.filter fun a => a.node ≠ id }) }
  (n.succs.foldl (fun s b => s.notify n.status.bad b) s).dropCount 4 n.graph 1

/-- Every node below an entry that has not completed is cancelled (R82). -/
def cancelNodes (s : State) (e : EntryId) : State :=
  (s.clusters.flatMap fun p => p.2.nodes.map fun x => (p.1, x.1)).foldl (fun s p =>
    let n := s.node p.1 p.2
    if (n.st = .held ∨ n.st = .waiting ∨ n.st = .ready ∨ n.st = .running) ∧ s.within 4 n.graph e then
      s.nodeEnd p.1 p.2 .cancelled 0 0 0
    else s) s

end State

/-! ## Storage named by a side (R349, R352) -/

/-- Bytes of a row of a descriptor side; 1 for a raw side. -/
def Side.rowBytes : Side → Nat
  | .dense d _ => d.rowBytes
  | .piece d .. => d.rowBytes
  | _ => 1

/-- Byte offset of a local row of a dense entry, before the swizzle (R349). -/
def Desc.denseRow (d : Desc) (r : Nat) : Nat :=
  d.rowOffset (r % d.extent 1) (r / d.extent 1 % d.extent 2) (r / d.extent 1 / d.extent 2)

/-- Key and offset from its base of byte `o` of a side in memory. -/
def Side.byteAt (x : Side) (o : Nat) : KCell × Nat :=
  match x with
  | .raw k off => (k, off + o)
  | .dense d row => (d.key, swizzled d.swizzle (d.denseRow (row + o / d.rowBytes) + o % d.rowBytes))
  | .piece d k first row _ _ =>
    (k, swizzled d.swizzle ((row + o / d.rowBytes - first) * (d.stride 1 * d.width / 8) + o % d.rowBytes))
  | _ => (KCell.zero, 0)

/-- The swizzle of the source descriptor, 0 when the source is none (R352). -/
def Node.srcSwizzle (n : Node) : Nat :=
  match n.src with
  | .dense d _ => d.swizzle
  | .piece d .. => d.swizzle
  | _ => 0

def Side.isTrack : Side → Bool
  | .track .. => true
  | _ => false

/-- A byte of storage as a node finds it. -/
structure At where
  dev    : Bool
  tenant : BitVec 9
  fine   : Option Nat
  core   : CoreId
  /-- virtual address, or offset in the local store -/
  va     : Nat
  space  : Space
  /-- physical address, or the offset -/
  pa     : Nat
  /-- in a window of the fabric map: at another part (R427) -/
  far    : Bool
  deriving DecidableEq, Repr, Inhabited

/-- Why the staging of a chunk stops. -/
inductive Stop
  /-- a page that the pager is to supply -/
  | page (tenant : BitVec 9) (fine : Option Nat) (va : Nat) (write : Bool)
  /-- nothing to be done yet -/
  | wait
  | fail (status : NStatus) (code addr posn : Nat)
  deriving DecidableEq, Repr, Inhabited

/-- One byte that a key names, checked against that key and translated (R168, R171, R357, R370). An address in a window of the fabric map
is not translated here; the part that it names may refuse it, as a free choice (R357, R427). -/
def State.nodeAt (s : State) (n : Node) (k : KCell) (off : Nat) (write : Bool) : Except Stop At :=
  let bad (a : Nat) : Except Stop At := .error (.fail .fault 0x05 a 0)
  let fits := k.has (if write then .write else .read) && decide (off < k.len) && k.tag &&
    !(n.level == .user && k.tenant != n.tenant)
  if k.kind = 1 then
    let a := bits k.w0 30 0 + off
    match s.placeCore n.core (a / 2 ^ 18) with
    | none => bad a
    | some h => if fits then .ok ⟨false, k.tenant, none, h, a % 2 ^ 18, .ls h, a % 2 ^ 18, false⟩ else bad a
  else
    let va := k.base + off
    let fine := regionRoot n.region k.tenant va
    if fits = false then bad va
    else if (s.fabricWin k.tenant va).isSome then
      match Config.pick (s.farIdx va) % 4 with
      | 0 => bad va
      | 1 => .error (.fail .fault 0x17 va 0)
      | _ => .ok ⟨true, k.tenant, none, 0, va, .dev monKey, 0, true⟩
    else match s.translate k.tenant fine n.sec va write false, s.keyOf k.tenant with
      | .ok l, some ks => .ok ⟨true, k.tenant, fine, 0, va, .dev ks, l.pa, false⟩
      | .fault, _ => .error (.page k.tenant fine va write)
      | .mig, _ => .error .wait
      | _, _ => bad va

/-- The byte that stands at a place; a poisoned word is consumed (R180, R357). -/
def State.byteHere (s : State) (a : At) : Except Stop (Byte × Bool) :=
  if a.far then .ok (byteOf (Config.freeWord (s.farIdx a.va)).toNat 0, false)
  else if s.badAt a.space (a.pa / 8) then .error (.fail .poison 0x14 (if a.dev then a.va else 0) 0)
  else .ok (BitVec.ofNat 8 (s.rdN a.space a.pa 1), s.tagAt a.space (a.pa / 8))

/-- One byte read through a key. -/
def State.nodeByte (s : State) (n : Node) (k : KCell) (off : Nat) : Except Stop GotB :=
  match s.nodeAt n k off false with
  | .error e => .error e
  | .ok a =>
    match s.byteHere a with
    | .error e => .error e
    | .ok (b, tag) => .ok ⟨b, a.va, tag, off / 128⟩

/-! ## Invalidation (R174, R183) -/

/-- Bytes of a page. -/
def pageSize (fine : Option Nat) : Nat := if fine.isSome then 2 ^ 10 else 2 ^ 21

namespace State

/-- A line of a range, in the fetch buffer of a thread, is dropped. -/
def dropLine (hit : Nat → Nat → Bool) (t : Thread) : Thread :=
  match t.line with
  | some (a, _) => if hit a 64 then { t with line := none } else t
  | none => t

/-- The lines of a tenant's range that a core holds are dropped: in its instruction cache, and in the fetch buffers of the threads in its
slots and in its suspension records (R183). -/
def dropLines (t : BitVec 9) (hit : Nat → Nat → Bool) (x : Core) : Core :=
  { x with
    icache := x.icache.filter fun e => !(e.1.1 == t && hit e.1.2 64)
    slots := x.slots.map fun y => { y with th := dropLine hit y.th }
    susp := x.susp.map fun r => { r with th := dropLine hit r.th } }

/-- Cached translations, instruction lines and fetch buffers of a range are dropped, also those that a rollback of a coupled pair would
bring back. -/
def dropTranslations (s : State) (t : BitVec 9) (base len : Nat) : State :=
  let hit (a n : Nat) : Bool := decide (a < base + len) && decide (base < a + n)
  { s with
    clusters := s.clusters.map fun p => (p.1, { p.2 with
      tcache := p.2.tcache.filter fun e => !(e.1.1 == t && hit e.1.2.2 (pageSize e.1.2.1)) })
    cores := s.cores.map fun p => (p.1, dropLines t hit p.2)
    pairs := s.pairs.map fun p => (p.1, { p.2 with snap := (dropLines t hit p.2.snap.1, p.2.snap.2) }) }

/-- Has every access of a range performed that was translated before a number (R174)? -/
def quiet (s : State) (t : BitVec 9) (base len before : Nat) : Bool :=
  !(s.reqs.any fun r =>
    r.dev && r.tenant == t && decide (r.xlat < before) && decide (r.va < base + len) && decide (base < r.va + r.size) &&
      !r.pas.isEmpty && (match r.stage with | .home => true | .combined .. => true | .waiting => true | _ => false))

/-- An access whose thread is to reissue its bundle once `w` is over: the bundle is withdrawn (R31, R72, R182). -/
def reissue (s : State) (r : Req) (w : WaitOn) : State :=
  let s := s.withdraw r.core r.slot
  s.setSlot r.core r.slot { s.slotAt r.core r.slot with wait := w, seen := none }

end State

end Sys2Proof.Machine
end

