-- ==== Sys2Proof/Machine/System.lean ====
section
/-! DEFINITION. Control registers (R10, R61, R150, R163), the steps that are writes of one register, coupled pairs at issue
(R412), and the instructions of a shadow handler (R376, R377). -/
namespace Sys2Proof.Machine

/-! ## Reading (R150) -/

/-- Codes of `SLOTST` (R67). -/
def SlotSt.code : SlotSt → Nat
  | .free => 0
  | .loading => 1
  | .ready => 2
  | .parked => 3
  | .draining => 4
  | .held => 5
  | .disabled => 6
  | .heldParked => 7

def LvSt.code : LvSt → Nat
  | .free => 0
  | .opened => 1
  | .sealed => 2
  | .done => 3

namespace State

/-- `SLOTST` (R69). -/
def slotst (s : State) : Word :=
  word ((List.finRange 16).foldl (fun a i => a + (s.here.slots[i]).st.code * 2 ^ (4 * i.val)) 0)

/-- The entry that `LVLCTL` selects (R79). -/
def lvlEntry (s : State) (w : Word) : EntryId := ⟨s.partHere, lvlOfNum (bits w 5 4), bits w 19 8⟩

/-- `LVLDATA` (R79). -/
def lvldata (s : State) : Word :=
  let x := s.lv (s.lvlEntry s.here.lvlctl)
  word (x.st.code * 2 ^ 62 + s.here.lvlerr.toNat * 2 ^ 61 + x.canc.toNat * 2 ^ 60 + x.gen.toNat * 2 ^ 56 +
    x.tenant.toNat * 2 ^ 47 + x.parent % 4096 * 2 ^ 35 + x.count % 2 ^ 32)

/-- `FQSTAT` (R177). -/
def fqstatWord (s : State) : Word :=
  let d := s.die (dieOf s.cur.core)
  word (d.fqstat.toNat + d.pageq.length)

/-- `PBASE`, `PLEN`, `CAPS` (R402). -/
def pbase (s : State) : Word := word (s.partHere % 64 * 2 ^ 16 + (s.part s.partHere).base)
def plen (s : State) : Word := word (s.part s.partHere).len
def caps (s : State) : Word :=
  word (s.stepping % 256 * 2 ^ 32 + (s.placesOf s.cur.core).length * 2 ^ 16 + (8192 - s.disabled.length))

/-- `SUSPB` with USED (R407). -/
def suspbWord (s : State) : Word := s.here.suspb ||| word s.here.susp.length

end State

/-- The control register of a number; `none`: unassigned (R150). -/
def csrRead (v : View) (s : State) (n : Nat) : Option Word :=
  let t := v.th
  match n with
  | 0x000 => some t.fsr
  | 0x001 => some (word s.now)
  | 0x002 => some t.self
  | 0x003 => some t.bita
  | 0x004 => some t.lc0
  | 0x005 => some t.lc1
  | 0x006 => some t.tvec
  | 0x007 => some t.epc
  | 0x008 => some t.ecause
  | 0x009 => some t.einfo
  | 0x00A => some t.einfo2
  | 0x00B => some t.wsp
  | 0x00C => some t.tileb
  | 0x00D => some t.tmask
  | 0x00E => some t.hclaim
  | 0x00F => some t.shcnt
  | 0x010 => some t.tagf
  | 0x011 => some t.le0
  | 0x012 => some t.le1
  | 0x013 => some (word s.here.rlate.toNat)
  | 0x100 => some s.here.svec
  | 0x101 => some t.sepc
  | 0x102 => some t.scause
  | 0x103 => some t.sinfo
  | 0x104 => some v.aown[(0 : Fin 4)]
  | 0x105 => some v.aown[(1 : Fin 4)]
  | 0x106 => some v.aown[(2 : Fin 4)]
  | 0x107 => some v.aown[(3 : Fin 4)]
  | 0x108 => some s.here.qown
  | 0x109 => some s.here.qweight
  | 0x10A => some s.here.region
  | 0x10B => some s.fqstatWord
  | 0x10C => some s.here.pxvec
  | 0x10D => some s.pbase
  | 0x10E => some s.plen
  | 0x10F => some s.caps
  | 0x110 => some s.slotst
  | 0x111 => some s.here.lvlctl
  | 0x112 => some s.lvldata
  | 0x113 => some t.sinfo2
  | 0x114 => some v.mown
  | 0x115 => some s.suspbWord
  | 0x200 => some s.here.mvec
  | 0x201 => some t.mepc
  | 0x202 => some t.mcause
  | 0x203 => some t.minfo
  | 0x204 => some t.minfo2
  | 0x205 => some s.krcmd
  | 0x206 => some s.here.world
  | 0x207 => some (s.die (dieOf s.cur.core)).stpass
  | 0x208 => some s.lvrctl
  | n => if 0x140 ≤ n ∧ n < 0x180 then some (s.here.track (BitVec.ofNat 6 (n - 0x140))).word else none

/-- R61: the level of the number's range, then the number. -/
def csrCheck (n : BitVec 12) (v : View) (s : State) : Option TrapInfo :=
  match privTrap v.th (if n.toNat < 0x100 then .any else if n.toNat < 0x200 then .sup else .mon) with
  | some t => some t
  | none => if (csrRead v s n.toNat).isNone then some (s.encTrap 1 5 0) else none

def execCsrr (d : SReg) (n : BitVec 12) : State → Out :=
  issue (csrCheck n) (fun _ => [sN d]) fun v s => putS d ((csrRead v s n.toNat).getD 0) s

/-! ## Writing (R163) -/

/-- A field of `w` taken over into `old`. -/
def field (old w : Word) (hi lo : Nat) : Word := setBits old hi lo (bits w hi lo)

/-- `FSR` (R140): reserved codes leave RM. -/
def fsrOf (old w : Word) : Word :=
  let x := word (bits w 13 13 * 2 ^ 13 + bits w 9 0)
  setBits x 12 10 (if 4 < bits w 12 10 then bits old 12 10 else bits w 12 10)

/-- A cause register (R145); `pp`: PPRIV is writable. -/
def causeOf (pp : Bool) (old w : Word) : Word :=
  let x := field old w 62 61
  if pp && decide (bits w 60 59 ≠ 3) then field x w 60 59 else x

/-- A vector or return-PC register (R146). -/
def addrOf (w : Word) : Word := word (bits w 51 1 * 2)

/-- `WSP` (R103): the bounds rule. -/
def wspOk (w : Word) : Bool :=
  decide (0x780 ≤ wspBase w) && decide (wspBase w ≤ wspPtr w) && decide (wspPtr w ≤ wspLimit w) && decide (wspLimit w ≤ 2048)

namespace State

/-- `LVLCTL` (R79). -/
def writeLvlctl (s : State) (w : Word) : State :=
  let e := s.lvlEntry w
  let x := s.here
  if e.lvl.size ≤ e.idx then s.setHere { x with lvlerr := true }
  else
    let r : Option State :=
      match bits w 2 0 with
      | 0 => some s
      | 1 => s.openEntry e (bits w 31 20) (BitVec.ofNat 9 (bits w 40 32))
      | 2 => s.sealEntry e
      | 3 => s.freeEntry e
      | _ => none
    let t := r.getD s
    t.setHere { t.here with lvlctl := w, lvlerr := r.isNone }

/-- `QOWN` (R87, R406): a class that changes its tenant or is disabled makes its threads outgoing. -/
def writeQown (s : State) (w : Word) : State :=
  let old := s.here.qown
  let new := word (bits w 39 0)
  let ten (x : Word) (q : Nat) : Nat := bits x (9 * q + 8) (9 * q)
  let hit (q : Nat) : Bool := decide (ten old q ≠ ten new q) || (bit old (36 + q) && !bit new (36 + q))
  let mis (x : Slot) : Bool :=
    let q := x.th.qclass.toNat
    hit q && (!bit new (36 + q) || decide (ten new q ≠ x.th.tenant.toNat))
  s.setHere { s.here with
    qown := new
    slots := s.here.slots.map fun x =>
      if x.st ≠ .free ∧ x.st ≠ .disabled ∧ mis x then { x with outgoing := true } else x }

/-- `FQSTAT` (R177). -/
def writeFqstat (s : State) (w : Word) : State :=
  let d := s.die (dieOf s.cur.core)
  let f := field d.fqstat w 48 35
  s.setDie (dieOf s.cur.core) { d with
    fqstat := if bit w 63 then setBits f 63 63 0 else f
    npart := s.partHere }

/-- `AOWNn` (R273): threads parked on the tile find it changed. -/
def writeAown (s : State) (n : Fin 4) (w : Word) : State :=
  let o : Word := word (bits w 63 62 * 2 ^ 62 + bits w 40 32 * 2 ^ 32 + bits w 15 0)
  s.setHere { s.here with aown := s.here.aown.set n o }

/-- `SUSPB` (R407). -/
def writeSuspb (s : State) (w : Word) : State :=
  let x := s.here
  if x.susp ≠ [] ∧ bits w 51 19 ≠ bits x.suspb 51 19 then s
  else s.setHere { x with suspb := word (bits w 63 63 * 2 ^ 63 + bits w 51 19 * 2 ^ 19) }

/-- `KRCMD` (R404). -/
def writeKrcmd (s : State) (w : Word) : State :=
  let t : BitVec 9 := BitVec.ofNat 9 (bits w 24 16)
  let cmd := bits w 1 0
  if bit s.krcmd 63 ∨ cmd = 3 then { s with krcmd := setBits s.krcmd 62 62 1 }
  else if cmd = 0 then { s with krcmd := word (bits w 24 16 * 2 ^ 16) }
  else
    let gen := match agetD s.keyring t (some 0) with | some g => g | none => 0
    let s := { s with
      krcmd := word (2 ^ 63 + bits w 24 16 * 2 ^ 16 + cmd)
      keyNew := some (t, if cmd = 1 then some (s.serial + gen + 1) else none)
      serial := s.serial + gen + 1 }
    if cmd = 1 then s.notice 4 else s

/-- `LVRCTL` (R415): FULL is cleared when capture starts. -/
def writeLvrctl (s : State) (w : Word) : State :=
  let start := bit w 63 && !bit s.lvrctl 63
  let x := word (bits w 63 62 * 2 ^ 62 + bits w 60 0)
  { s with
    lvrctl := if start then x else field x s.lvrctl 61 61
    lvr := if start && !bit w 62 then [] else s.lvr }

/-- The fields of `HOWNt` (R319, R320): VALID, XFER, TAG, TENANT, LAUNCH; a write of VALID = 1 sets RESID. -/
def hownFields (k : Track) (w : Word) : Track :=
  { k with
    valid := bit w 63
    xfer := bit w 62
    tag := BitVec.ofNat 3 (bits w 57 55)
    tenant := BitVec.ofNat 9 (bits w 40 32)
    launch := BitVec.ofNat 16 (bits w 15 0)
    resid := k.resid || bit w 63 }

/-- A scrub starts (R320): the head moves to position 0, and 128 cycles follow. -/
def startScrub (s : State) (uid : Nat) (t : TrackId) (k : Track) : State :=
  if k.pos = 0 then
    s.putTrack t { k with scrub := true, after := .zeroing, move := .moving (s.now + 128) }
  else
    ((s.putTrack t { k with scrub := true, after := .scrub, pos := 0 }).charge uid k.pos).startMove s.cur.core t
      (shiftCycles k.pos)

end State

/-- `HOWNt` (R320): waits until the track is not held and full. -/
def writeHown (t : TrackId) (w : Word) (v : View) (s : State) : Head :=
  let k := s.here.track t
  if k.emptyFor false then .park (.hown t)
  else
    let k := State.hownFields k w
    .ok (if bit w 60 then s.startScrub v.th.uid t k else s.putTrack t k)

/-- `MOWN` (R262): a write that changes it waits for the array queue and resets the array. -/
def writeMown (w : Word) (v : View) (s : State) : Head :=
  let o : Word := word (bits w 63 63 * 2 ^ 63 + bits w 40 32 * 2 ^ 32 + bits w 15 0)
  if o = v.mown then .ok s
  else if s.here.arrayq ≠ [] then .park .array
  else .ok (s.setHere { s.here with
    mown := o, stat := Plane.reset, shad := Plane.reset, cfgk := 0, cfgn := 0, failed := none })

/-- `WORLD` (R405): waits until the core holds no other thread. -/
def writeWorld (w : Word) (v : View) (s : State) : Head :=
  if s.here.slots.toList.any fun x => x.st != .free && x.st != .disabled && x.th.uid != v.th.uid then .park .world
  else .ok ((s.setTh { s.th with line := none }).setHere { (s.setTh { s.th with line := none }).here with world := word (bits w 0 0), icache := [] })

/-- The write of a control register, by number. -/
def csrWrite (n : Nat) (w : Word) (v : View) (s : State) : Head :=
  let t := s.th
  let th (t : Thread) : Head := .ok (s.setTh t)
  let core (x : Core) : Head := .ok (s.setHere x)
  match n with
  | 0x000 => th { t with fsr := fsrOf t.fsr w }
  | 0x003 => th { t with bita := word (bits w 54 0) }
  | 0x004 => th { t with lc0 := word (bits w 31 0) }
  | 0x005 => th { t with lc1 := word (bits w 31 0) }
  | 0x006 => th { t with tvec := addrOf w }
  | 0x007 => th { t with epc := addrOf w }
  | 0x008 => th { t with ecause := causeOf false t.ecause w }
  | 0x009 => th { t with einfo := w }
  | 0x00A => th { t with einfo2 := w }
  | 0x00B =>
    if wspOk w then th { t with wsp := field (field t.wsp w 50 27) w 16 5, spill := 0 }
    else .trap { kinfo 10 none 0 w with info2 := w }
  | 0x00F => th { t with shcnt := w }
  | 0x010 => th { t with tagf := w }
  | 0x011 => th { t with le0 := w }
  | 0x012 => th { t with le1 := w }
  | 0x013 => core { s.here with rlate := BitVec.ofNat 32 (bits w 31 0) }
  | 0x100 => core { s.here with svec := addrOf w }
  | 0x101 => th { t with sepc := addrOf w }
  | 0x102 => th { t with scause := causeOf true t.scause w }
  | 0x103 => th { t with sinfo := w }
  | 0x104 => .ok (s.writeAown 0 w)
  | 0x105 => .ok (s.writeAown 1 w)
  | 0x106 => .ok (s.writeAown 2 w)
  | 0x107 => .ok (s.writeAown 3 w)
  | 0x108 => .ok (s.writeQown w)
  | 0x109 => core { s.here with qweight := word (bits w 31 0) }
  | 0x10A => core { s.here with region := field (field (field 0 w 63 41) w 37 29) w 28 0 }
  | 0x10B => .ok (s.writeFqstat w)
  | 0x10C => core { s.here with pxvec := addrOf w }
  | 0x111 => .ok (s.writeLvlctl w)
  | 0x113 => th { t with sinfo2 := w }
  | 0x114 => writeMown w v s
  | 0x115 => .ok (s.writeSuspb w)
  | 0x200 => core { s.here with mvec := addrOf w }
  | 0x201 => th { t with mepc := addrOf w }
  | 0x202 => th { t with mcause := causeOf true t.mcause w }
  | 0x203 => th { t with minfo := w }
  | 0x204 => th { t with minfo2 := w }
  | 0x205 => .ok (s.writeKrcmd w)
  | 0x206 => writeWorld w v s
  | 0x208 => .ok (s.writeLvrctl w)
  | n => if 0x140 ≤ n ∧ n < 0x180 then writeHown (BitVec.ofNat 6 (n - 0x140)) w v s else .ok s

def execCsrw (r : SReg) (n : BitVec 12) : State → Out :=
  issue (csrCheck n) (fun _ => [sN r]) fun v s => csrWrite n.toNat (v.sd r) v s

/-! ## Steps that are writes of one register -/

/-- The write of register `n` by the issuing thread, when the value it writes makes it this step. -/
def csrStep (n : BitVec 12) (ok : Word → Bool) (r : SReg) (s : State) : Out :=
  if ok (s.th.sv r) then execCsrw r n s else .next s

def execLvlctlSelect (r : SReg) (s : State) : Out := csrStep 0x111 (fun w => bits w 2 0 == 0) r s
def execLvlctlOpen (r : SReg) (s : State) : Out := csrStep 0x111 (fun w => bits w 2 0 == 1) r s
def execLvlctlSeal (r : SReg) (s : State) : Out := csrStep 0x111 (fun w => bits w 2 0 == 2) r s
def execLvlctlFree (r : SReg) (s : State) : Out := csrStep 0x111 (fun w => bits w 2 0 == 3) r s
def execWspWrite (r : SReg) (s : State) : Out := csrStep 0x00B (fun _ => true) r s
def execFsrWrite (r : SReg) (s : State) : Out := csrStep 0x000 (fun _ => true) r s
def execAownWrite (t : TileId) (r : SReg) (s : State) : Out :=
  csrStep (BitVec.ofNat 12 (0x104 + t.toNat)) (fun _ => true) r s
def execMownWrite (r : SReg) (s : State) : Out := csrStep 0x114 (fun _ => true) r s
def execHownWrite (t : TrackId) (r : SReg) (s : State) : Out :=
  csrStep (BitVec.ofNat 12 (0x140 + t.toNat)) (fun w => !bit w 60) r s
def execHownScrub (t : TrackId) (r : SReg) (s : State) : Out :=
  csrStep (BitVec.ofNat 12 (0x140 + t.toNat)) (fun w => bit w 60) r s
def execQownWrite (r : SReg) (s : State) : Out := csrStep 0x108 (fun _ => true) r s
def execSuspbWrite (r : SReg) (s : State) : Out := csrStep 0x115 (fun _ => true) r s
def execWorldWrite (r : SReg) (s : State) : Out := csrStep 0x206 (fun _ => true) r s

/-- `KEYRING_DRAW` and `KEYRING_DISCARD` (R404): the command on a tenant's slot; a busy keyring refuses it. -/
def execKeyringDraw (t : BitVec 9) (s : State) : Out := .next (s.writeKrcmd (word (t.toNat * 2 ^ 16 + 1)))
def execKeyringDiscard (t : BitVec 9) (s : State) : Out := .next (s.writeKrcmd (word (t.toNat * 2 ^ 16 + 2)))

/-- `KEYRING_CHANGE_DONE` (R404): every memory controller uses the new key state. -/
def execKeyringChangeDone (s : State) : Out :=
  .next <|
    match s.keyNew with
    | none => s
    | some (t, g) => { s with keyring := aset s.keyring t g, keyNew := none, krcmd := setBits s.krcmd 63 63 0 }

/-! ## Recording (R415) -/

/-- Does the recorder run for a core, to record or to replay? It replays only a cluster outside every partition. -/
def State.recording (s : State) (c : CoreId) (replay : Bool) : Bool :=
  bit s.lvrctl 63 && (bit s.lvrctl 62 == replay) && !bit s.lvrctl 61 && decide (bits s.lvrctl 60 52 = (clusterOf c).toNat) &&
    (!replay || (List.range 16).all fun i => (s.partOf (BitVec.ofNat 13 (16 * (clusterOf c).toNat + i))).isNone)

/-- `n` words of device memory from a physical address on take contents whose layout the spec does not give: free values (log
entry 12). -/
def State.fillWords (s : State) (pa n : Nat) : State :=
  (List.range n).foldl (fun s i =>
    if pa + 8 * i < paMax then s.storeW (.dev monKey) (pa / 8 + i) (Config.freeWord (s.fresh * 2 ^ 52 + pa / 8 + i)) else s) s

/-- One value that enters the cluster: records of 32 bytes, 16 bytes of value each, until the buffer is full. -/
def State.lvRecord (s : State) (c : CoreId) (n : SlotId) (kind : Nat) (val : List Word) : State :=
  if s.recording c false = false then s
  else
    let recs : List (List Word) :=
      if val = [] then [[]] else (List.range ((val.length + 1) / 2)).map fun i => (val.drop (2 * i)).take 2
    let room := bits s.lvrctl 11 0 * 2 ^ 20 / 32
    if s.lvr.length + recs.length > room then { s with lvrctl := setBits s.lvrctl 61 61 1 }
    else
      ({ s with lvr := s.lvr ++ recs.map fun w => ⟨c, n, kind, (s.core c).retired, w⟩ } : State).fillWords
        (bits s.lvrctl 51 12 * 2 ^ 12 + 32 * s.lvr.length) (4 * recs.length)

/-- `LVR_RECORD` and `LVR_REPLAY`: EN set with REPLAY 0 or 1. -/
def execLvrRecord (s : State) : Out := .next (s.writeLvrctl (setBits s.lvrctl 63 62 2))
def execLvrReplay (s : State) : Out := .next (s.writeLvrctl (setBits s.lvrctl 63 62 3))

/-! ## Coupled pairs (R412) -/

def execPair (d : SReg) (a : Src) : State → Out :=
  issue needsSup (fun _ => [sN d, a.need]) fun v s => .pend (s.addReq (s.homeReq v (.pair 0 (v.s a)) (.s d))) .access
def execPairOff (d : SReg) (a : Src) : State → Out :=
  issue needsSup (fun _ => [sN d, a.need]) fun v s => .pend (s.addReq (s.homeReq v (.pair 1 (v.s a)) (.s d))) .access
def execPairSt (d : SReg) (a : Src) : State → Out :=
  issue needsSup (fun _ => [sN d, a.need]) fun v s => .pend (s.addReq (s.homeReq v (.pair 2 (v.s a)) (.s d))) .access

/-! ## The shadow handler (R368, R376, R377) -/

def inShadow (v : View) (_ : State) : Option TrapInfo := privTrap v.th .shadow

/-- An entry of the piece translation buffer is filled: the entry of the same version and ordinal, or a free one of 64,
or the least recently hit. -/
def fillPiece (l : List PieceEntry) (e : PieceEntry) : List PieceEntry :=
  let same (x : PieceEntry) : Bool := x.id == e.id && x.ver == e.ver && x.ord == e.ord
  if l.any same then l.map fun x => if same x then e else x
  else if l.length < 64 then l ++ [e]
  else
    let old := (l.map (·.used)).min?.getD 0
    match takeFirst (fun x => x.used == old) l with
    | some (_, r) => r ++ [e]
    | none => l ++ [e]

def execXlw (d : KReg) (a b : Src) : State → Out :=
  issue inShadow (fun _ => [kN d, a.need, b.need]) fun v s =>
    let k := v.th.k[d.toFin]
    let w := v.s a
    let r := v.s b
    if k.tag = false then .trap (kinfo 0 (some d) 0 0)
    else
      let e : PieceEntry :=
        { id := BitVec.ofNat 8 (bits w 7 0), ver := BitVec.ofNat 32 (bits w 47 16), ord := BitVec.ofNat 16 (bits w 63 48),
          first := bits r 63 32, rows := bits r 31 0, key := k, used := s.serial }
      .ok ((s.setHere { s.here with pieces := fillPiece s.here.pieces e }).bump)

def execXret : State → Out :=
  issue inShadow (fun _ => []) fun v s =>
    match v.th.shadow with
    | none => .ok s
    | some h =>
      let s' := s.setTh (leaveShadow s.th)
      if bit (v.sd 16) 63 then .gone (s'.takeTrap (indexTrap h.id 1 0 h.row))
      else match s'.targetTrap h.pc with
        | some i => .trap i
        | none => .jump s' h.pc false

end Sys2Proof.Machine
end

