-- ==== Sys2Proof/Machine/LaunchInstr.lean ====
section
/-! DEFINITION. `SPAWN`, `JOIN` and `CANCEL` (R76 to R86, R116 to R120). -/
namespace Sys2Proof.Machine

/-- `EINFO` of cause 0x0D that concerns a launch, a level or a message operand (R144). -/
def sourceInfo (src lvl idx : Nat) : Word := word (2 ^ 63 + src * 2 ^ 56 + lvl * 2 ^ 12 + idx % 4096)

/-! ## Places of a launch (R85) -/

/-- Threads of a launch at the place `rel` after the first. -/
def Launch.countAt (l : Launch) (rel : Nat) : Nat :=
  if l.spread then l.n / l.places + (if rel < l.n % l.places then 1 else 0)
  else
    let m := l.n % (16 * l.places)
    16 * (l.n / (16 * l.places)) + min 16 (m - 16 * rel)

/-- Index of the `k`-th thread of a place. -/
def Launch.nthIndex (l : Launch) (rel k : Nat) : Nat :=
  if l.spread then rel + k * l.places else k / 16 * (16 * l.places) + 16 * rel + k % 16

/-- Threads that stand in the entries of the places from `rel` on. -/
def Launch.rest (l : Launch) (rel : Nat) : Nat :=
  ((List.range (l.places - rel)).map fun i => l.countAt (rel + i)).sum

/-- Threads an entry has still to grant. -/
def Pending.left (p : Pending) : Nat := p.l.countAt p.rel - p.taken

namespace State

/-- The core of a launch's place. -/
def launchCore (s : State) (l : Launch) (rel : Nat) : CoreId := (s.part l.part).places.getD (l.first + rel) 0

/-- Pending-spawn entries from the place `rel` on, in ascending order (R86): where the writing stops at a full queue. -/
def writePending (s : State) (l : Launch) (rel : Nat) : Nat → State × Option Nat
  | 0 => (s, none)
  | n + 1 =>
    if l.countAt rel = 0 then s.writePending l (rel + 1) n
    else
      let cl := clusterOf (s.launchCore l rel)
      let x := s.cluster cl
      if 256 ≤ x.pending.length then (s, some rel)
      else (s.setCluster cl { x with pending := x.pending ++ [⟨l, rel, 0⟩] }).writePending l (rel + 1) n

/-- A launch entry is allocated (R78): SEALED with its count under a graph that counts it (R77), or DONE under a cancelled
entry (R83). Answers the entry's id and whether threads are to be made. -/
def allocLaunch (s : State) (i : Nat) (g : EntryId) (tenant : BitVec 9) (n : Nat) (stamp : Option Nat) :
    State × BitVec 16 × Bool :=
  let e : EntryId := ⟨g.part, .launch, i⟩
  let gen := (s.lv e).gen + 1
  let id : BitVec 16 := BitVec.ofNat 16 (gen.toNat * 4096 + i)
  let x : LvEntry := ⟨.sealed, false, gen, tenant, g.idx, n, stamp⟩
  if s.cancelled 4 g then (s.setLv e { x with st := .done, count := 0 }, id, false)
  else
    let s := (s.setLv e x).addCount g 1
    (if n = 0 then s.dropCount 4 e 0 else s, id, n != 0)

/-! ## Retiring threads (R82) -/

/-- The window-stack area of a thread is free again, at once on its home core, else by a release (R109, R216). -/
def freeArea (s : State) (c : CoreId) (t : Thread) : State :=
  let home := s.stackCore c t
  let a := t.area
  if home = c then s.setCore c { s.core c with areas := (s.core c).areas &&& ~~~BitVec.ofNat 16 (2 ^ a) }
  else { s with releases := s.releases ++ [⟨s.serial, c, home, a⟩], serial := s.serial + 1 }

/-- The row-fault records of a retired thread stay with their rows (R272). -/
def orphanFaults (s : State) (c : CoreId) (t : Thread) : State :=
  let x := s.core c
  s.setCore c { x with orphans := x.orphans ++ t.rowFaults.map fun f => ⟨t.launch, t.tenant, f.tile, f.row⟩ }

/-- A thread that stands in no slot has retired (R77, R109). -/
def threadGone (s : State) (c : CoreId) (t : Thread) : State :=
  ((s.orphanFaults c t).freeArea c t).dropCount 4 (launchEntry ((s.partOf c).getD 64) t.launch) 1

/-- Is a request withdrawn when its thread is cancelled? Loads that wait are; posted stores still perform. -/
def withdrawn (r : Req) (uid : Nat) : Bool :=
  r.uid == uid && !(r.relaxed && r.dst == .none) &&
    (match r.stage with
     | .rows => true
     | .page => true
     | .waiting => true
     | .backoff _ => true
     | _ => false)

/-- Waits of a thread leave the page-request queues, the wait lists and the reservations. -/
def dropWaits (s : State) (uid : Nat) : State :=
  let gone := (s.reqs.filter fun r => withdrawn r uid).map (·.id)
  let keep (w : PageWaiter) : Bool :=
    match w with
    | .thread _ _ u => u != uid
    | .req i => !gone.contains i
    | _ => true
  let clean (l : List PageReq) : List PageReq :=
    (l.map fun r => { r with waiters := r.waiters.filter keep }).filter fun r => !r.waiters.isEmpty
  { s with
    reqs := s.reqs.filter fun r => !withdrawn r uid
    dies := s.dies.map fun d => (d.1, { d.2 with pageq := clean d.2.pageq, held := clean d.2.held })
    resvs := s.resvs.filter fun r => r.uid ≠ uid
    cores := s.cores.map fun p => (p.1, { p.2 with
      landing := p.2.landing.filter fun l => match l with | .reserved _ _ u => u != uid | _ => true }) }

/-- Special functions that have not started leave their queue, and their rows are full (R279). -/
def dropSfu (s : State) (c : CoreId) (uid : Nat) : State :=
  let x := s.core c
  let mine := (x.sfuq ++ x.sfuSusp).filter fun e => e.uid == uid
  let s := s.setCore c { x with sfuq := x.sfuq.filter fun e => e.uid ≠ uid, sfuSusp := x.sfuSusp.filter fun e => e.uid ≠ uid }
  mine.foldl (fun s e => s.fillRow c e.tile e.row e.tok (s.rowCell c e.tile e.row).v) s

/-- `CANCEL` retires the thread of a slot. A spawner's entries that are not yet written are no longer counted (R117). -/
def cancelSlot (s : State) (c : CoreId) (n : SlotId) : State :=
  let x := s.slotAt c n
  match x.st with
  | .free => s
  | .disabled => s
  | .draining => s.setSlot c n { x with drain := .retire }
  | .loading => s.setSlot c n { x with cancelled := true }
  | _ =>
    let s : State := match x.wait with
      | .spawnQueue l rel => if x.st = .parked ∨ x.st = .heldParked then s.dropCount 4 (launchEntry l.part l.id) (l.rest rel) else s
      | _ => s
    ((s.dropWaits x.th.uid).dropSfu c x.th.uid).retire c n

/-- Does a thread on a core lie below an entry? -/
def below (s : State) (c : CoreId) (t : Thread) (e : EntryId) : Bool :=
  let i := launchEntry e.part t.launch
  s.partOf c == some e.part && (s.lv i).gen.toNat == t.launch.toNat / 4096 && s.within 4 i e

/-- Pending-spawn entries below an entry are removed. -/
def cancelPending (s : State) (e : EntryId) : State :=
  let hit (p : Pending) : Bool := p.l.part == e.part && s.within 4 (launchEntry p.l.part p.l.id) e
  let gone := s.clusters.flatMap fun p => p.2.pending.filter hit
  let s1 : State := { s with clusters := s.clusters.map fun p => (p.1, { p.2 with pending := p.2.pending.filter fun x => !hit x }) }
  gone.foldl (fun s p => s.dropCount 4 (launchEntry p.l.part p.l.id) p.left) s1

/-- Spawners of a launch below an entry write no more of its entries. -/
def cancelSpawners (s : State) (e : EntryId) : State :=
  s.cores.foldl (fun s p => (List.finRange 16).foldl (fun s n =>
    let x := s.slotAt p.1 n
    match x.wait with
    | .spawnQueue l rel =>
      if (x.st = .parked ∨ x.st = .heldParked) ∧ l.part = e.part ∧ s.within 4 (launchEntry l.part l.id) e then
        (s.setSlot p.1 n { x with wait := .woken }).dropCount 4 (launchEntry l.part l.id) (l.rest rel)
      else s
    | _ => s) s) s

/-- Host launches below an entry write no more of their entries (R82, R86). -/
def cancelRest (s : State) (e : EntryId) : State :=
  s.cmds.foldl (fun s x =>
    match x.rest with
    | some (l, rel) =>
      if l.part = e.part ∧ s.within 4 (launchEntry l.part l.id) e then
        ({ s with cmds := s.cmds.map fun y => if y.seq = x.seq then { y with rest := some (l, l.places) } else y } : State).dropCount 4
          (launchEntry l.part l.id) (l.rest rel)
      else s
    | none => s) s

/-- Threads of a core below an entry: in slots, in landing entries, in suspension records. -/
def cancelCore (s : State) (e : EntryId) (c : CoreId) : State :=
  let s := (List.finRange 16).foldl (fun s n =>
    let x := s.slotAt c n
    if x.st ≠ .free ∧ x.st ≠ .disabled ∧ s.below c x.th e then s.cancelSlot c n else s) s
  let x := s.core c
  let land (l : Landing) : Option Thread := match l with | .waits t => if s.below c t e then some t else none | _ => none
  let gone := x.landing.filterMap land ++ (x.susp.filter fun r => s.below c r.th e).map (·.th)
  let s := s.setCore c { x with
    landing := x.landing.filter fun l => (land l).isNone
    susp := x.susp.filter fun r => !s.below c r.th e }
  gone.foldl (fun s t => s.threadGone c t) s

/-- CANC of an entry and of the entries below it, which read it from an ancestor that a `CANCEL` named (R79, R82). -/
def markCanc (s : State) (e : EntryId) : State :=
  let x := s.part e.part
  s.setPart e.part { x with levels := x.levels.map fun q =>
    if (q.2.st ≠ .free) ∧ s.within 4 ⟨e.part, q.1.1, q.1.2⟩ e then (q.1, { q.2 with canc := true }) else q }

/-- The effect of `CANCEL` on an entry that is OPEN or SEALED (R82). -/
def cancelEntry (s : State) (e : EntryId) : State :=
  let s := s.markCanc e
  let s := (s.sealEntry e).getD s
  let s := ((s.cancelSpawners e).cancelRest e).cancelPending e
  let s := s.cores.foldl (fun s p => s.cancelCore e p.1) s
  let s : State := { s with packets := s.packets.map fun p => if s.below p.target p.th e then { p with cancelled := true } else p }
  s.cancelNodes e

end State

/-! ## `SPAWN` (R116, R117) -/

def argRegs (g : SReg) : List SReg := [g, g + 1, g + 2, g + 3]

/-- The checks of `SPAWN` on its count, class and range (R117). -/
def spawnTrap (v : View) (s : State) (cnt rng q : Word) : Option TrapInfo :=
  if bits cnt 63 17 ≠ 0 then some ⟨0x0D, sourceInfo 2 0 0, cnt, 0⟩
  else if bits q 63 32 ≠ 0 ∨ bits q 30 17 ≠ 0 ∨ bits q 7 2 ≠ 0 then some ⟨0x0D, sourceInfo 3 0 0, q, 0⟩
  else if bits rng 29 16 = 0 ∨ bits rng 63 30 ≠ 0 ∨ bits rng 15 13 ≠ 0 ∨
      bits rng 12 0 + bits rng 29 16 > (s.placesOf s.cur.core).length then some ⟨0x05, rng, 0, 0⟩
  else
    let g : EntryId := if bit q 31 then s.graphOf v.th else ⟨s.partHere, .graph, bits q 16 8⟩
    let x := s.lv g
    if x.tenant ≠ v.th.tenant then some ⟨0x02, 1, 0, 0⟩
    else if x.st = .free ∨ x.st = .done then some ⟨0x0D, sourceInfo 1 1 g.idx, 0, 0⟩
    else none

def execSpawn (d : SReg) (spread : Bool) (cnt rng args q : Src) (e : BTarget) : State → Out :=
  issue noShadow
    (fun _ => [sN d, cnt.need, rng.need] ++ (argRegs args.reg).map (fun r => ⟨.s r, args.wait⟩) ++ [q.need] ++
      (List.range 8).map fun i => kN (BitVec.ofNat 3 i))
    fun v s =>
      let go := branchTarget v.th.pc e
      let w := v.s q
      match s.targetTrap go with
      | some t => .trap t
      | none =>
        match spawnTrap v s (v.s cnt) (v.s rng) w with
        | some t => .trap t
        | none =>
          let g : EntryId := if bit w 31 then s.graphOf v.th else ⟨s.partHere, .graph, bits w 16 8⟩
          match s.freeLaunch s.partHere with
          | none => .park .launchEntry
          | some i =>
            let n := bits (v.s cnt) 16 0
            let (s, id, run) := s.allocLaunch i g v.th.tenant n none
            let s := s.setTh (s.th.setS d (word id.toNat))
            let l : Launch :=
              { part := g.part, id := id, tenant := v.th.tenant, first := bits (v.s rng) 12 0, places := bits (v.s rng) 29 16,
                n := n, spread := spread, pc := go, args := (argRegs args.reg).map v.sd, q := BitVec.ofNat 2 (bits w 1 0),
                keys := v.th.k, tvec := v.th.tvec, level := v.th.level, gate := if s.isCoupled s.cur.core then some s.cur.core else none }
            if run then
              match s.writePending l 0 l.places with
              | (s, none) => .ok s
              | (s, some rel) => .wait s (.spawnQueue l rel)
            else .ok s

/-! ## `JOIN` and `CANCEL` (R80, R82, R84, R119, R120) -/

/-- Bits of an index register. -/
def lvlBits : Lvl → Nat
  | .launch => 16
  | .graph => 9
  | .phase => 6
  | .job => 4

/-- The entry that an index register names, when it is OPEN or SEALED and, for a launch, of the named generation. -/
def State.named (s : State) (l : Lvl) (w : Word) : Option EntryId :=
  let i := w.toNat % 2 ^ lvlBits l
  let e : EntryId := if l = .launch then launchEntry s.partHere (BitVec.ofNat 16 i) else ⟨s.partHere, l, i⟩
  let x := s.lv e
  if x.st = .free ∨ x.st = .done ∨ (l = .launch ∧ x.gen.toNat ≠ i / 4096) then none else some e

/-- The checks that `JOIN` and `CANCEL` share; `k` acts on a live entry of the thread's tenant. -/
def levelBody (l : Lvl) (w : Word) (v : View) (s : State) (k : EntryId → Head) : Head :=
  if w.toNat / 2 ^ lvlBits l ≠ 0 then .trap ⟨0x0D, sourceInfo 4 l.num (bits w 11 0), w, 0⟩
  else match s.named l w with
    | none => .ok s
    | some e => if (s.lv e).tenant ≠ v.th.tenant then .trap ⟨0x02, word l.num, 0, 0⟩ else k e

def execJoin (l : Lvl) (a : Src) : State → Out :=
  plain [a.need] fun v s => levelBody l (v.s a) v s fun e => .wait s (.entry e)

def execCancel (l : Lvl) (a : Src) : State → Out :=
  plain [a.need] fun v s => levelBody l (v.s a) v s fun e =>
    let mine := s.below s.cur.core v.th e
    let s := s.cancelEntry e
    if mine then .gone s
    else if (s.lv e).st = .done then .ok s
    else .wait s (.entry e)

end Sys2Proof.Machine
end

