-- ==== Sys2Proof/Machine/Messages.lean ====
section
/-! DEFINITION. Messages, neighbour ports and `MIGR` (R207, R208, R218 to R231). -/
namespace Sys2Proof.Machine

namespace State

/-! ## The inbox (R218, R219) -/

/-- Entries reserved for a message. -/
def reservedFor (x : Inbox) (m : Nat) : Nat := agetD x.reserved m 0

/-- A recorded message whose entries are reserved gets its retry notice. -/
def giveNotice (s : State) (m : Nat) : State :=
  ({ s with msgs := s.msgs.map fun x =>
      if x.id = m ∧ x.stage = .recorded then { x with stage := .notice, inj := s.serial } else x } : State).bump

/-- One inbox entry has freed: it is reserved for the oldest recorded sender, which is sent its notice once the inbox holds
as many as the message needs. -/
def inboxFreed (s : State) (c : CoreId) : State :=
  let k := s.core c
  match k.inbox.refused with
  | [] => s
  | (m, n) :: r =>
    let have_ := reservedFor k.inbox m + 1
    let x := { k.inbox with reserved := aset k.inbox.reserved m have_ }
    if n ≤ have_ then (s.setCore c { k with inbox := { x with refused := r } }).giveNotice m
    else s.setCore c { k with inbox := x }

/-- Is a node's drain still running (R208)? -/
def undrained (s : State) (id : NodeId) : Bool :=
  let n := s.node id.cl id.idx
  n.gen == id.gen && n.st != .free && !n.told

end State

/-! ## `SEND` and `RECV` (R224, R225) -/

/-- Registers from `r` on, `n` of them. -/
def regRun (r : SReg) (n : Nat) : List SReg := (List.range n).map fun i => r + BitVec.ofNat 5 i

def execSend (p : SReg) (n : BitVec 3) (a b : Src) : State → Out :=
  plain ([sN p] ++ (regRun a.reg n.toNat).map (fun r => ⟨.s r, a.wait⟩) ++ [b.need]) fun v s =>
    let w := v.s b
    let k := bits w 39 32
    let place := v.sd p
    if bits w 62 40 ≠ 0 ∨ (bit w 63 ∧ v.th.level = .user) then .trap ⟨0x0D, sourceInfo 5 0 0, w, 0⟩
    else if 1 ≤ k ∧ k ≤ 0x7F then .trap ⟨0x02, word k, 0, 0⟩
    else match s.placeCore s.cur.core place.toNat with
      | none => .trap { kinfo 3 none 0 place with info2 := place }
      | some c =>
        if 2 ≤ s.me.sends then .park .sendEntry
        else
          let hdr := msgHeader k v.th.place n.toNat s.cur.slot.val (bits w 31 0)
          let e : InEntry := ⟨msgWords hdr ((regRun a.reg n.toNat).map v.sd), v.th.tenant, bit w 63, none, []⟩
          .ok ((s.setMe { s.me with sends := s.me.sends + 1 }).send (.slot s.cur.core s.cur.slot) c [e])

/-- What a dequeued completion does (R208, R318, R356): its node joins the acquire list, its head motion is charged. -/
def acquireNode (n : TaskNote) (s : State) : State :=
  let s := s.setTh { s.th with shcnt := s.th.shcnt + word n.moved }
  if n.ranges ≠ [] ∧ s.undrained n.node then
    s.setHere { s.here with acquire := s.here.acquire ++ [⟨n.node, n.ranges⟩] }
  else s

/-- A register that takes an uncorrectable word is empty-with-fault with cause 0x14 (R148, R414). -/
def Thread.loseS (t : Thread) (r : SReg) : Thread :=
  if r = 0 then t else { t with s := t.s.set r.toFin ⟨0, .fault ⟨t.uid, t.pc, 0x14, 0, 0, 0⟩⟩ }

/-- `RECV` (R225). A word of the entry that an uncorrectable error has taken leaves its register empty-with-fault, as a lost register
is: the model's choice, since R414 says nothing of an inbox word (log entry 105). -/
def execRecv (d : SReg) : State → Out :=
  plain ((regRun d 8).map sN) fun v s =>
    match takeFirst (msgMatches v.th) s.here.inbox.entries with
    | none => .park .recv
    | some (e, r) =>
      let hdr := e.words.headD 0
      if bits hdr 63 56 = 1 ∧ 16 ≤ s.here.acquire.length then .park .acquire
      else
        let len := bits hdr 42 40
        let t := (List.range 8).foldl (fun (t : Thread) i =>
          let r := d + BitVec.ofNat 5 i
          if i ≤ len ∧ e.bad.contains i then t.loseS r else t.setS r (if i ≤ len then e.words.getD i 0 else 0)) s.th
        let s := (s.setHere { s.here with inbox := { s.here.inbox with entries := r } }).setTh t
        let s := match e.task with | some n => acquireNode n s | none => s
        .ok (s.inboxFreed s.cur.core)

/-! ## Neighbour ports (R226, R227) -/

namespace State

/-- Words in a port's FIFO and on their way to it. -/
def portLoad (s : State) (c : CoreId) (p : Port) : Nat :=
  ((s.core c).ports[p.idx]).length + (s.words.filter fun w => w.dst == c && w.port == p).length

end State

def execNsend (d : SReg) (p : Port) : State → Out :=
  plain [sN d] fun v s =>
    match s.peer s.cur.core p with
    | none => .ok s
    | some c =>
      if 4 ≤ s.portLoad c p.opposite then .park (.portOut p)
      else .ok { s with
        words := s.words ++ [⟨s.serial, s.cur.core, c, p.opposite, v.sd d, s.isCoupled s.cur.core⟩], serial := s.serial + 1 }

def execNrecv (d : SReg) (p : Port) : State → Out :=
  plain [sN d] fun _ s =>
    match s.here.ports[p.idx] with
    | [] => .park (.portIn p)
    | w :: r => putS d w (s.setHere { s.here with ports := s.here.ports.set p.idx r })

/-! ## `MIGR` (R228, R229, R231) -/

/-- `MIGR` (R231). The conditions of R228 are asked of the thread as the bundle's other head, which takes effect at the origin, leaves
it. -/
def execMigr (d : SReg) : State → Out :=
  plain [sN d] fun v s =>
    let w := v.sd d
    match s.placeCore s.cur.core w.toNat with
    | none => .trap { kinfo 3 none 0 w with info2 := w }
    | some c =>
      if w.toNat = v.th.place ∨ s.mayMigrate s.cur.core s.th = false then .ok s
      else .wait (s.requestMigration s.cur.core s.cur.slot w.toNat c) .migrate

end Sys2Proof.Machine
end

