-- ==== Sys2Proof/Machine/Network.lean ====
section
/-! DEFINITION. The omega network: the ports of its two planes, the one path between two ports, and the order in which the packets of
one pair of ports arrive (R19, R213, R214). -/
namespace Sys2Proof.Machine

/-! ## Ports and paths -/

/-- The planes (R213). -/
inductive NetPlane | request | reply
  deriving DecidableEq, Repr, Inhabited

/-- Port of a core's cluster (R19). -/
def clusterPort (c : CoreId) : Nat := (clusterOf c).toNat

/-- Memory port by which the accesses of a core's cluster reach slice `n` (R214). -/
def memPort (n : Nat) (c : CoreId) : Nat := 512 + 8 * n + (clusterOf c).toNat % 8

/-- Port of a sender of messages. The spec names none for a copy engine's messages and for Waliasal: the engine's first one and a control
port are the model's choice (log entry 102). -/
def Sender.port : Sender → Nat
  | .slot c _ => clusterPort c
  | .tide c _ => clusterPort c
  | .engine e => 1280 + 4 * e.toNat
  | .home p => p
  | .waliasal => 1440

/-- The perfect shuffle of an 11-bit port number. -/
def shuffle (x : Nat) : Nat := x % 1024 * 2 + x / 1024

/-- Where a packet to port `q` stands after its first `n` stages, from port `p` (R213): stage i forwards it on output `q[10 − i]`. -/
def pathTo (p q : Nat) : Nat → Nat
  | 0 => p
  | i + 1 => shuffle (pathTo p q i) / 2 * 2 + q / 2 ^ (10 - i) % 2

/-! ## Packets in flight -/

/-- A packet between two ports, with its place in the order of injection. -/
structure Wire where
  plane : NetPlane
  src   : Nat
  dst   : Nat
  inj   : Nat
  deriving DecidableEq, Repr, Inhabited

/-- Address of byte `j` of a run of parts. -/
def locate : List (Nat × Nat) → Nat → Nat
  | [], j => j
  | (p, n) :: r, j => if j < n then p + j else locate r (j - n)

/-- Byte `j` of an access in its space. -/
def Req.loc (r : Req) (j : Nat) : Nat := if r.dev then locate r.pas j else r.va % 2 ^ 18 + j

/-- The words an access covers, in order. -/
def Req.words (r : Req) : List Nat :=
  (List.range ((r.va % 8 + r.size + 7) / 8)).map fun i => r.loc (8 * i - r.va % 8) / 8

/-- The slice that an access to device memory reaches (R18). -/
def Req.slice (r : Req) : Nat := sliceOf (r.loc 0)

/-- A decision at a home that names no words of its own: it has no address. -/
def Op.atHome : Op → Bool
  | .ver .. => true
  | .spin .. => true
  | .unpin .. => true
  | .splice .. => true
  | .task .. => true
  | .tdep .. => true
  | .tdepGo _ => true
  | .rtbl .. => true
  | .pair .. => true
  | .harvest .. => true
  | _ => false

/-- Is it the access of a tile image? -/
def Op.image : Op → Bool
  | .asave .. => true
  | .aload _ => true
  | _ => false

/-- The array head that waits beside the scalar head of a bundle (R31). -/
inductive Mate
  | none
  | image (q : Req)
  | swap (e : AEntry)
  deriving DecidableEq, Repr, Inhabited

/-- The way of an access to its home; none for one of another part. What a thread reads or writes in its own core's local store does not leave the core (R188). -/
def Req.way (r : Req) : List Wire :=
  if r.far.isSome then []
  else if r.dev then [⟨.request, clusterPort r.core, memPort r.slice r.core, r.inj⟩]
  else if r.home = r.core then []
  else [⟨.request, clusterPort r.core, clusterPort r.home, r.inj⟩]

/-- The way back on the reply plane. -/
def Wire.back (w : Wire) : Wire := ⟨.reply, w.dst, w.src, w.inj⟩

def Probe.wire (p : Probe) : Wire :=
  let w : Wire := ⟨.request, clusterPort p.core, memPort p.slice p.core, p.inj⟩
  if p.echo then w.back else w

def Packet.wire (p : Packet) : Wire := ⟨.request, clusterPort p.src.1, clusterPort p.target, p.id⟩
def Release.wire (r : Release) : Wire := ⟨.reply, clusterPort r.src, clusterPort r.core, r.id⟩
def RowRet.wire (r : RowRet) : Wire := ⟨.request, clusterPort r.core, clusterPort r.target, r.id⟩

def Resv.wires (r : Resv) : List Wire :=
  let w : Wire := ⟨.request, clusterPort r.core, clusterPort r.target, r.inj⟩
  match r.stage with
  | .flight => [w]
  | .granted => [w.back]
  | _ => []

namespace State

/-- The array head that waits beside a scalar head of its thread. -/
def mateOf (s : State) (c : CoreId) (uid : Nat) : Mate :=
  match s.reqs.find? fun q => q.uid == uid && q.ordinary && q.op.image with
  | some q => .image q
  | none =>
    match (s.core c).arrayq.find? fun e => e.uid == uid && e.op == .mswap with
    | some e => .swap e
    | none => .none

/-- Is another request combined into this one (R215)? -/
def leads (s : State) (i : Nat) : Bool :=
  s.reqs.any fun r => match r.stage with | .combined l .. => l == i | _ => false

/-- An access that has reached its home and waits there for the other head of its bundle (R31), or whose home is no port of its own: it
keeps nothing behind it. One of another part comes in by a fabric port, whose memory ports the spec does not name: nothing orders it. -/
def offWire (s : State) (r : Req) : Bool :=
  r.gate || r.op.atHome || r.far.isSome || s.recording r.core true ||
    (r.ordinary && (r.op.image || s.mateOf r.core r.uid != .none))

/-- The packet that an access is at. A reply that its core still has a use for elsewhere has arrived. -/
def reqWires (s : State) (r : Req) : List Wire :=
  if s.offWire r then []
  else match r.stage with
    | .home => r.way
    | .reply =>
      if r.upd.isSome || s.leads r.id || (r.dev && r.pas.isEmpty) || (match r.dst with | .v _ => true | _ => false) then []
      else r.way.map Wire.back
    | _ => []

/-- May the inbox take a message: in entries reserved for it, as the first of the recorded ones, or in free ones (R218)? -/
def fits (x : Inbox) (m : Msg) : Bool :=
  let n := m.entries.length
  if reservedFor x m.id = 0 then decide (n ≤ x.free)
  else decide (n ≤ reservedFor x m.id) && (match x.reserved with | (i, _) :: _ => i == m.id | [] => false)

/-- The packet that a message is: on its way, or coming back. One that waits for its turn in reserved entries has arrived. -/
def msgWires (s : State) (m : Msg) : List Wire :=
  let w : Wire := ⟨.request, m.src.port, clusterPort m.core, m.inj⟩
  let x := (s.core m.core).inbox
  let out : List Wire := if m.gate || (reservedFor x m.id != 0 && !fits x m) then [] else [w]
  match m.stage with
  | .flight => out
  | .again => out
  | .bounced _ => [w.back]
  | .refused => [w.back]
  | .notice => [w.back]
  | _ => []

/-- Every packet in flight whose arrival others may have to wait for. -/
def wires (s : State) : List Wire :=
  s.reqs.flatMap s.reqWires ++ s.msgs.flatMap s.msgWires ++ s.packets.map Packet.wire ++ s.resvs.flatMap Resv.wires ++
    s.probes.map Probe.wire ++ s.releases.map Release.wire ++
    (s.returns.filter fun r => !r.gate).map RowRet.wire

/-- No packet that was injected earlier is still on the same way (R214). -/
def clear (s : State) (w : Wire) : Bool :=
  !(s.wires.any fun v => v.plane == w.plane && v.src == w.src && v.dst == w.dst && decide (v.inj < w.inj))

/-- May a packet arrive now? -/
def onTime (s : State) (l : List Wire) : Bool := l.all s.clear

end State

end Sys2Proof.Machine
end

