-- ==== Sys2Proof/Machine/EvMessages.lean ====
section
/-! DEFINITION. Steps of the message network: acceptance, bounces and retries, neighbour words, migration reservations and
packets, window-stack releases (R109, R218, R223, R227, R229, R230). -/
namespace Sys2Proof.Machine

namespace State

def msg (s : State) (m : Nat) : Option Msg := s.msgs.find? fun x => x.id == m

/-- A message in a new stage, as a packet injected now where the stage is one of a packet. -/
def setStage (s : State) (m : Nat) (st : MsgStage) : State :=
  ({ s with msgs := s.msgs.map fun x => if x.id = m then { x with stage := st, inj := s.serial } else x } : State).bump

/-- The send entry of a slot is free again (R216). -/
def freeSend (s : State) (src : Sender) : State :=
  match src with
  | .slot c n => let x := s.slotAt c n; s.setSlot c n { x with sends := x.sends - 1 }
  | _ => s

/-- Entries reserved for a message are free again. -/
def unreserve (s : State) (c : CoreId) (m : Nat) : State :=
  let k := s.core c
  let n := reservedFor k.inbox m
  let s := s.setCore c { k with inbox := { k.inbox with
    reserved := adel k.inbox.reserved m, refused := k.inbox.refused.filter fun p => p.1 ≠ m } }
  Nat.repeat (fun s => s.inboxFreed c) n s

/-- A message leaves the network for good. -/
def dropMsg (s : State) (m : Msg) : State :=
  ({ s with msgs := s.msgs.filter fun x => x.id ≠ m.id } : State).unreserve m.core m.id |>.freeSend m.src

/-- Can a message arrive: it travels, is not held back, and no earlier packet is on its way (R214)? The messages of one sender to one
place that have not bounced come in send order with it (R223). -/
def arrived (s : State) (m : Msg) : Bool := !m.gate && (m.stage == .again || m.stage == .flight) && s.onTime (s.msgWires m)

/-- The entries of a message join the inbox (R219, R223). -/
def acceptMsg (s : State) (m : Msg) : State :=
  let k := s.core m.core
  let s := s.setCore m.core { k with inbox := { k.inbox with
    entries := k.inbox.entries ++ m.entries, reserved := adel k.inbox.reserved m.id } }
  let s := m.entries.foldl (fun s e => s.lvRecord m.core 0 (if e.task.isSome then 5 else 2) e.words) s
  ({ s with msgs := s.msgs.filter fun x => x.id ≠ m.id } : State).freeSend m.src

/-- A cluster that replays sends nothing out (R415). -/
def silenced (s : State) (m : Msg) : Bool :=
  match m.src with
  | .slot c _ => s.recording c true && clusterOf c != clusterOf m.core
  | .tide c _ => s.recording c true && clusterOf c != clusterOf m.core
  | _ => false

/-- The inbox returns a message, and records its sender if the refusal list has room (R218). -/
def bounceMsg (s : State) (m : Msg) : State :=
  let k := s.core m.core
  if k.inbox.refused.length < 32 then
    (s.setCore m.core { k with inbox := { k.inbox with refused := k.inbox.refused ++ [(m.id, m.entries.length)] } }).setStage
      m.id (.bounced true)
  else s.setStage m.id (.bounced false)

/-- The core whose `CYCLE` counts a sender's 256 arithmetic cycles (R218): its own; for an engine, a home or Waliasal, which have no
cycle register, that of the core the message is for, which counts the same cycles: the model's choice (log entry 102). -/
def pacer (m : Msg) : CoreId :=
  match m.src with
  | .slot c _ => c
  | .tide c _ => c
  | _ => m.core

end State

/-- `MESSAGE_ACCEPTANCE` (R218, R223). -/
def execMessageAcceptance (m : Nat) (s : State) : Out :=
  .next <|
    match s.msg m with
    | none => s
    | some x =>
      if x.row.isSome ∨ s.arrived x = false then s
      else if s.silenced x then s.dropMsg x
      else if State.fits (s.core x.core).inbox x then s.acceptMsg x
      else if State.reservedFor (s.core x.core).inbox m = 0 then s.bounceMsg x
      else s

/-- `BOUNCE_RETURN` (R218): the message is back in its send entry. -/
def execBounceReturn (m : Nat) (s : State) : Out :=
  .next <|
    match s.msg m with
    | none => s
    | some x =>
      if s.onTime (s.msgWires x) = false then s
      else match x.stage with
      | .bounced true =>
        if (s.core x.core).inbox.refused.any fun p => p.1 == m then s.setStage m .recorded else s.setStage m .notice
      | .bounced false => s.setStage m (.backoff ((s.core (State.pacer x)).cycle + 256))
      | _ => s

/-- `RETRY_NOTICE` (R218). -/
def execRetryNotice (m : Nat) (s : State) : Out :=
  .next <|
    match s.msg m with
    | none => s
    | some x => if x.stage = .notice ∧ s.onTime (s.msgWires x) then s.setStage m .again else s

/-- `BOUNCE_RETRANSMIT` (R218). -/
def execBounceRetransmit (m : Nat) (s : State) : Out :=
  .next <|
    match s.msg m with
    | none => s
    | some x =>
      match x.stage with
      | .backoff due => if due ≤ (s.core (State.pacer x)).cycle then s.setStage m .again else s
      | _ => s

/-- `NEIGHBOUR_WORD_ARRIVAL` (R226, R227): words of one port arrive in order. -/
def execNeighbourWordArrival (m : Nat) (s : State) : Out :=
  .next <|
    match s.words.find? fun w => w.id == m with
    | none => s
    | some w =>
      if w.gate ∨ ((s.words.takeWhile fun x => x.id ≠ m).any fun x => x.dst == w.dst && x.port == w.port) then s
      else
        let s := s.lvRecord w.dst (w.port.idx.castLE (by decide)) 3 [w.word]
        let k := s.core w.dst
        let q := k.ports[w.port.idx]
        ({ s with words := s.words.filter fun x => x.id ≠ m } : State).setCore w.dst
          { k with ports := k.ports.set w.port.idx (q ++ [w.word]) }

/-! ## Migration (R229, R230) -/

namespace State

def setResv (s : State) (m : Nat) (st : ResStage) : State :=
  ({ s with resvs := s.resvs.map fun r => if r.id = m then { r with stage := st, inj := s.serial } else r } : State).bump

/-- A landing entry is reserved for a request. -/
def grantLanding (s : State) (r : Resv) : State :=
  let k := s.core r.target
  (s.setCore r.target { k with
    landing := k.landing ++ [.reserved r.core r.slot r.uid], resvq := k.resvq.filter fun i => i ≠ r.id }).setResv r.id .granted

/-- Requests that still wait at a core, oldest first. -/
def waitingResv (s : State) (c : CoreId) : List Nat :=
  (s.core c).resvq.filter fun i => s.resvs.any fun r => r.id == i

end State

/-- `RESERVATION_REQUEST` (R229): a request that arrives, or the oldest queued one once an entry is free, is granted a landing
entry; else it is queued, or refused by a full queue. -/
def execReservationRequest (m : Nat) (s : State) : Out :=
  .next <|
    match s.resvs.find? fun r => r.id == m with
    | none => s
    | some r =>
      let k := s.core r.target
      let q := s.waitingResv r.target
      let room := decide (k.landing.length < 4)
      match r.stage with
      | .flight =>
        if s.onTime r.wires = false then s
        else if room ∧ q = [] then s.grantLanding r
        else if q.length < 64 then (s.setCore r.target { k with resvq := q ++ [m] }).setResv m .queued
        else s.setResv m (.backoff ((s.core r.core).cycle + 256))
      | .queued => if room ∧ q.head? = some m then s.grantLanding r else s
      | _ => s

/-- A landing entry reserved for a thread is released (R229). -/
def State.freeLanding (s : State) (c : CoreId) (uid : Nat) : State :=
  let k := s.core c
  s.setCore c { k with landing := k.landing.filter fun l => match l with | .reserved _ _ u => u != uid | _ => true }

/-- `RESERVATION_GRANT` (R229): the grant wakes the thread, which drains if it may still migrate (R148, R228). In a disabled slot the
thread is then HELD and, being migratable with a target found, drains from there (R68); the slot is DISABLED after it. A thread
that may not migrate any more goes on, and its landing entry is released. -/
def execReservationGrant (m : Nat) (s : State) : Out :=
  .next <|
    match s.resvs.find? fun r => r.id == m with
    | none => s
    | some r =>
      if r.stage ≠ .granted ∨ s.onTime r.wires = false then s
      else
        let x := s.slotAt r.core r.slot
        let s : State := { s with resvs := s.resvs.filter fun y => y.id ≠ m }
        if x.th.uid ≠ r.uid ∨ (x.st ≠ .parked ∧ x.st ≠ .heldParked) then s
        else
          let s := s.wake r.core r.slot
          if s.mayMigrate r.core x.th = false then s.freeLanding r.target r.uid
          else
            let y := s.slotAt r.core r.slot
            s.setSlot r.core r.slot { y with
              st := .draining, drain := .migrate r.place r.target, chosen := y.chosen || y.st == .held }

/-- `RESERVATION_RESEND` (R229). -/
def execReservationResend (m : Nat) (s : State) : Out :=
  .next <|
    match s.resvs.find? fun r => r.id == m with
    | none => s
    | some r =>
      match r.stage with
      | .backoff due => if due ≤ (s.core r.core).cycle then s.setResv m .flight else s
      | _ => s

/-- A thread as its packet carries it (R108, R230). -/
def landed (t : Thread) : Thread :=
  { t with
    callers := []
    spill := 0
    d := Vector.replicate 16 DCell.zero
    tmask := 0
    einfo := 0
    einfo2 := 0
    line := none }

/-- `MIGRATION_PACKET_ARRIVAL` (R229): the packet fills its landing entry; a thread cancelled meanwhile retires (R82). -/
def execMigrationPacketArrival (m : Nat) (s : State) : Out :=
  .next <|
    match s.packets.find? fun p => p.id == m with
    | none => s
    | some p =>
      if s.clear p.wire = false then s
      else
      let s : State := { s with packets := s.packets.filter fun x => x.id ≠ m }
      let k := s.core p.target
      let mine (l : Landing) : Bool := match l with | .reserved c n u => decide ((c, n, u) = p.src) | _ => false
      let rest := k.landing.filter fun l => !mine l
      if p.cancelled then (s.setCore p.target { k with landing := rest }).threadGone p.target p.th
      else s.setCore p.target { k with landing := rest ++ [.waits p.th] }

/-- `WINDOW_STACK_RELEASE` (R109). -/
def execWindowStackRelease (m : Nat) (s : State) : Out :=
  .next <|
    match s.releases.find? fun r => r.id == m with
    | none => s
    | some r =>
      if s.clear r.wire = false then s
      else
      let k := s.core r.core
      ({ s with releases := s.releases.filter fun x => x.id ≠ m } : State).setCore r.core
        { k with areas := k.areas &&& ~~~BitVec.ofNat 16 (2 ^ r.area) }

end Sys2Proof.Machine
end

