-- ==== Sys2Proof/Machine/Routing.lean ====
section
/-! DEFINITION. `ROUTE`, `RRET` and `RTBL`, and the tide table (R382 to R396). -/
namespace Sys2Proof.Machine

/-- Trap 0x13 (R393). -/
def routeTrap (kind row choice : Nat) (berth : Nat) (info2 : Word) : TrapInfo :=
  ⟨0x13, word (berth % 256 * 2 ^ 16 + choice % 2 * 2 ^ 13 + row % 32 * 2 ^ 8 + kind), info2, 0⟩

/-! ## Tokens and row messages (R384, R385) -/

/-- A return token. -/
def rowToken (place : Nat) (berth : BitVec 8) (choice row : Nat) (gen : BitVec 4) (e : BitVec 3) : Word :=
  word (place % 2 ^ 13 * 2 ^ 21 + berth.toNat * 2 ^ 13 + choice % 2 * 2 ^ 12 + row % 32 * 2 ^ 7 + gen.toNat * 8 + e.toNat)

def tokPlace (w : Word) : Nat := bits w 33 21
def tokBerth (w : Word) : BitVec 8 := BitVec.ofNat 8 (bits w 20 13)
def tokChoice (w : Word) : Nat := bits w 12 12
def tokRow (w : Word) : Nat := bits w 11 7
def tokGen (w : Word) : BitVec 4 := BitVec.ofNat 4 (bits w 6 3)
def tokEntry (w : Word) : BitVec 3 := BitVec.ofNat 3 (bits w 2 0)

/-- The three inbox entries of a routed row. -/
def rowEntries (t : Tide) (c : Choice) (token : Word) (r : Row) : List InEntry :=
  let hdr (kind len : Nat) : Word := msgHeader kind t.place len t.slot.val c.tag.toNat
  let ws (i n : Nat) : List Word := (List.range n).map fun j => rowWord r (i + j)
  let e (kind len : Nat) (pay : List Word) : InEntry := ⟨msgWords (hdr kind len) pay, t.tenant, false, none, []⟩
  [e 2 7 ([token, word c.w.toNat] ++ ws 0 5), e 3 7 (ws 5 7), e 3 4 (ws 12 4)]

/-- The row that the entries of a message carry. -/
def entriesRow (l : List InEntry) : Row :=
  let w (i j : Nat) : Word := ((l.getD i default).words).getD j 0
  rowOfWords ((List.range 5).map (fun j => w 0 (3 + j)) ++ (List.range 7).map (fun j => w 1 (1 + j)) ++
    (List.range 4).map (fun j => w 2 (1 + j)))

/-! ## The tide table (R386 to R392) -/

def ChoiceSt.resolved : ChoiceSt → Bool
  | .unsent => false
  | .sending => false
  | .accepted => false
  | _ => true

namespace State

def tideAt (s : State) (c : CoreId) (e : BitVec 3) : Tide := (s.core c).tide[e.toFin]
def setTide (s : State) (c : CoreId) (e : BitVec 3) (t : Tide) : State :=
  s.setCore c { s.core c with tide := (s.core c).tide.set e.toFin t }

/-- Messages of an entry that await acceptance (R394). -/
def awaiting (s : State) (c : CoreId) (e : BitVec 3) (gen : BitVec 4) : Nat :=
  (s.msgs.filter fun m => m.src == .tide c e &&
    (match m.row with | some r => tokGen r.token == gen | none => false)).length

/-- The completion message of an entry, which is then FREE (R386, R392). -/
def tideDone (s : State) (c : CoreId) (e : BitVec 3) : State :=
  let t := s.tideAt c e
  let s := s.setTide c e { Tide.free with gen := t.gen }
  match s.placeCore c t.place with
  | none => s
  | some h =>
    let w1 := word ((if t.missing = 0 then 0 else 2 ^ 16) + t.m * 2 ^ 8 + t.gen.toNat * 8 + e.toNat)
    s.send (.tide c e) h
      [⟨msgWords (msgHeader 0x04 t.place 4 t.slot.val t.tag.toNat)
          [w1, word t.drop.toNat, word t.missing.toNat, word t.pass.toNat], t.tenant, t.sys, none, []⟩]

/-- A row of a destination tile, while it awaits the entry's result. -/
def tideRow (s : State) (c : CoreId) (t : Tide) (i : Nat) : RowCell := s.rowCell c t.dst (BitVec.ofNat 5 (t.drow + i))

/-- Row `i` is full once all its choices are resolved, and the entry completes once all its rows are (R387, R388, R392). -/
def tideSettle (s : State) (c : CoreId) (e : BitVec 3) (i : Nat) : State :=
  let t := s.tideAt c e
  match t.rows[i]? with
  | none => s
  | some r =>
    if t.done.getLsbD i ∨ (r.ch.any fun x => !x.st.resolved) then s
    else
      let done := t.done ||| BitVec.ofNat 32 (2 ^ i)
      let s := s.setTide c e { t with done := done }
      let s := (s.fillRow c t.dst (BitVec.ofNat 5 (t.drow + i)) t.tok (s.tideRow c t i).v).mergeFl t.uid r.fl
      if done.toNat = 2 ^ t.m - 1 then s.tideDone c e else s

def setTideRow (s : State) (c : CoreId) (e : BitVec 3) (i : Nat) (r : TideRow) : State :=
  let t := s.tideAt c e
  s.setTide c e { t with rows := t.rows.set i r }

end State

/-! ## `ROUTE` (R394) -/

/-- Pairs of a `ROUTE` of `m` rows. -/
def pairCount (pol : Policy) (top2 : Bool) (m : Nat) : Nat := m * (if top2 || pol == .next then 2 else 1)

/-- Pair `p` of the rows from `v`A on. -/
def pairWord (v : View) (t : TileId) (a : VReg) (p : Nat) : Word := rowWord (v.row t (a + BitVec.ofNat 5 (p / 16))) (p % 16)

/-- The rows that hold pairs, as the scan meets them: with an empty `s`B their number is not known, and only the first is. -/
def pairNeeds (pol : Policy) (top2 : Bool) (a b : Src) (v : View) : List Need :=
  let m := bits (v.s b) 5 0
  let n :=
    if b.reg ≠ 0 ∧ v.th.s[b.reg.toFin].f ≠ .full ∨ 32 < m then 1
    else min (ceilDiv (pairCount pol top2 m) 16) (32 - a.reg.toNat)
  (List.range n).map fun i => ⟨.v (a.reg + BitVec.ofNat 5 i), a.wait⟩

/-- One pair, checked (R393). -/
def pairChoice (s : State) (v : View) (two : Bool) (p : Nat) (w : Word) : Except TrapInfo Choice :=
  let (row, ch) := if two then (p / 2, p % 2) else (p, 0)
  let id : BitVec 8 := BitVec.ofNat 8 (bits w 39 32)
  if bits w 63 40 ≠ 0 then .error (routeTrap 1 row ch id.toNat w)
  else match aget s.copyHere.berths id with
    | none => .error (routeTrap 0 row ch id.toNat w)
    | some b =>
      if b.tenant ≠ v.th.tenant then .error (routeTrap 0 row ch id.toNat w)
      else .ok ⟨BitVec.ofNat 32 (bits w 31 0), id, b.place, b.tag, .unsent⟩

/-- The first `n` pairs, in order. -/
def pairChoices (s : State) (v : View) (t : TileId) (a : VReg) (two : Bool) : Nat → Except TrapInfo (List Choice)
  | 0 => .ok []
  | n + 1 =>
    match pairChoices s v t a two n with
    | .error e => .error e
    | .ok l =>
      match pairChoice s v two n (pairWord v t a n) with
      | .error e => .error e
      | .ok c => .ok (l ++ [c])

/-- The rows of an entry from the pairs of a `ROUTE`. -/
def tideRows (pol : Policy) (top2 : Bool) (m : Nat) (l : List Choice) : List TideRow :=
  (List.range m).map fun i =>
    if top2 then ⟨[l.getD (2 * i) default, l.getD (2 * i + 1) default], none, 0, true⟩
    else if pol = .next then ⟨[l.getD (2 * i) default], some (l.getD (2 * i + 1) default), 0, true⟩
    else ⟨[l.getD i default], none, 0, true⟩

/-- The entry opens: destination rows +0 and empty, source rows held (R386, R388, R394). -/
def openTide (pol : Policy) (src dst : TileId) (drow m : Nat) (e : BitVec 3) (deadline : Nat) (rows : List TideRow) (v : View)
    (s : State) : State :=
  let c := s.cur.core
  let tok := s.serial
  let t : Tide :=
    { opn := true, gen := (s.tideAt c e).gen + 1, tok := tok, uid := v.th.uid, place := v.th.place, tenant := v.th.tenant,
      slot := s.cur.slot, sys := v.th.level != .user, tag := BitVec.ofNat 32 (bits v.th.tagf 31 0), src := src, dst := dst,
      drow := drow, m := m, policy := pol, deadline := s.now + deadline, rows := rows, drop := 0, pass := 0, missing := 0,
      done := 0 }
  let s := (s.setTide c e t).bump
  let s := (List.range m).foldl (fun s i => s.setRowCell c dst (BitVec.ofNat 5 (drow + i)) ⟨0, .empty tok⟩) s
  if m = 0 then s.tideDone c e else s

def execRoute (pol : Policy) (top2 : Bool) (d : TileId) (a b c : Src) (f32 : Bool) : State → Out :=
  issue (fun _ _ => none) (fun v => pairNeeds pol top2 a b v ++ [b.need, c.need]) fun v s =>
    let sb := v.s b
    let sc := v.s c
    let m := bits sb 5 0
    let e : BitVec 3 := BitVec.ofNat 3 (bits sc 2 0)
    let dst : TileId := BitVec.ofNat 2 (bits sc 9 8)
    let drow := bits sc 14 10
    let two := top2 || pol == .next
    let np := pairCount pol top2 m
    s.boundTile v fun bt s => s.useTile v d fun s => s.useTile v dst fun s =>
      if f32 = false ∧ v.th.ety ≠ .f32 then .trap (routeTrap 4 0 0 0 0)
      else if bits sb 31 6 ≠ 0 ∨ 32 < m then .trap (routeTrap 1 0 0 0 sb)
      else if bits sc 63 15 ≠ 0 ∨ bits sc 7 3 ≠ 0 ∨ 32 < drow + m then .trap (routeTrap 1 0 0 0 sc)
      else if bits sb 63 32 = 0 then .trap (routeTrap 8 0 0 0 sb)
      else if dst = d ∧ m ≠ 0 ∧ drow < m then .trap (routeTrap 2 0 0 0 sc)
      else if 32 < a.reg.toNat + ceilDiv np 16 then .trap (routeTrap 3 0 0 0 sb)
      else match pairChoices s v bt a.reg two np with
        | .error t => .trap t
        | .ok l =>
          if (s.tideAt s.cur.core e).opn then .park (.tide e)
          else s.rowsReady v d 0 m (fun _ => false) fun s => s.rowsReady v dst drow m (fun _ => false) fun s =>
            match (List.range m).find? fun i => s.heldRow s.cur.core dst (BitVec.ofNat 5 (drow + i)) with
            | some i => .park (.held dst (BitVec.ofNat 5 (drow + i)))
            | none => .ok (openTide pol d dst drow m e (bits sb 63 32) (tideRows pol top2 m l) v s)

/-! ## `RRET` (R395) -/

/-- A unit of a berth's capacity is given back (R383). -/
def returnUnit (b : BitVec 8) (v : View) (s : State) : State :=
  let x := s.here
  match aget x.berths b with
  | none => s
  | some k =>
    if k.tenant = v.th.tenant ∧ 0 < k.count then
      s.setHere { x with berths := aset x.berths b { k with count := k.count - 1 } }
    else s

def execRret (d : SReg) (a : Src) : State → Out :=
  plain [sN d, a.vneed] fun v s => s.boundTile v fun t s =>
    let tok := v.sd d
    match (if bits tok 63 34 ≠ 0 then none else s.placeCore s.cur.core (tokPlace tok)) with
    | none => .trap (routeTrap 7 (tokRow tok) (tokChoice tok) (tokBerth tok).toNat tok)
    | some c =>
      if 2 ≤ s.me.sends then .park .sendEntry
      else
        let s := returnUnit (tokBerth tok) v s
        let r : RowRet := ⟨s.serial, s.cur.core, s.cur.slot, c, tok, v.th.tenant, v.row t a.reg, s.isCoupled s.cur.core⟩
        let s : State := { s with returns := s.returns ++ [r] }
        .ok (s.setMe { s.me with sends := s.me.sends + 1 }).bump

/-! ## `RTBL` (R396) -/

def execRtbl (a b : Src) : State → Out :=
  plain [a.need, b.need] fun v s =>
    let x := v.s a
    let y := v.s b
    let id : BitVec 8 := BitVec.ofNat 8 (bits x 7 0)
    let cap := bits y 47 32
    if bits x 63 8 ≠ 0 then .trap (routeTrap 1 0 0 id.toNat x)
    else if bits y 63 48 ≠ 0 ∨ cap = 0 ∨ 1024 < cap then .trap (routeTrap 1 0 0 id.toNat y)
    else
      let e : Berth := ⟨v.th.place, v.th.tenant, BitVec.ofNat 32 (bits y 31 0), cap⟩
      .pend (s.addReq (s.homeReq v (.rtbl id (some e)) .none)) .access

def execRtblRm (a : Src) : State → Out :=
  plain [a.need] fun v s =>
    let x := v.s a
    if bits x 63 8 ≠ 0 then .trap (routeTrap 1 0 0 (bits x 7 0) x)
    else .pend (s.addReq (s.homeReq v (.rtbl (BitVec.ofNat 8 (bits x 7 0)) none) .none)) .access

end Sys2Proof.Machine
end

