-- ==== Sys2Proof/Machine/Tasks.lean ====
section
/-! DEFINITION. `TASK` and `TDEP` (R345 to R352, R368, R369, R372, R373). -/
namespace Sys2Proof.Machine

/-! ## Specifiers and size words (R349, R350) -/

/-- A specifier as coded. -/
inductive Spec
  | raw (k : KReg) (off : Nat)
  /-- tensor id and the bits below it -/
  | desc (id : TensorId) (w : Word)
  | track (place : Nat) (t : TrackId) (start : Nat)
  /-- a page, or a frame, of `MIGRATE-PAGE` -/
  | page (w : Word)
  deriving DecidableEq, Repr, Inhabited

def specOf (w : Word) : Option Spec :=
  match bits w 63 62 with
  | 0 => if bits w 58 52 ≠ 0 then none else some (.raw (BitVec.ofNat 3 (bits w 61 59)) (bits w 51 0))
  | 1 => some (.desc (BitVec.ofNat 8 (bits w 61 54)) w)
  | 2 =>
    if bits w 48 46 ≠ 0 ∨ bits w 31 0 ≠ 0 then none
    else some (.track (bits w 61 49) (BitVec.ofNat 6 (bits w 45 40)) (bits w 39 32))
  | _ => some (.page w)

/-- Trap 0x0D reason 13 for a word of `TASK` or `TDEP` (R372, R373); it names no tensor. -/
def taskTrap (w : Nat) : TrapInfo := descTrap 0 w 13

/-- Largest OP of a kind (R351). -/
def TaskKind.maxOp : TaskKind → Nat
  | .reduce => 2
  | .collective => 3
  | _ => 0

/-- Is a size word one that its kind accepts (R350, R351)? -/
def sizeOk (k : TaskKind) (w : Word) : Bool :=
  decide (bits w 40 39 < 2) && decide (bits w 43 41 ≤ k.maxOp) &&
    (k == .collective || bits w 63 48 == 0) &&
    (match k with
     | .scatterAdd => decide (bits w 47 44 ≤ 8)
     | .reduce => decide (bits w 47 44 ≤ 8)
     | .collective => decide (bits w 47 44 ≤ 8)
     | _ => bits w 47 44 == 0) &&
    (k != .migrate || bits w 37 0 == 0)

/-- May a side of a kind take a form (R351)? A table side takes a descriptor. -/
def formOk (k : TaskKind) (dst : Bool) : Spec → Bool
  | .raw .. => match k with
    | .migrate => false
    | .gather => dst
    | .scatter => !dst
    | .scatterAdd => !dst
    | _ => true
  | .desc .. => k != .migrate
  | .track .. => match k with
    | .copy => true
    | .gather => dst
    | .scatter => !dst
    | .scatterAdd => !dst
    | .reduce => !dst
    | _ => false
  | .page w => k == .migrate && (!dst || bits w 61 52 == 0)

/-- Is a side the table of a gather or scatter (R351)? -/
def isTable (k : TaskKind) (dst : Bool) : Bool :=
  match k with
  | .gather => !dst
  | .scatter => dst
  | .scatterAdd => dst
  | _ => false

/-- What stops a `TASK` at issue. -/
inductive TaskStop
  | trap (t : TrapInfo)
  /-- a piece translation miss (R368) -/
  | miss (id : TensorId) (d : Desc) (ver row : Nat)
  deriving DecidableEq, Repr, Inhabited

/-- The operands of a `TASK`. -/
structure TaskArgs where
  kind : TaskKind
  /-- index tensor -/
  id   : TensorId
  src  : Spec
  dst  : Spec
  size : Word
  deriving DecidableEq, Repr, Inhabited

namespace TaskArgs

def n (a : TaskArgs) : Nat := bits a.size 37 0
def spec (a : TaskArgs) (dst : Bool) : Spec := if dst then a.dst else a.src
/-- Is it a reduce-scatter, whose destination takes SIZE ÷ members bytes (R363)? -/
def scatters (a : TaskArgs) : Bool := a.kind == .collective && bits a.size 43 41 == 2

end TaskArgs

/-- The number of members of a group; 1 while Waliasal has set up none. -/
def State.members (s : State) (g : Nat) : Nat :=
  match aget s.groups g with
  | some x => max 1 x.members.length
  | none => 1

namespace State

/-- The table of a gather or scatter as the thread may use it. -/
def taskTable (s : State) (v : View) (a : TaskArgs) : Option Desc :=
  match a.spec (a.kind != .gather) with
  | .desc id _ => s.descOf v id
  | _ => none

/-- Bytes that a side of a task covers (R351, R363). -/
def taskBytes (s : State) (v : View) (a : TaskArgs) (dst : Bool) : Nat :=
  match a.kind with
  | .gather => a.n * ((s.taskTable v a).map Desc.rowBytes).getD 0
  | .scatter => a.n * ((s.taskTable v a).map Desc.rowBytes).getD 0
  | .scatterAdd => a.n * ((s.taskTable v a).map Desc.rowBytes).getD 0
  | .collective =>
    if dst then
      match bits a.size 43 41 with
      | 1 => a.n * s.members (bits a.size 63 48)
      | 2 => a.n / s.members (bits a.size 63 48)
      | _ => a.n
    else a.n
  | _ => a.n

/-- Fields (R349 to R351): forms, reserved bits, the size word. -/
def taskFields (k : TaskKind) (id : TensorId) (x a b : Word) : Except TrapInfo TaskArgs :=
  match specOf x, specOf a with
  | none, _ => .error (taskTrap 0)
  | some s, d =>
    if formOk k false s = false then .error (taskTrap 0)
    else match d with
      | none => .error (taskTrap 1)
      | some d =>
        if formOk k true d = false then .error (taskTrap 1)
        else if sizeOk k b = false then .error (taskTrap 2)
        else .ok ⟨k, id, s, d, b⟩

/-- A raw side: `Check` of its key register (R372). -/
def taskRaw (s : State) (v : View) (a : TaskArgs) (dst : Bool) : Option TrapInfo :=
  match a.spec dst with
  | .raw k off =>
    match s.checkKey v k (word off) (s.taskBytes v a dst) [if dst then .write else .read] with
    | .error t => some t
    | .ok _ => none
  | _ => none

/-- The limits of R349 and R351 on a side, where its descriptor can be read. -/
def taskLimits (s : State) (v : View) (a : TaskArgs) (dst : Bool) : Option TrapInfo :=
  let bad := some (taskTrap (if dst then 1 else 0))
  let n := s.taskBytes v a dst
  match a.spec dst with
  | .desc id w =>
    match s.descOf v id with
    | none => none
    | some d =>
      if isTable a.kind dst then
        if d.kind ≠ 0 ∨ d.rank ≠ 2 ∨ (d.swizzle ≠ 0 ∧ d.rowBytes % 128 ≠ 0) then bad
        else if a.kind = .scatterAdd ∧ d.format ≠ bits a.size 47 44 then some (taskTrap 2)
        else none
      else if d.kind = 2 ∧ bits w 31 0 = 0 then bad
      else if (a.kind = .reduce ∨ a.kind = .collective) ∧ d.format ≠ bits a.size 47 44 then bad
      else if (if a.scatters ∧ dst then a.n else n) % max 1 d.rowBytes ≠ 0 then bad
      else none
  | .track _ _ start => if n % 128 ≠ 0 ∨ start + n / 128 > 256 then bad else none
  | _ => none

/-- The index tensor of a gather or scatter (R351), with the first index position. -/
def indexSide (s : State) (v : View) (a : TaskArgs) : Option (Option Desc × Nat) :=
  match a.spec (a.kind != .gather), (a.kind == .gather || a.kind == .scatter || a.kind == .scatterAdd) with
  | .desc _ w, true => some (s.descOf v a.id, bits w 53 0)
  | _, _ => none

/-- The limits on the index tensor (R351). -/
def indexLimits (s : State) (v : View) (a : TaskArgs) : Option TrapInfo :=
  match s.indexSide v a with
  | some (some d, _) => if d.kind ≠ 0 ∨ d.format ≠ 6 then some (taskTrap 3) else none
  | _ => none

/-- A descriptor side: capture (R246), rows within the local extent (R252, R372). -/
def taskDesc (s : State) (v : View) (a : TaskArgs) (dst : Bool) : Option TrapInfo :=
  match a.spec dst with
  | .desc id w =>
    match s.descOf v id with
    | none => some (descTrap id 0 6)
    | some d =>
      if isTable a.kind dst ∨ d.kind = 2 then none
      else
        let total := d.extent 1 * d.extent 2 * d.extent 3
        let first := bits w 53 0
        if first + s.taskBytes v a dst / max 1 d.rowBytes > total then
          some (indexTrap id 1 (d.shape 1 * d.shape 2 * d.shape 3) (max first total))
        else none
  | _ => none

/-- The index tensor, captured (R246), read in element order from the first index position (R351, R252). -/
def taskIndex (s : State) (v : View) (a : TaskArgs) : Except TrapInfo (Option (Desc × Nat)) :=
  match s.indexSide v a with
  | none => .ok none
  | some (none, _) => .error (descTrap a.id 0 6)
  | some (some d, first) =>
    let total := d.extent 0 * d.extent 1 * d.extent 2 * d.extent 3
    if first + a.n > total then
      .error (indexTrap a.id 0 (d.shape 0 * d.shape 1 * d.shape 2 * d.shape 3) (max first total))
    else .ok (some (d, first))

/-- A track side names the place of the thread (R349, R372). -/
def taskTrack (v : View) (a : TaskArgs) (dst : Bool) : Option TrapInfo :=
  match a.spec dst with
  | .track p _ _ => if p ≠ v.th.place then some (taskTrap (if dst then 1 else 0)) else none
  | _ => none

/-- The entry of the piece translation buffer that covers a row (R368). -/
def pieceOf (s : State) (id : TensorId) (ver row : Nat) : Option PieceEntry :=
  s.here.pieces.find? fun e => e.id == id && e.ver.toNat == ver && decide (e.first ≤ row) && decide (row < e.first + e.rows)

/-- A side as a node captures it. -/
def taskSide (s : State) (v : View) (a : TaskArgs) (dst : Bool) : Except TaskStop Side :=
  match a.spec dst with
  | .raw k off => .ok (.raw v.th.k[k.toFin] off)
  | .track _ t start => .ok (.track t start)
  | .page w =>
    .ok (if dst then .frame (bits w 51 0) else .page (BitVec.ofNat 9 (bits w 61 53)) (bit w 52) (bits w 51 0))
  | .desc id w =>
    match s.descOf v id with
    | none => .error (.trap (descTrap id 0 6))
    | some d =>
      if isTable a.kind dst then .ok (.dense d 0)
      else if d.kind ≠ 2 then .ok (.dense d (bits w 53 0))
      else
        let row := bits w 53 32
        let ver := bits w 31 0
        match s.pieceOf id ver row with
        | none => .error (.miss id d ver row)
        | some e =>
          if row + s.taskBytes v a dst / max 1 d.rowBytes > e.first + e.rows then .error (.trap (descTrap id 0 15))
          else .ok (.piece d e.key e.first row id (BitVec.ofNat 32 ver))

/-- A hit marks its entry (R368). -/
def touchPiece (s : State) (x : Side) : State :=
  match x with
  | .piece _ _ _ row id ver =>
    s.setHere { s.here with pieces := s.here.pieces.map fun e =>
      if e.id = id ∧ e.ver = ver ∧ e.first ≤ row ∧ row < e.first + e.rows then { e with used := s.serial } else e }
  | _ => s

/-- Uses of the track sides, in order (R321, R324). -/
def useTracks (s : State) (v : View) (ts : List TrackId) (k : State → Head) : Head :=
  match ts with
  | [] => k s
  | t :: r => s.useTrack v t false fun s => s.useTracks v r k

/-- Does a thread of the core run as the shadow handler (R369)? -/
def shadowBusy (s : State) (c : CoreId) : Bool :=
  (s.core c).slots.toList.any fun x => x.st != .free && x.st != .disabled && x.th.shadow.isSome

/-- Registers of a thread that enters the shadow handler (R369). -/
def enterShadow (s : State) (t : Thread) (id : TensorId) (d : Desc) (ver row : Nat) : Thread :=
  let head := t.pc + (if t.pc / 2 % 32 < s.headIdx then 2 else 0)
  let sh : List Word := [word id.toNat, word ver, word row, word head]
  { t with
    shadow := some ⟨t.pc, id, row, Vector.ofFn fun i => t.s[i.val + 16]'(by omega), t.k[(7 : Fin 8)]⟩
    s := Vector.ofFn fun i => if i.val < 16 then t.s[i] else ⟨sh.getD (i.val - 16) 0, .full⟩
    k := t.k.set 7 d.key
    pc := s.here.pxvec.toNat
    fpMask := false
    line := none }

/-- A piece translation miss (R368, R369, R371). A miss inside the handler finds no handler to enter. -/
def pieceMiss (s : State) (v : View) (id : TensorId) (d : Desc) (ver row : Nat) : Head :=
  if s.here.pxvec = 0 ∨ v.th.shadow.isSome then .trap (descTrap id 0 15)
  else if s.shadowBusy s.cur.core then .park .shadow
  else match s.jumpTrap s.here.pxvec with
    | some t => .trap t
    | none => .turn (s.setTh (s.enterShadow s.th id d ver row))

/-- The node of a `TASK` (R372), held, with the generation its entry will have. -/
def taskNode (s : State) (v : View) (a : TaskArgs) (src dst : Side) (ix : Option (Desc × Nat)) (i : BitVec 10) : Node :=
  { Node.free with
    gen := (s.node (clusterOf s.cur.core) i).gen + 1
    st := .held
    kind := a.kind
    graph := s.graphOf v.th
    tenant := v.th.tenant
    sys := v.th.level != .user
    sec := bit s.here.world 0
    level := v.th.level
    core := s.cur.core
    place := v.th.place
    tag := BitVec.ofNat 32 (bits v.th.tagf 31 0)
    src := src
    dst := dst
    index := ix
    size := a.n
    op := bits a.size 43 41
    elem := bits a.size 47 44
    group := bits a.size 63 48
    fem := bits a.size 40 39 == 1
    quiet := bit a.size 38
    region := s.here.region
    gate := s.isCoupled s.cur.core }

/-- A node is created (R345, R372): the graph counts it, its tracks are HELD, and it completes at once under a cancelled
entry (R83), or is released. -/
def createNode (s : State) (cl : BitVec 9) (i : BitVec 10) (n : Node) (go : Bool) : State :=
  let id : NodeId := ⟨cl, i, n.gen⟩
  let s := (s.setNode cl i n).addCount n.graph 1
  let s := n.tracks.foldl (fun s t =>
    let x := s.core n.core
    s.setCore n.core (x.setTrack t { x.track t with nodes := (x.track t).nodes ++ [id] })) s
  if s.cancelled 4 n.graph then s.nodeEnd cl i .cancelled 0 0 0
  else if go then s.nodeRelease cl i
  else s

end State

/-- `TASK` after its privilege check and scan (R372). Without a stitched side it completes at issue; with one it reserves
an entry and waits for the pins. -/
def taskBody (k : TaskKind) (id : TensorId) (d x : SReg) (a b : Src) (go : Bool) (v : View) (s : State) : Head :=
  match State.taskFields k id (v.sd x) (v.s a) (v.s b) with
  | .error t => .trap t
  | .ok w =>
    let two (f : Bool → Option TrapInfo) : Option TrapInfo := (f false).or (f true)
    match ((two (s.taskLimits v w)).or (s.indexLimits v w)).or ((two (s.taskRaw v w)).or (two (s.taskDesc v w))) with
    | some t => .trap t
    | none =>
      match s.taskIndex v w, two (State.taskTrack v w) with
      | .error t, _ => .trap t
      | .ok _, some t => .trap t
      | .ok ix, none =>
          let ts := [w.src, w.dst].filterMap fun y => match y with | .track _ t _ => some t | _ => none
          s.useTracks v ts fun s =>
            match s.taskSide v w false, s.taskSide v w true with
            | .error (.trap t), _ => .trap t
            | .error (.miss i e ver row), _ => s.pieceMiss v i e ver row
            | .ok _, .error (.trap t) => .trap t
            | .ok _, .error (.miss i e ver row) => s.pieceMiss v i e ver row
            | .ok p, .ok q =>
              let s := ((s.touchPiece p).touchPiece q).bump
              let cl := clusterOf s.cur.core
              match s.freeNode cl with
              | none => .park .nodeEntry
              | some i =>
                let n := s.taskNode v w p q ix i
                let h := (NodeId.mk cl i n.gen).handle
                if n.pins = [] then putS d h (s.createNode cl i n go)
                else match n.pins.findSome? fun x => s.keyDrain x.1.key with
                  | some w => .park w
                  | none =>
                    let s := s.setNode cl i { s.node cl i with st := .reserved }
                    .pend (s.addReq (s.homeReq v (.task n i go) (.s d))) .access

/-- The registers a `TASK` reads and writes. -/
def taskNeeds (d x : SReg) (a b : Src) : List Need := [sN d, sN x, a.need, b.need]

def execTaskCopy (d x : SReg) (a b : Src) (go : Bool) : State → Out :=
  plain (taskNeeds d x a b) fun v s => taskBody .copy 0 d x a b go v s
def execTaskGather (d : SReg) (t : TensorId) (x : SReg) (a b : Src) (go : Bool) : State → Out :=
  plain (taskNeeds d x a b) fun v s => taskBody .gather t d x a b go v s
def execTaskScatter (d : SReg) (t : TensorId) (x : SReg) (a b : Src) (go : Bool) : State → Out :=
  plain (taskNeeds d x a b) fun v s => taskBody .scatter t d x a b go v s
def execTaskScatterAdd (d : SReg) (t : TensorId) (x : SReg) (a b : Src) (go : Bool) : State → Out :=
  plain (taskNeeds d x a b) fun v s => taskBody .scatterAdd t d x a b go v s
def execTaskReduce (d x : SReg) (a b : Src) (go : Bool) : State → Out :=
  plain (taskNeeds d x a b) fun v s => taskBody .reduce 0 d x a b go v s
def execTaskCollective (d x : SReg) (a b : Src) (go : Bool) : State → Out :=
  plain (taskNeeds d x a b) fun v s => taskBody .collective 0 d x a b go v s
def execTaskMigratePage (d x : SReg) (a b : Src) (go : Bool) : State → Out :=
  issue needsSup (fun _ => taskNeeds d x a b) fun v s => taskBody .migrate 0 d x a b go v s

/-! ## `TDEP` (R347, R373) -/

/-- A handle's cluster, index and generation. -/
def handleId (w : Word) : NodeId :=
  ⟨BitVec.ofNat 9 (bits w 18 10), BitVec.ofNat 10 (bits w 9 0), BitVec.ofNat 4 (bits w 22 19)⟩

namespace State

/-- What a handle must satisfy: zero bits, a cluster of the partition, a node of the thread's tenant. -/
def handleOk (s : State) (p : Nat) (t : BitVec 9) (w : Word) : Bool :=
  let i := handleId w
  let n := s.node i.cl i.idx
  bits w 63 23 == 0 && (s.clustersOf p).contains i.cl && (n.st == .free || n.st == .reserved || n.tenant == t)

/-- Does a handle name a node in a state of its own generation? -/
def handleIn (s : State) (w : Word) (ok : NodeSt → Bool) : Bool :=
  let i := handleId w
  let n := s.node i.cl i.idx
  n.gen == i.gen && ok n.st

/-- An edge (R347), performed at the node's cluster. -/
def edge (s : State) (p : Nat) (t : BitVec 9) (a b : Word) : Except TrapInfo State :=
  let x := handleId a
  let y := handleId b
  if s.handleOk p t a = false then .error (taskTrap 4)
  else if s.handleOk p t b = false ∨ s.handleIn b (· == .held) = false then .error (taskTrap 5)
  else
    let n := s.node x.cl x.idx
    if s.handleIn a (fun st => st == .held || st == .waiting || st == .ready || st == .running) = false then .ok s
    else if 8 ≤ n.succs.length then .error (taskTrap 4)
    else
      let s := s.setNode x.cl x.idx { n with succs := n.succs ++ [y] }
      let m := s.node y.cl y.idx
      .ok (s.setNode y.cl y.idx { m with preds := m.preds + 1 })

/-- A release. -/
def releaseEdge (s : State) (p : Nat) (t : BitVec 9) (a : Word) : Except TrapInfo State :=
  let x := handleId a
  if s.handleOk p t a = false ∨ s.handleIn a (· == .held) = false then .error (taskTrap 4)
  else .ok (s.nodeRelease x.cl x.idx)

end State

def execTdep (a b : Src) : State → Out :=
  plain [a.need, b.need] fun v s => .pend (s.addReq (s.homeReq v (.tdep (v.s a) (v.s b)) .none)) .access
def execTdepGo (a : Src) : State → Out :=
  plain [a.need] fun v s => .pend (s.addReq (s.homeReq v (.tdepGo (v.s a)) .none)) .access

end Sys2Proof.Machine
end

