-- ==== Sys2Proof/Machine/EvSlots.lean ====
section
/-! DEFINITION. Steps of the slots: the choice of the thread that issues, spill steps, grants, contexts written, drains, wakes,
the breakwater, suspension (R64 to R75, R81, R86 to R93, R108, R109, R203, R209, R406 to R408). -/
namespace Sys2Proof.Machine

namespace State

/-! ## The rotation (R70) -/

/-- May the slot issue in this cycle? -/
def mayIssue (s : State) (c : CoreId) (n : SlotId) : Bool :=
  let x := s.slotAt c n
  x.st == .ready && (match x.last with | none => true | some l => decide (l + 8 ≤ (s.core c).cycle))

/-- The slot that R70 would issue: least key, lowest number on ties. -/
def issueSlot (s : State) (c : CoreId) : Option SlotId :=
  let cand := (List.finRange 16).filter fun n => s.mayIssue c n
  cand.find? fun n => cand.all fun m => decide ((s.slotAt c n).key ≤ (s.slotAt c m).key)

/-! ## Spill steps (R74, R104) -/

/-- May a window be spilled now: it is resident, the stack has room, and no register of it is empty? -/
def spillable (t : Thread) (idx : Nat) : Bool :=
  decide (wspPtr t.wsp < wspLimit t.wsp) &&
    (match windowCells t idx with
     | none => false
     | some w => !windowEmpty w && (windowFault w).isNone)

/-- The slot that a spill step serves. -/
def spillSlot (s : State) (c : CoreId) : Option SlotId :=
  (List.finRange 16).find? fun n =>
    let x := s.slotAt c n
    (x.st == .ready || x.st == .parked) && decide (2 < dirtyWindows x.th) && spillable x.th (savedWindows x.th.wsp)

end State

/-- `SPILL_STEP` (R74, R104): in a cycle in which no bundle issues. -/
def execSpillStep (c : CoreId) (s : State) : Out :=
  .next <|
    if (s.issueSlot c).isSome then s
    else match s.spillSlot c with
      | none => s
      | some n => s.spillStep c n (savedWindows (s.slotAt c n).th.wsp)

/-! ## Grants (R64, R65, R86 to R89, R109, R408) -/

/-- `SELF` (R65). -/
def selfWord (tenant : BitVec 9) (q : BitVec 2) (index : Nat) (launch : BitVec 16) (place : Nat) (n : SlotId) : Word :=
  word (tenant.toNat * 2 ^ 55 + q.toNat * 2 ^ 53 + index % 2 ^ 17 * 2 ^ 36 + launch.toNat * 2 ^ 20 + place % 2 ^ 13 * 2 ^ 4 +
    n.val)

/-- `SELF` on another place or slot (R65). -/
def reSelf (w : Word) (place : Nat) (n : SlotId) : Word := setBits (setBits w 16 4 place) 3 0 n.val

/-- The context a new thread starts with (R64). -/
def freshThread (l : Launch) (uid index place : Nat) (n : SlotId) (area : Nat) : Thread :=
  let base := 0x780 + 8 * area
  { Thread.empty with
    uid := uid
    pc := l.pc
    level := l.level
    s := Vector.ofFn fun i => if 8 ≤ i.val ∧ i.val < 12 then ⟨l.args.getD (i.val - 8) 0, .full⟩ else Cell.zero
    k := l.keys.map fun k => { k with f := .full }
    tvec := l.tvec
    self := selfWord l.tenant l.q index l.id place n
    wsp := word (place % 2 ^ 13 * 2 ^ 51 + (base + 8) * 2 ^ 39 + base * 2 ^ 27 + base * 2 ^ 5)
    area := area }

/-- A class serves a tenant on a core (R87). -/
def Core.serves (x : Core) (q : BitVec 2) (t : BitVec 9) : Bool :=
  bit x.qown (36 + q.toNat) && decide (bits x.qown (9 * q.toNat + 8) (9 * q.toNat) = t.toNat)

/-- What a slot may be granted. -/
inductive Grant
  | record (r : Susp)
  | spawn (p : Pending)
  deriving DecidableEq, Repr, Inhabited

namespace State

/-- The lowest free window-stack area (R109). -/
def freeArea? (x : Core) : Option Nat := lowest 16 fun a => !x.areas.getLsbD a

/-- The first candidate of a class on a core: suspension records, oldest first, then pending spawns (R87, R89, R408). -/
def candidate (s : State) (c : CoreId) (q : BitVec 2) : Option Grant :=
  let x := s.core c
  match x.susp.find? fun r => r.th.qclass == q && x.serves q r.th.tenant with
  | some r => some (.record r)
  | none =>
    if (freeArea? x).isNone then none
    else ((s.cluster (clusterOf c)).pending.find? fun p =>
      p.l.q == q && p.l.gate.isNone && decide (0 < p.left) && s.launchCore p.l p.rel == c && x.serves q p.l.tenant).map .spawn

def classes : List (BitVec 2) := [0, 1, 2, 3]

def weight (x : Core) (q : BitVec 2) : Nat := bits x.qweight (8 * q.toNat + 7) (8 * q.toNat)

/-- The class that R89 picks among those with a candidate, and the credits after it. -/
def pickClass (x : Core) (e : List (BitVec 2)) : BitVec 2 × Vector Int 4 :=
  let w (q : BitVec 2) : Nat := if e.all fun p => weight x p == 0 then 1 else weight x q
  let cur := e.foldl (fun (v : Vector Int 4) q => v.set q.toFin (v[q.toFin] + w q)) x.cur
  let best := (e.find? fun q => e.all fun p => decide (cur[p.toFin] ≤ cur[q.toFin])).getD 0
  (best, cur.set best.toFin (cur[best.toFin] - (e.map w).sum))

/-- A slot takes a thread and loads it for some cycles (R67). -/
def loadSlot (s : State) (c : CoreId) (n : SlotId) (t : Thread) (cycles : Nat) : State :=
  let x := s.slotAt c n
  let d := dieOf c
  let s := if (s.die d).active.contains t.tenant then s
    else s.setDie d { s.die d with active := (s.die d).active ++ [t.tenant] }
  let y : Slot := { Slot.free with
    st := .loading, th := t, loadEnd := (s.core c).cycle + cycles, wait := .answered, chosen := x.chosen, sends := x.sends }
  let s := s.setSlot c n y
  match aget s.pairs (pairOf c) with
  | some p =>
    { s with pairs := aset s.pairs (pairOf c) { p with snap := ({ p.snap.1 with slots := p.snap.1.slots.set n y }, p.snap.2) } }
  | none => s

/-- One thread of a pending-spawn entry has left it; an entry with none left is free (R86). -/
def takePending (l : List Pending) (p : Pending) : List Pending :=
  match l with
  | [] => []
  | y :: r => if y = p then (if p.left = 1 then r else { p with taken := p.taken + 1 } :: r) else y :: takePending r p

/-- A slot is granted a suspension record or a pending spawn. -/
def giveSlot (s : State) (c : CoreId) (n : SlotId) (g : Grant) : State :=
  let place := s.placeOf c
  match g with
  | .record r =>
    let x := s.core c
    (s.setCore c { x with susp := x.susp.erase r }).loadSlot c n { r.th with self := reSelf r.th.self place n } 16
  | .spawn p =>
    let x := s.core c
    match freeArea? x with
    | none => s
    | some a =>
      let s := s.setCore c { x with areas := x.areas ||| BitVec.ofNat 16 (2 ^ a) }
      let cl := clusterOf c
      let s := s.setCluster cl { s.cluster cl with pending := takePending (s.cluster cl).pending p }
      (s.loadSlot c n (freshThread p.l s.serial (p.l.nthIndex p.rel p.taken) place n a) 4).bump

/-- The arbiter at one FREE slot (R89). -/
def arbitrate (s : State) (c : CoreId) (n : SlotId) : State :=
  if (s.slotAt c n).st ≠ .free then s
  else
    let x := s.core c
    let waits (l : Landing) : Bool := match l with | .waits _ => true | _ => false
    match takeFirst waits x.landing with
    | some (.waits t, r) =>
      (s.setCore c { x with landing := r }).loadSlot c n { t with self := reSelf t.self (s.placeOf c) n } 8
    | _ =>
      let e := classes.filter fun q => (s.candidate c q).isSome
      if e = [] then s
      else
        let (q, cur) := pickClass x e
        match s.candidate c q with
        | none => s
        | some g => (s.setCore c { x with cur := cur }).giveSlot c n g

/-- Has the arbiter something to do? -/
def grantDue (s : State) (c : CoreId) : Bool :=
  let x := s.core c
  decide (x.cycle % 16 = 0) &&
    ((x.slots.toList.any (fun y => y.st == .free) &&
        (x.landing.any (fun l => match l with | .waits _ => true | _ => false) ||
         classes.any fun q => (s.candidate c q).isSome)) ||
     classes.any fun q => (s.candidate c q).isNone && decide (x.cur[q.toFin] ≠ 0))

end State

/-- `SLOT_GRANT` (R75, R89): the arbiter fills the FREE slots at a rotation boundary. -/
def execSlotGrant (c : CoreId) (s : State) : Out :=
  .next <|
    let x := s.core c
    if x.cycle % 16 ≠ 0 then s
    else
      let cur := State.classes.foldl (fun (v : Vector Int 4) q =>
        if (s.candidate c q).isNone then v.set q.toFin 0 else v) x.cur
      (List.finRange 16).foldl (fun s n => s.arbitrate c n) (s.setCore c { x with cur := cur })

/-! ## The breakwater (R68, R90 to R92) -/

namespace State

/-- The first place of the thermal ranking that can take a thread (R91). -/
def coolTarget (s : State) (c : CoreId) : Option CoreId :=
  match s.partOf c with
  | none => none
  | some p => (s.part p).ranking.find? fun d =>
      d != c && (s.core d).slots.toList.any (fun x => x.st == .free) &&
        decide ((s.core d).landing.length < 4) && s.waitingResv d == []

/-- The core to which a thread of a disabled slot may move (R91). -/
def moveTarget (s : State) (c : CoreId) (t : Thread) : Option CoreId := if s.mayMigrate c t then s.coolTarget c else none

/-- The READY thread of a disabled slot leaves for a cool place, if it may and one qualifies; else it is HELD (R91). -/
def holdOrMove (s : State) (c : CoreId) (n : SlotId) : State :=
  let x := s.slotAt c n
  match s.moveTarget c x.th with
  | none => s.setSlot c n { x with st := .held }
  | some d =>
    let k := s.core d
    let s := s.setCore d { k with landing := k.landing ++ [.reserved c n x.th.uid] }
    s.setSlot c n { x with st := .draining, drain := .migrate (s.placeOf d) d, chosen := true }

/-- A slot is disabled (R68). -/
def disableSlot (s : State) (c : CoreId) (n : SlotId) : State :=
  let x := s.slotAt c n
  match x.st with
  | .free => s.setSlot c n { x with st := .disabled }
  | .ready => s.holdOrMove c n
  | .parked => s.setSlot c n { x with st := .heldParked }
  | .loading => s.setSlot c n { x with chosen := true }
  | .draining => s.setSlot c n { x with chosen := true }
  | _ => s

/-- Is a slot disabled, or about to be? -/
def Slot.off (x : Slot) : Bool := x.st == .disabled || x.st == .held || x.st == .heldParked || x.chosen

/-- A slot is enabled again (R68). -/
def enableSlot (s : State) (c : CoreId) (n : SlotId) : State :=
  let x := s.slotAt c n
  let x := { x with chosen := false }
  match x.st with
  | .disabled => s.setSlot c n { x with st := .free }
  | .held => s.setSlot c n { x with st := .ready, key := (s.core c).cycle }
  | .heldParked => s.setSlot c n { x with st := .parked }
  | _ => s.setSlot c n x

end State

/-- `BREAKWATER_EVALUATION` (R90, R91): the temperature of the core in °C, the power of the module in mW, and whether the core
is among the 64 hottest. The breakwater needs a Waliasal core in service (R24). -/
def execBreakwaterEvaluation (c : CoreId) (tempC powerMw : Nat) (hottest : Bool) (s : State) : Out :=
  .next <|
    let x := s.core c
    if x.cycle % 4096 ≠ 0 ∨ x.cycle = x.bwLast ∨ s.served = false then s
    else
      let s := s.setCore c { x with bwLast := x.cycle }
      let s := (List.finRange 16).foldl (fun s n =>
        if (s.slotAt c n).st = .held then s.holdOrMove c n else s) s
      if 95 < tempC ∨ (4800000 < powerMw ∧ hottest) then
        match (List.finRange 16).reverse.find? fun n => !State.Slot.off (s.slotAt c n) with
        | some n => if n = 0 then s else s.disableSlot c n
        | none => s
      else if tempC < 90 ∧ powerMw < 4560000 then
        match (List.finRange 16).find? fun n => State.Slot.off (s.slotAt c n) with
        | some n => s.enableSlot c n
        | none => s
      else s

/-- Does a core hold a disabled slot (R92)? -/
def State.anyOff (s : State) (c : CoreId) : Bool :=
  (s.core c).slots.toList.any fun x => x.st == .disabled || x.st == .held || x.st == .heldParked

/-- `THERMAL_RANKING_REWRITE` (R92): the partition's places, coolest first; no place whose core holds a disabled slot comes
before one whose core has none. -/
def execThermalRankingRewrite (p : BitVec 6) (ranking : List CoreId) (s : State) : Out :=
  .next <|
    let x := s.part p.toNat
    let perm := ranking.length == x.places.length && x.places.all ranking.contains && ranking.all x.places.contains
    let cool := (ranking.dropWhile fun c => !s.anyOff c).all fun c => s.anyOff c
    if perm && cool then s.setPart p.toNat { x with ranking := ranking } else s

/-! ## Contexts written, drains (R67, R68, R81, R108, R209, R279, R406) -/

/-- `CONTEXT_WRITTEN` (R67, R68): the slot is READY; a thread cancelled meanwhile drains, a slot chosen meanwhile is
disabled. -/
def execContextWritten (c : CoreId) (n : SlotId) (s : State) : Out :=
  .next <|
    let x := s.slotAt c n
    if x.st ≠ .loading ∨ (s.core c).cycle < x.loadEnd then s
    else
      let ready := s.setSlot c n { x with st := .ready, key := (s.core c).cycle, chosen := false }
      if x.cancelled then (s.setSlot c n { x with st := .ready }).retire c n
      else if x.chosen then ready.holdOrMove c n
      else ready

namespace State

/-- Has everything that a draining thread waits for ended? -/
def drained (s : State) (c : CoreId) (n : SlotId) : Bool :=
  let x := s.slotAt c n
  let u := x.th.uid
  let k := s.core c
  !(s.reqs.any fun r => r.uid == u) && !(s.probes.any fun p => p.uid == u) && !(s.fabricStores.any fun p => p.1 == u) &&
    k.acquire.isEmpty &&
    !(k.arrayq.any fun e => e.uid == u) && !((k.sfuq ++ k.sfuSusp).any fun e => e.uid == u) &&
    !(k.sfuRun.any fun p => p.2.uid == u) && !(k.vdqs.any fun e => e.uid == u) &&
    (x.drain != .suspend || !(k.dirs.any fun e => e.uid == u)) &&
    (match aget s.pairs (pairOf c) with
     | some p => p.snap.1.slots[n].st == .draining && p.snap.1.slots[n].th.uid == u
     | none => true)

/-- Does a thread of a tenant hold a slot on a die (R176)? -/
def activeOn (s : State) (d : BitVec 3) (t : BitVec 9) : Bool :=
  s.cores.any fun p => dieOf p.1 == d &&
    p.2.slots.toList.any fun x => x.st != .free && x.st != .disabled && x.th.tenant == t

/-- The slot a thread has left. -/
def emptySlot (s : State) (c : CoreId) (n : SlotId) : State :=
  let x := s.slotAt c n
  let s := s.setSlot c n { Slot.free with st := (if x.chosen then .disabled else .free), sends := x.sends }
  let d := dieOf c
  s.setDie d { s.die d with active := (s.die d).active.filter fun t => s.activeOn d t }

/-- Landing entries reserved for a thread are released. -/
def dropLanding (s : State) (uid : Nat) : State :=
  { s with cores := s.cores.map fun p => (p.1, { p.2 with
      landing := p.2.landing.filter fun l => match l with | .reserved _ _ u => u != uid | _ => true }) }

/-- The caller windows that a migrating thread has still to write (R108). -/
def dirtyCallers (t : Thread) : Bool := decide (savedWindows t.wsp < wspDepth t.wsp) && !t.callers.isEmpty

end State

/-- `DRAINING_COMPLETE` (R68, R81, R108, R109, R229, R407): the thread retires, its packet sets out once its callers' windows
are clean, or its suspension record is written. A thread for which a drained access has left a deferred fault does not migrate
(R148, R228): it is READY again, or HELD in a slot chosen meanwhile, and its landing entry is released (log entry 95). -/
def execDrainingComplete (c : CoreId) (n : SlotId) (s : State) : Out :=
  .next <|
    let x := s.slotAt c n
    if x.st ≠ .draining ∨ s.drained c n = false then s
    else match x.drain with
      | .retire => ((s.dropLanding x.th.uid).emptySlot c n).threadGone c x.th
      | .migrate place target =>
        if s.mayMigrate c x.th = false then
          (s.dropLanding x.th.uid).setSlot c n { x with
            st := if x.chosen then .held else .ready, key := (s.core c).cycle, chosen := false }
        else if State.dirtyCallers x.th then s.spillStep c n (savedWindows x.th.wsp)
        else
          let p : Packet := ⟨s.serial, target, place, landed x.th, false, (c, n, x.th.uid)⟩
          (({ s with packets := s.packets ++ [p] } : State).emptySlot c n).bump
      | .suspend =>
        let k := s.core c
        if 128 ≤ k.susp.length then s
        else
          let i := (lowest 128 fun i => !k.susp.any fun r => r.idx == i).getD 0
          ((s.setCore c { k with susp := k.susp ++ [⟨n, x.th, i⟩] }).fillWords (bits k.suspb 51 19 * 2 ^ 19 + 4096 * i) 512).emptySlot
            c n

/-- May an outgoing thread be suspended at its turn (R406, R407)? -/
def State.suspendNow (s : State) (c : CoreId) (n : SlotId) : Bool :=
  let x := s.slotAt c n
  let k := s.core c
  x.outgoing && bit k.suspb 63 && !k.serves x.th.qclass x.th.tenant && !bit x.th.scause 61 && !bit x.th.mcause 61 &&
    x.th.shadow.isNone && !s.isCoupled c && decide (k.susp.length < 128)

/-- `THREAD_SUSPENSION` (R406): the thread that would issue drains instead. -/
def execThreadSuspension (c : CoreId) (n : SlotId) (s : State) : Out :=
  .next <|
    if s.issueSlot c = some n ∧ s.suspendNow c n then
      s.setSlot c n { s.slotAt c n with st := .draining, drain := .suspend, wait := .answered, outgoing := false }
    else s

end Sys2Proof.Machine
end

