-- ==== Sys2Proof/Machine/Stitched.lean ====
section
/-! DEFINITION. Stitched tensors: the piece-list region, versions, pins, splices and releases (R365 to R367, R374, R375,
R379). -/
namespace Sys2Proof.Machine

/-! ## The region (R365) -/

/-- A region of storage that a key names, as an access of a core reaches it. -/
structure Blk where
  key    : KCell
  core   : CoreId
  region : Word
  sec    : Bool
  deriving DecidableEq, Repr, Inhabited

/-- What an access to the region meets. -/
inductive BStop
  | page (tenant : BitVec 9) (fine : Option Nat) (va : Nat) (write : Bool)
  | mig (tenant : BitVec 9) (va : Nat)
  | trap (t : TrapInfo)
  deriving DecidableEq, Repr, Inhabited

/-- A word of the region: where it stands, and whether its page tracks writes (R181). -/
structure BlkAt where
  space : Space
  idx   : Nat
  dt    : Bool
  pa    : Nat
  deriving DecidableEq, Repr, Inhabited

namespace State

/-- The region that a core reaches through a key. -/
def blk (s : State) (c : CoreId) (k : KCell) : Blk := ⟨k, c, (s.core c).region, bit (s.core c).world 0⟩

/-- Byte `off` of the region. -/
def blkAt (s : State) (b : Blk) (off : Nat) (write : Bool) : Except BStop BlkAt :=
  let k := b.key
  if k.kind = 1 then
    let a := bits k.w0 30 0 + off
    match s.placeCore b.core (a / 2 ^ 18) with
    | none => .error (.trap (kinfo 3 none 0 (word a)))
    | some h => .ok ⟨.ls h, a % 2 ^ 18 / 8, false, a % 2 ^ 18⟩
  else
    let va := k.base + off
    let fine := regionRoot b.region k.tenant va
    match s.translate k.tenant fine b.sec va write false, s.keyOf k.tenant with
    | .ok l, some ks => .ok ⟨.dev ks, l.pa / 8, l.dt, l.pa⟩
    | .fault, _ => .error (.page k.tenant fine va write)
    | .mig, _ => .error (.mig k.tenant va)
    | .frame, _ => .error (.trap (kinfo 6 none 0 (word va)))
    | .secure, _ => .error (.trap (kinfo 4 none 0 (word va)))
    | .ok _, none => .error (.trap (kinfo 5 none 0 (word va)))

/-- A word of the region and its tag; a poisoned word traps (R180). -/
def blkWord (s : State) (b : Blk) (off : Nat) : Except BStop (Word × Bool) :=
  match s.blkAt b off false with
  | .error e => .error e
  | .ok a =>
    if s.badAt a.space a.idx then .error (.trap ⟨0x14, if b.key.kind = 1 then 1 else 0, word (b.key.base + off), 0⟩)
    else .ok (s.rdW a.space a.idx, s.tagAt a.space a.idx)

/-- The dirty map of a frame takes a line (R181). -/
def markDirty (s : State) (dt : Bool) (pa : Nat) : State :=
  if dt then
    { s with dirty := s.dirty.map fun p => if p.1 = pa / 2 ^ 21 then (p.1, mark p.2 (pa / 64 % 2 ^ 15) true) else p }
  else s

/-- Words written to the region, in order: offset, value, tag. -/
def blkWrite (s : State) (b : Blk) : List (Nat × Word × Bool) → Except BStop State
  | [] => .ok s
  | (off, w, tag) :: r =>
    match s.blkAt b off true with
    | .error e => .error e
    | .ok a => (((s.storeW a.space a.idx w).setTagAt a.space a.idx tag).markDirty a.dt a.pa).blkWrite b r

/-- Words at the offsets of a list. -/
def blkWords (s : State) (b : Blk) : List Nat → Except BStop (List (Word × Bool))
  | [] => .ok []
  | off :: r =>
    match s.blkWord b off, s.blkWords b r with
    | .error e, _ => .error e
    | _, .error e => .error e
    | .ok w, .ok l => .ok (w :: l)

end State

/-- A slot of the control block. -/
structure VSlot where
  ver  : Nat
  pins : Nat
  live : Bool
  n    : Nat
  w1   : Word
  deriving DecidableEq, Repr, Inhabited

/-- A control block. -/
structure Ctrl where
  rtag  : Nat
  owner : Nat
  ver   : Nat
  pmax  : Nat
  slots : List VSlot
  deriving DecidableEq, Repr, Inhabited

/-- A piece record. -/
structure PRec where
  w0  : Word
  w1  : Word
  w2  : Word
  tag : Bool
  deriving DecidableEq, Repr, Inhabited

namespace Ctrl

/-- The slot of a live version. -/
def find (c : Ctrl) (v : Nat) : Option (Nat × VSlot) :=
  match c.slots.findIdx? fun x => x.live && x.ver == v with
  | some i => (c.slots[i]?).map fun x => (i, x)
  | none => none

end Ctrl

namespace State

/-- The control block; `none`: it breaks the layout of R365. -/
def ctrl (s : State) (b : Blk) : Except BStop (Option Ctrl) :=
  match s.blkWords b ((List.range 64).map (8 * ·)) with
  | .error e => .error e
  | .ok l =>
    let w (i : Nat) : Word := (l.getD i (0, false)).1
    let pmax := bits (w 1) 15 0
    let zero (i : Nat) : Bool := w i == 0
    let ok := bits (w 0) 31 13 == 0 && bits (w 1) 31 16 == 0 && pmax != 0 &&
      ((List.range 6).all fun i => zero (2 + i)) && ((List.range 24).all fun i => zero (40 + i)) &&
      ((List.range 8).all fun i => zero (10 + 4 * i) && zero (11 + 4 * i) && bits (w (9 + 4 * i)) 62 48 == 0 &&
        decide (bits (w (9 + 4 * i)) 47 32 ≤ pmax)) &&
      decide (512 + 256 * pmax ≤ b.key.len)
    .ok (if ok then
      some ⟨bits (w 0) 63 32, bits (w 0) 12 0, bits (w 1) 63 32, pmax, (List.range 8).map fun i =>
        ⟨bits (w (8 + 4 * i)) 63 32, bits (w (8 + 4 * i)) 31 0, bit (w (9 + 4 * i)) 63, bits (w (9 + 4 * i)) 47 32, w (9 + 4 * i)⟩⟩
    else none)

/-- Three words of each of `n` records from byte `base` on. -/
def records (s : State) (b : Blk) (base n : Nat) : Except BStop (List PRec) :=
  match s.blkWords b ((List.range (3 * n)).map fun i => base + 32 * (i / 3) + 8 * (i % 3)) with
  | .error e => .error e
  | .ok l =>
    let g (i : Nat) : Word × Bool := l.getD i (0, false)
    .ok ((List.range n).map fun j => ⟨(g (3 * j)).1, (g (3 * j + 1)).1, (g (3 * j + 2)).1, (g (3 * j)).2 && (g (3 * j + 1)).2⟩)

/-- The records of slot `i`. -/
def slotRecords (s : State) (b : Blk) (c : Ctrl) (i : Nat) : Except BStop (List PRec) :=
  s.records b (512 + 32 * c.pmax * i) ((c.slots.getD i default).n)

/-- The records of every live slot but `i`. -/
def keptRecords (s : State) (b : Blk) (c : Ctrl) (i : Nat) : Nat → Except BStop (List PRec)
  | 0 => .ok []
  | n + 1 =>
    match s.keptRecords b c i n with
    | .error e => .error e
    | .ok l =>
      if n ≠ i ∧ (c.slots.getD n default).live then
        match s.slotRecords b c n with
        | .error e => .error e
        | .ok r => .ok (l ++ r)
      else .ok l

/-- Entries of a version leave the piece translation buffer of every core of a partition (R366, R368); every version with
`none`. -/
def dropPieces (s : State) (p : Nat) (id : TensorId) (ver : Option Nat) : State :=
  { s with cores := s.cores.map fun x =>
      if s.partOf x.1 = some p then
        (x.1, { x.2 with pieces := x.2.pieces.filter fun e => !(e.id == id && (match ver with | some v => e.ver.toNat == v | none => true)) })
      else x }

/-- The releases of a freed version (R366): pieces in no live version, each once. -/
def releasesOf (l keep : List PRec) : List PRec :=
  l.foldl (fun acc r =>
    if (keep ++ acc).any fun x => x.w0 == r.w0 && x.w1 == r.w1 then acc else acc ++ [r]) []

/-- Port of the home of a control block (R19): the block's memory port, or the cluster that holds it. -/
def blkPort (s : State) (b : Blk) : Nat :=
  match s.blkAt b 0 false with
  | .ok ⟨.ls h, _, _, _⟩ => (clusterOf h).toNat
  | .ok ⟨.dev _, _, _, pa⟩ => 512 + 8 * sliceOf pa + (clusterOf b.core).toNat % 8
  | .error _ => 1440

/-- A release message. -/
def sendRelease (s : State) (b : Blk) (c : Ctrl) (place ver : Nat) (id : TensorId) (r : PRec) : State :=
  match s.placeCore b.core c.owner with
  | none => s
  | some h =>
    s.send (.home (s.blkPort b)) h
      [⟨msgWords (msgHeader 0x05 place 4 0 c.rtag) [word (ver * 2 ^ 32 + id.toNat), r.w0, r.w1, r.w2], b.key.tenant, false, none, []⟩]

/-- A version that is not current is freed (R366). `extra`: records of a version published in the same step. -/
def freeVersion (s : State) (b : Blk) (c : Ctrl) (i : Nat) (id : TensorId) (place : Nat) (extra : List PRec) :
    Except BStop State :=
  let x := c.slots.getD i default
  match s.slotRecords b c i, s.keptRecords b c i 8 with
  | .error e, _ => .error e
  | _, .error e => .error e
  | .ok l, .ok keep =>
    match s.blkWrite b [(72 + 32 * i, setBits x.w1 63 63 0, false)] with
    | .error e => .error e
    | .ok s =>
      let s := s.dropPieces ((s.partOf b.core).getD 64) id (some x.ver)
      .ok ((releasesOf l (keep ++ extra)).foldl (fun s r => s.sendRelease b c place x.ver id r) s)

/-! ## Pins (R366, R375) -/

def noVersion (id : TensorId) : BStop := .trap (descTrap id 0 15)
def badBlock (id : TensorId) : BStop := .trap (descTrap id 0 14)

/-- One pin on a live version. -/
def pinVersion (s : State) (b : Blk) (id : TensorId) (c : Ctrl) (v : Nat) : Except BStop State :=
  match c.find v with
  | none => .error (noVersion id)
  | some (i, x) =>
    if x.pins = 2 ^ 32 - 1 then .error (noVersion id)
    else s.blkWrite b [(64 + 32 * i, word (x.ver * 2 ^ 32 + x.pins + 1), false)]

/-- Is the tensor closed for accesses through an entry: one that is being replaced (R257)? The copies of an entry differ in VERSION and
SHAPE1 while a splice spreads. -/
def closedFor (s : State) (c : CoreId) (id : TensorId) (d : Desc) : Bool :=
  let bare (d : Desc) : Desc := d.newVersion 0 0
  (s.part ((s.partOf c).getD 64)).closed.any fun p => p.1 == id && bare p.2.2 == bare d

/-- `SPIN` of the current version: the version. -/
def spinPin (s : State) (b : Blk) (id : TensorId) (d : Desc) : Except BStop (State × Word) :=
  if s.closedFor b.core id d then .error (.trap (descTrap id 0 6))
  else match s.ctrl b with
    | .error e => .error e
    | .ok none => .error (badBlock id)
    | .ok (some c) =>
      match s.pinVersion b id c c.ver with
      | .error e => .error e
      | .ok s => .ok (s, word c.ver)

/-- An unpin; the version is freed at its last pin unless it is current. -/
def unpinVersion (s : State) (b : Blk) (id : TensorId) (v place : Nat) : Except BStop State :=
  match s.ctrl b with
  | .error e => .error e
  | .ok none => .error (badBlock id)
  | .ok (some c) =>
    match c.find v with
    | none => .error (noVersion id)
    | some (i, x) =>
      if x.pins = 0 then .error (noVersion id)
      else
        let s1 := s.blkWrite b [(64 + 32 * i, word (x.ver * 2 ^ 32 + x.pins - 1), false)]
        match s1 with
        | .error e => .error e
        | .ok s1 => if x.pins = 1 ∧ v ≠ c.ver then s1.freeVersion b c i id place [] else .ok s1

/-- The pins of a task's stitched sides (R372): all of them, or none. -/
def pinAll (s : State) (c : CoreId) : List (Desc × TensorId × BitVec 32) → Except BStop State
  | [] => .ok s
  | (d, id, v) :: r =>
    let b := s.blk c d.key
    if s.closedFor c id d then .error (.trap (descTrap id 0 6))
    else match s.ctrl b with
      | .error e => .error e
      | .ok none => .error (badBlock id)
      | .ok (some x) =>
        match s.pinVersion b id x v.toNat with
        | .error e => .error e
        | .ok s => s.pinAll c r

/-! ## `SPLICE` (R367, R374) -/

/-- Is an inserted record one that the tensor accepts? -/
def recordOk (d : Desc) (level : Level) (tenant : BitVec 9) (r : PRec) : Bool :=
  let k : KCell := ⟨r.w0, r.w1, r.tag, .full⟩
  let rows := bits r.w2 31 0
  r.tag && k.kind == 0 && !(level == .user && k.tenant != tenant) && rows != 0 && rows % d.rowgran == 0 &&
    decide ((rows - 1) * (d.stride 1 * d.width / 8) + d.rowBytes ≤ k.len)

/-- Records with FIRST as the running sum of ROWS, and the sum. -/
def numbered : Nat → List PRec → List PRec × Nat
  | first, [] => ([], first)
  | first, r :: l =>
    let (t, n) := numbered (first + bits r.w2 31 0) l
    ({ r with w2 := word (first * 2 ^ 32 + bits r.w2 31 0) } :: t, n)

/-- The words of a record array at a byte offset. -/
def recordWords (base : Nat) (l : List PRec) : List (Nat × Word × Bool) :=
  l.zipIdx.flatMap fun p =>
    let a := base + 32 * p.2
    [(a, p.1.w0, p.1.tag), (a + 8, p.1.w1, p.1.tag), (a + 16, p.1.w2, false), (a + 24, 0, false)]

/-- The atomic step of a splice at the home. It answers `none` when EXPECT is not the current version, else the new
version and its rows. -/
def spliceAt (s : State) (b : Blk) (id : TensorId) (d : Desc) (level : Level) (tenant : BitVec 9) (place : Nat) (x : Word)
    (ins : List PRec) : Except BStop (State × Option (Nat × Nat)) :=
  let o := bits x 15 0
  let nrem := bits x 23 16
  let expect := bits x 63 32
  if s.closedFor b.core id d then .error (.trap (descTrap id 0 6))
  else match s.ctrl b with
    | .error e => .error e
    | .ok none => .error (badBlock id)
    | .ok (some c) =>
      let v := c.ver
      if expect ≠ 0 ∧ expect ≠ v then .ok (s, none)
      else match c.slots.findIdx? fun y => !y.live with
        | none => .error (.trap ⟨0x12, word id.toNat, word v, 0⟩)
        | some ns =>
          if v = 2 ^ 32 - 1 then .error (.trap ⟨0x12, word id.toNat, word v, 0⟩)
          else match c.find v with
            | none => .error (badBlock id)
            | some (ci, cs) =>
              match s.slotRecords b c ci with
              | .error e => .error e
              | .ok old =>
                let n := old.length - nrem + ins.length
                if o + nrem > old.length ∨ n > c.pmax ∨ ins.any fun r => !recordOk d level tenant r then
                  .error (badBlock id)
                else
                  let (new, rows) := numbered 0 (old.take o ++ ins ++ old.drop (o + nrem))
                  let ws := recordWords (512 + 32 * c.pmax * ns) new ++
                    [(64 + 32 * ns, word ((v + 1) * 2 ^ 32), false),
                     (72 + 32 * ns, word (2 ^ 63 + n * 2 ^ 32 + rows % 2 ^ 32), false),
                     (8, word ((v + 1) * 2 ^ 32 + c.pmax), false)]
                  match s.blkWrite b ws with
                  | .error e => .error e
                  | .ok s1 =>
                    if cs.pins ≠ 0 then .ok (s1, some (v + 1, rows))
                    else match s1.freeVersion b c ci id place new with
                      | .error e => .error e
                      | .ok s2 => .ok (s2, some (v + 1, rows))

/-- The updates of every copy of a descriptor set out (R245): each cluster of the partition takes it in this order. -/
def broadcast (s : State) (p : Nat) (tok : Nat) (u : DescUpd) : State :=
  (s.clustersOf p).foldl (fun s cl => s.setCopy p cl { s.copy p cl with descq := (s.copy p cl).descq ++ [(tok, u)] }) s

/-- Has every cluster applied an update? -/
def updateOver (s : State) (tok : Nat) : Bool :=
  s.copies.all fun p => (p.2.descq.all fun u => u.1 ≠ tok) && (p.2.berthq.all fun u => u.1 ≠ tok)

end State

/-! ## Instructions -/

/-- The entry of a stitched tensor, or trap 0x0D reason 7 (R374, R375). -/
def State.stitched (s : State) (v : View) (id : TensorId) : Except TrapInfo Desc :=
  match s.descOf v id with
  | none => .error (descTrap id 0 6)
  | some d => if d.kind = 2 then .ok d else .error (descTrap id 0 7)

/-- `SPLICE` at issue (R374): the operand rules, the check of the inserted records, then the access at the home. -/
def spliceBody (insOk remOk : Nat → Bool) (d : SReg) (t : TensorId) (x : SReg) (rec : Option (KReg × Word)) (v : View)
    (s : State) : Head :=
  match s.stitched v t with
  | .error i => .trap i
  | .ok e =>
    let w := v.sd x
    let nins := bits w 31 24
    if insOk nins = false ∨ remOk (bits w 23 16) = false then .trap (descTrap t 0 14)
    else match rec with
      | none => s.homeAccess v e.key (.splice t e w none) (.s d)
      | some (k, off) =>
        match s.checkCap v k off (32 * nins) .read 32 with
        | .error i => .trap i
        | .ok a =>
          match s.drainMet a (32 * nins) with
          | some (n, c) => .park (.drain n c)
          | none => s.homeAccess v e.key (.splice t e w (some (v.th.k[k.toFin], off.toNat))) (.s d)

def some1 (n : Nat) : Bool := n != 0
def zero1 (n : Nat) : Bool := n == 0

def execSpliceIns (d : SReg) (t : TensorId) (x : SReg) (k : KSrc) (b : Src) : State → Out :=
  plain [sN d, sN x, k.need, b.need] fun v s => spliceBody some1 zero1 d t x (some (k.reg, v.s b)) v s
def execSpliceRem (d : SReg) (t : TensorId) (x : SReg) : State → Out :=
  plain [sN d, sN x] fun v s => spliceBody zero1 some1 d t x none v s
def execSpliceRep (d : SReg) (t : TensorId) (x : SReg) (k : KSrc) (b : Src) : State → Out :=
  plain [sN d, sN x, k.need, b.need] fun v s => spliceBody some1 some1 d t x (some (k.reg, v.s b)) v s

def execSpin (d : SReg) (t : TensorId) : State → Out :=
  plain [sN d] fun v s =>
    match s.stitched v t with
    | .error i => .trap i
    | .ok e => s.homeAccess v e.key (.spin t e) (.s d)

def execSpinUn (t : TensorId) (x : SReg) : State → Out :=
  plain [sN x] fun v s =>
    match s.stitched v t with
    | .error i => .trap i
    | .ok e => s.homeAccess v e.key (.unpin t e (v.sd x).toNat) .none

end Sys2Proof.Machine
end

