-- ==== Sys2Proof/Machine/Access.lean ====
section
/-! DEFINITION. What an access does to the words of its home: reads, writes, full/empty states, wait lists (R180, R181, R184,
R187, R196 to R202, R410). -/
namespace Sys2Proof.Machine

namespace State

def req (s : State) (i : Nat) : Option Req := s.reqs.find? fun r => r.id == i
def setReq (s : State) (r : Req) : State := { s with reqs := s.reqs.map fun x => if x.id = r.id then r else x }
def dropReq (s : State) (i : Nat) : State := { s with reqs := s.reqs.filter fun x => x.id ≠ i }

/-- Does the thread of a request still wait in its slot for it? -/
def alive (s : State) (r : Req) : Bool :=
  let x := s.slotAt r.core r.slot
  x.th.uid == r.uid && (x.st == .parked || x.st == .heldParked)

/-! ## Effects on words -/

/-- Words are stored whole. -/
def storeWs (s : State) (sp : Space) (l : List (Nat × Word)) : State := l.foldl (fun s p => s.storeW sp p.1 p.2) s

/-- The dirty maps take the words that an access has written (R181). -/
def markWords (s : State) (r : Req) : State := if r.dt then r.words.foldl (fun s i => s.markDirty true (8 * i)) s else s

/-- One bit of a dirty map's word read and cleared (R187); without a map the word is 0. -/
def harvestWord (s : State) (frame idx : Nat) : State × Word :=
  let l := agetD s.dirty frame []
  let mine (x : Nat) : Bool := x / 64 == idx
  ({ s with dirty := s.dirty.map fun p => if p.1 = frame then (p.1, p.2.filter fun x => !mine x) else p },
   word ((l.filter mine).map fun x => 2 ^ (x % 64)).sum)

end State

/-- The new value of an `AMO` (R202), on `n` bytes. -/
def amoNew (f : AmoF) (n old a b : Nat) : Option Nat :=
  let w := 8 * n
  match f with
  | .add => some ((old + a) % 2 ^ w)
  | .swap => some a
  | .cas => if old = b then some a else none
  | .and => some (Nat.land old a)
  | .or => some (Nat.lor old a)
  | .xor => some (Nat.xor old a)
  | .min => some (if sxN w a < sxN w old then a else old)
  | .max => some (if sxN w old < sxN w a then a else old)
  | .minu => some (min old a)
  | .maxu => some (max old a)

/-- Trap 0x14 of an access (R180). -/
def Req.poisonTrap (r : Req) : Reply := .trap 0x14 (if r.dev then 0 else 1) (word r.va)

/-- What an access at its home comes to. -/
structure Done where
  s    : State
  rep  : Reply
  /-- the word whose full/empty state has changed -/
  flip : Option Nat

namespace State

/-- Words read with their tags, or the poison trap. -/
def readWords (s : State) (r : Req) (sp : Space) : Reply :=
  if r.words.any (s.badAt sp) then r.poisonTrap
  else .words (r.words.map (s.rdW sp)) (r.words.all (s.tagAt sp))

/-- The `size` bytes of a bit access as a number. -/
def fieldBytes (s : State) (r : Req) (sp : Space) : Nat :=
  ofBytes ((List.range r.size).map fun j => BitVec.ofNat 8 (s.rdN sp (r.loc j) 1))

/-- A bit field written: its bytes change, tags are cleared, poison stays (R197). -/
def storeField (s : State) (r : Req) (sp : Space) (off len : Nat) (v : Word) : State :=
  let old := s.fieldBytes r sp
  let x := old - old / 2 ^ off % 2 ^ len * 2 ^ off + v.toNat % 2 ^ len * 2 ^ off
  (List.range r.size).foldl (fun s j => s.storeN sp (r.loc j) 1 (x / 2 ^ (8 * j) % 256)) s

/-- `LDS` at the bank (R199); `none`: its condition fails. -/
def ldsAt (s : State) (r : Req) (sp : Space) (m : LdsMode) : Option Done :=
  let i := r.loc 0 / 8
  let full := s.isFull sp i
  let data (s' : State) (f : Option Nat) : Option Done :=
    some (if s.badAt sp i then ⟨s, r.poisonTrap, none⟩ else ⟨s', .words [s.rdW sp i] false, f⟩)
  match m with
  | .full => if full then data s none else none
  | .take => if full then data ((s.setFull sp i false).markWords r) (some i) else none
  | .any => data s none
  | .state => some ⟨s, .words [if full then 1 else 0] false, none⟩

/-- `STS` at the bank (R199). -/
def stsAt (s : State) (r : Req) (sp : Space) (m : StsMode) (v : Word) : Option Done :=
  let i := r.loc 0 / 8
  let full := s.isFull sp i
  let put (on : Bool) : Option Done :=
    some ⟨((s.storeW sp i v).setFull sp i on).markWords r, .words [] false, if full = on then none else some i⟩
  match m with
  | .fill => if full then none else put true
  | .set => put true
  | .clear => put false

/-- `AMO` at the bank (R202). -/
def amoAt (s : State) (r : Req) (sp : Space) (f : AmoF) (n : Nat) (a b : Word) : Done :=
  if s.badAt sp (r.loc 0 / 8) then ⟨s, r.poisonTrap, none⟩
  else
    let old := s.rdN sp (r.loc 0) n
    let rep : Reply := .words [signExt (8 * n) (word old)] false
    match amoNew f n old (a.toNat % 2 ^ (8 * n)) (b.toNat % 2 ^ (8 * n)) with
    | none => ⟨s, rep, none⟩
    | some x => ⟨(s.storeN sp (r.loc 0) n x).markWords r, rep, none⟩

/-- An access to the words of its home. -/
def opAt (s : State) (r : Req) (sp : Space) : Option Done :=
  let wrote (s : State) : Option Done := some ⟨s.markWords r, .words [] false, none⟩
  let ok (l : List Word) : Option Done := some ⟨s, .words l false, none⟩
  match r.op with
  | .ld n sx =>
    if s.badAt sp (r.loc 0 / 8) then some ⟨s, r.poisonTrap, none⟩
    else
      let x := word (s.rdN sp (r.loc 0) n)
      ok [if sx then signExt (8 * n) x else x]
  | .st n v => wrote (s.storeN sp (r.loc 0) n (v.toNat % 2 ^ (8 * n)))
  | .ldb off len sx =>
    if r.words.any (s.badAt sp) then some ⟨s, r.poisonTrap, none⟩
    else
      let x := word (s.fieldBytes r sp / 2 ^ off % 2 ^ len)
      ok [if sx then signExt len x else x]
  | .stb off len v => wrote (s.storeField r sp off len v)
  | .lds m => s.ldsAt r sp m
  | .sts m v => s.stsAt r sp m v
  | .amo f n a b => some (s.amoAt r sp f n a b)
  | .ldv => some ⟨s, s.readWords r sp, none⟩
  | .stv x => wrote (s.storeWs sp (r.words.zipIdx.map fun p => (p.1, rowWord x p.2)))
  | .kld => some ⟨s, s.readWords r sp, none⟩
  | .kst w0 w1 tag =>
    wrote (r.words.foldl (fun s i => s.setTagAt sp i tag) (s.storeWs sp (r.words.zip [w0, w1])))
  | .asave _ rows =>
    wrote (s.storeWs sp (r.words.zip (rows.flatMap fun x => (List.range 16).map (rowWord x))))
  | .aload _ => some ⟨s, s.readWords r sp, none⟩
  | .spill ws => wrote (s.storeWs sp (r.words.zip ws))
  | .stw ws => wrote (s.storeWs sp (r.words.zip ws))
  | .fill _ => some ⟨s, s.readWords r sp, none⟩
  | .tdset _ => some ⟨s, s.readWords r sp, none⟩
  | .harvest f i =>
    let (s, w) := s.harvestWord f i
    some ⟨s, .words [w] false, none⟩
  | _ => none

/-- An access under its tenant's key; an empty keyring slot refuses it (R404). -/
def tryKey (s : State) (r : Req) : Option Done :=
  if r.dev then
    match s.keyOf r.tenant with
    | some k => s.opAt r (.dev k)
    | none =>
      let i := kinfo 5 (some r.key) 0 (word r.va)
      some ⟨s, .trap i.cause i.info i.info2, none⟩
  else s.opAt r (.ls r.home)

/-- A read of a coupled pair sees the writes that its buffer holds (R410). -/
def heldWrites (s : State) (r : Req) : State :=
  (s.reqs.filter fun x => x.gate && x.core == r.core && decide (x.id < r.id) && x.stage == .home).foldl (fun s x =>
    match s.tryKey x with | some d => d.s | none => s) s

/-- The words of a coupled pair's local store as a rollback brings them back take what another core's access does to them (R411). -/
def keepWrite (s : State) (r : Req) (d : Done) : Done :=
  if r.dev || r.core == r.home then d
  else match aget s.pairs (pairOf r.home) with
    | none => d
    | some p =>
      match (s.setCore r.home p.snap.1).tryKey r with
      | none => d
      | some e =>
        { d with s := { d.s with pairs := aset d.s.pairs (pairOf r.home) { p with snap := (e.s.core r.home, p.snap.2) } } }

def tryReq (s : State) (r : Req) : Option Done :=
  if s.isCoupled r.core && r.far.isNone && !r.op.writes && (s.reqs.any fun x => x.gate && x.core == r.core) && !r.op.atHome then
    ((s.heldWrites r).tryKey r).map fun d => { d with s := s }
  else (s.tryKey r).map fun d => s.keepWrite r d

/-! ## Order (R205, R214) -/

/-- Do two requests of a thread touch the same bytes? -/
def overlap (a b : Req) : Bool :=
  a.dev == b.dev && (!a.dev || a.tenant == b.tenant) && decide (a.va < b.va + b.size) && decide (b.va < a.va + a.size)

/-- Not yet performed. -/
def Stage.open_ : Stage → Bool
  | .reply => false
  | .fabric => false
  | _ => true

/-- An earlier request of the thread, to bytes of this one, that is still in a stage. The two accesses of one bundle have no
order between them (R63). -/
def behind (s : State) (r : Req) (p : Stage → Bool) : Bool :=
  s.reqs.any fun x => x.uid == r.uid && decide (x.id < r.id) && !x.gate && !x.op.atHome && !(x.ordinary && r.ordinary) &&
    overlap x r && p x.stage

/-- An earlier ordinary write of the thread, let go by its coupled pair, has still to perform (R204, R410). -/
def behindHeld (s : State) (r : Req) : Bool :=
  r.held && s.reqs.any fun x => x.uid == r.uid && decide (x.id < r.id) && x.held && Stage.open_ x.stage

/-! ## Bundles whose two heads both wait (R31)

The array head is an `ASAVE`, an `ALOAD` or an `MSWAP`; the scalar head is an access, a `FENCE` or a recalibration. Neither
takes effect before the other can: the scalar head performs once the array head is ready and would not trap, and the array head
performs in the same step. -/

/-- May a queued swap be made: no load and no `MMA` stands before it (R261)? -/
def swapDue (s : State) (c : CoreId) (e : AEntry) : Bool :=
  !((s.core c).arrayq.takeWhile fun a => a.tok ≠ e.tok).any fun a => a.op.isMldw || a.op.isMma

/-- An access is answered: its reply is injected (R72, R214). -/
def answerReq (s : State) (r : Req) (rep : Reply) : State :=
  (s.setReq { r with stage := .reply, reply := some rep, inj := s.serial }).bump

/-- Would the access end with a value, were it performed now? -/
def wouldAnswer (s : State) (r : Req) : Bool :=
  match s.tryReq r with
  | some ⟨_, .words .., _⟩ => true
  | _ => false

/-- The array head of the bundle can perform, and would not trap. -/
def mateReady (s : State) (c : CoreId) (uid : Nat) : Bool :=
  match s.mateOf c uid with
  | .none => true
  | .image q =>
    q.stage == .home && (q.gate || (!s.behind q Stage.open_ && s.onTime q.way && s.wouldAnswer q))
  | .swap e => s.swapDue c e && (s.core c).failed.isNone

/-- The planes change places (R286). -/
def swapPlanes (s : State) (c : CoreId) (e : AEntry) : State :=
  let x := s.core c
  s.setCore c { x with stat := x.shad, shad := x.stat, arrayq := x.arrayq.filter fun a => a.tok ≠ e.tok }

/-- The array head performs, in the step in which the scalar head has. -/
def performMate (s : State) (c : CoreId) (uid : Nat) : State :=
  match s.mateOf c uid with
  | .none => s
  | .image q =>
    if q.gate then s
    else match s.tryReq q with
      | some d => d.s.answerReq q d.rep
      | none => s
  | .swap e => s.swapPlanes c e

/-- Has the scalar head of the bundle still to perform? -/
def scalarWaits (s : State) (c : CoreId) (n : SlotId) (uid : Nat) : Bool :=
  let open_ (x : Req) : Bool := match x.stage, x.reply with | .reply, some (.words ..) => false | _, _ => true
  (s.reqs.any fun x => x.uid == uid && x.ordinary && !x.op.image && open_ x) ||
    ((s.slotAt c n).th.uid == uid && (match (s.slotAt c n).wait with | .fence .. => true | .recal _ => true | _ => false))

/-! ## The end of an access at its home -/

/-- A posted store that is discarded: the thread's record, or one more counted under it (R148). Of faults found out of issue order the
one found first is kept as the oldest: the model's choice (log entry 98). -/
def failStore (s : State) (r : Req) (t : TrapInfo) : State :=
  (s.dropReq r.id).mapUid r.uid fun th =>
    { th with dstore := some (match th.dstore with
        | none => ⟨r.uid, r.pc, t.cause, t.fl, t.info, 0⟩
        | some d => { d with dcnt := min 255 (d.dcnt + 1) }) }

/-- Is the request a store that its thread does not wait for? -/
def posted (r : Req) : Bool := r.relaxed && r.dst == .none

/-- An access ends in a fault: a posted store is discarded, any other is answered. -/
def failReq (s : State) (r : Req) (t : TrapInfo) : State :=
  if posted r then s.failStore r t
  else s.answerReq r (.trap t.cause t.info t.info2)

/-- An access has performed. -/
def finish (s : State) (r : Req) (rep : Reply) : State :=
  match rep with
  | .trap c i j => s.failReq r ⟨c, i, j, 0⟩
  | .words .. =>
    let silent : Bool := match r.op with | .spill _ => true | _ => posted r
    if silent then s.dropReq r.id
    else
      let s := s.answerReq r rep
      if r.ordinary && !r.op.image then s.performMate r.core r.uid else s

/-- Does a request wait for a word's state? -/
def waitsFor (r : Req) (sp : Space) (i : Nat) : Bool :=
  r.stage == .waiting && r.loc 0 / 8 == i &&
    (match sp with
     | .dev _ => r.dev
     | .ls c => !r.dev && r.home == c)

/-- One pass over a word's waiters in arrival order (R200). Did it perform one? -/
def servePass (s : State) : List Nat → State × Bool
  | [] => (s, false)
  | i :: l =>
    match (s.req i).bind fun r =>
        if r.stage = .waiting ∧ s.mateReady r.core r.uid then (s.tryReq r).map fun d => (r, d) else none with
    | none => s.servePass l
    | some (r, d) => (((d.s.finish r d.rep).servePass l).1, true)

/-- Passes until one performs no waiter. `fuel` bounds the waiters. -/
def serveWord (s : State) (sp : Space) (i : Nat) : Nat → State
  | 0 => s
  | fuel + 1 =>
    let l := (s.reqs.filter fun r => waitsFor r sp i).map (·.id)
    match s.servePass l with
    | (t, true) => t.serveWord sp i fuel
    | (t, false) => t

/-- The space that a request reaches. -/
def spaceOf (r : Req) : Space := if r.dev then .dev monKey else .ls r.home

/-- A word's waiters are served after its state has changed. -/
def serve (s : State) (sp : Space) (flip : Option Nat) : State :=
  match flip with
  | some i => s.serveWord sp i (s.reqs.length + 1)
  | none => s

/-- Entries in use of the wait list at the home of a request (R200). -/
def waitCount (s : State) (r : Req) : Nat :=
  (s.reqs.filter fun x => x.stage == .waiting && x.dev == r.dev &&
    (if r.dev then x.slice == r.slice else x.home == r.home)).length

/-- Trap 0x04 (R201). -/
def retryTrap (r : Req) : TrapInfo :=
  let m : Nat := match r.op with
    | .lds .full => 0
    | .lds .take => 4
    | .lds .any => 8
    | .lds .state => 12
    | .sts .fill _ => 2
    | .sts .set _ => 6
    | .sts .clear _ => 10
    | _ => 1
  ⟨0x04, word ((if r.dev then 0 else 16) + m), word r.va, 0⟩

/-- A refused sync access is resent later, or has been too often (R201). -/
def resendLater (s : State) (r : Req) : State :=
  if 255 ≤ r.retry then s.failReq r (retryTrap r)
  else
    let j := r.retry + 1
    s.setReq { r with stage := .backoff ((s.core r.core).cycle + 32 * 2 ^ min (j - 1) 5), retry := j }

/-- A sync access whose condition fails joins the wait list, or is refused and resent later (R200, R201); the part that sent it resends
one that came over Gildoza. -/
def joinWait (s : State) (r : Req) : State :=
  if r.far.isNone && s.alive r = false then s.dropReq r.id
  else if s.waitCount r < (if r.dev then 1024 else 256) then
    let t := s.dropReq r.id
    ({ t with reqs := t.reqs ++ [{ r with stage := .waiting, inj := s.serial }] } : State).bump
  else if r.far.isSome then s.failReq r (retryTrap r)
  else s.resendLater r

/-- A waiting access of the thread performs, if it can: its array head has become ready (R31). -/
def serveThread (s : State) (uid : Nat) : State :=
  match s.reqs.find? fun x => x.uid == uid && x.ordinary && x.stage == .waiting && s.mateReady x.core x.uid with
  | none => s
  | some x =>
    match s.tryReq x with
    | some d => (d.s.finish x d.rep).serve (spaceOf x) d.flip
    | none => s

/-- A request performs at its home, or joins its wait list. The two heads of a bundle that both wait perform together. -/
def performWords (s : State) (r : Req) : State :=
  match s.tryReq r with
  | none => s.joinWait r
  | some d =>
    let go := (d.s.finish r d.rep).serve (spaceOf r) d.flip
    match d.rep with
    | .trap .. => go
    | .words .. =>
      if r.ordinary = false then go
      else if r.op.image then (if s.scalarWaits r.core r.slot r.uid then s.serveThread r.uid else go)
      else if s.mateReady r.core r.uid then go else s

end State

end Sys2Proof.Machine
end

