-- ==== Sys2Proof/Machine/EvTasks.lean ====
section
/-! DEFINITION. The steps of task nodes and of the copies of the tables: dispatch, staging, commit, drain end, page migration,
and the updates of the descriptor and berth tables (R182, R245, R346, R352 to R364, R382). -/
namespace Sys2Proof.Machine

/-! ## Chunks (R354) -/

/-- Staging of a chunk in bytes. -/
def chunkBytes : Nat := 2 ^ 19

def TaskKind.byIndex : TaskKind → Bool
  | .gather => true
  | .scatter => true
  | .scatterAdd => true
  | _ => false

namespace Node

/-- Row bytes of the table of a gather or scatter. -/
def tableRow (n : Node) : Nat := if n.kind = .gather then n.src.rowBytes else n.dst.rowBytes

/-- Destination bytes of one unit of the chunks: an index position, or a byte. -/
def unit (n : Node) : Nat := if n.kind.byIndex then n.tableRow else 1

/-- Units in a chunk. -/
def perChunk (n : Node) : Nat := if n.kind.byIndex then max 1 (chunkBytes / max 1 n.unit) else chunkBytes

end Node

namespace State

/-- Units of a node (R351, R363). -/
def nodeUnits (s : State) (n : Node) : Nat :=
  match n.kind with
  | .migrate => 1
  | .collective =>
    match n.op with
    | 1 => n.size * s.members n.group
    | 2 => n.size / s.members n.group
    | _ => n.size
  | _ => n.size

/-- First unit and number of units of chunk `c`. -/
def chunkSpan (s : State) (n : Node) (c : Nat) : Nat × Nat :=
  (c * n.perChunk, min n.perChunk (s.nodeUnits n - c * n.perChunk))

/-! ## Dispatch (R353) -/

/-- The engine of a die that holds the fewest nodes, lowest number on ties; none while all queues are full. -/
def idlestEngine (s : State) (d : BitVec 3) : Option (BitVec 5) :=
  let es := (List.range 4).map fun k => BitVec.ofNat 5 (4 * d.toNat + k)
  let least := ((es.map fun e => s.engineLoad d e).min?).getD 64
  if 64 ≤ least then none else es.find? fun e => s.engineLoad d e == least

/-- READY nodes of a die that became ready earlier. -/
def olderReady (s : State) (d : BitVec 3) (seq : Nat) : Bool :=
  s.clusters.any fun p => dieOfCluster p.1 == d &&
    p.2.nodes.any fun x => x.2.st == .ready && !x.2.gate && decide (x.2.seq < seq)

/-- The head of a node's track seeks a position; the positions count for the completion (R314, R358). -/
def nodeSeek (s : State) (n : Node) (t : TrackId) (p : Nat) : State × Nat :=
  let x := s.core n.core
  let k := x.track t
  let m := ((p : Int) - k.pos).natAbs
  ((s.setCore n.core (x.setTrack t { k with pos := p })).addMove n.core t (shiftCycles m), m)

/-- Both track sides at the node's start. -/
def startHeads (s : State) (n : Node) : State × Nat :=
  [n.src, n.dst].foldl (fun (a : State × Nat) x =>
    match x with
    | .track t p => let (s, m) := a.1.nodeSeek n t p; (s, a.2 + m)
    | _ => a) (s, 0)

end State

/-- `NODE_DISPATCH` (R346, R353): the oldest READY node of its die goes to an engine. A reduce-scatter of fewer bytes than the group has
members has no chunk, and fails (R363). -/
def execNodeDispatch (cl : BitVec 9) (i : BitVec 10) (s : State) : Out :=
  .next <|
    let n := s.node cl i
    let d := dieOfCluster cl
    if n.st ≠ .ready ∨ n.gate ∨ s.olderReady d n.seq then s
    else if n.kind ≠ .migrate ∧ n.size = 0 then s.nodeEnd cl i .ok 0 0 0
    else if s.nodeUnits n = 0 then s.nodeEnd cl i .fault 0x0D 0 0
    else match s.idlestEngine d with
      | none => s
      | some e =>
        let (s, m) := s.startHeads n
        s.setNode cl i { n with
          st := .running, engine := some e, moved := n.moved + m
          chunks := List.replicate (ceilDiv (s.nodeUnits n) n.perChunk) Chunk.fresh }

/-! ## Reading -/

/-- What a node has done at a track: the track, the positions moved, the cycles of motion. -/
structure Motion where
  k      : Track
  moved  : Nat
  cycles : Nat
  deriving DecidableEq, Repr, Inhabited

/-- A row at the head comes next: the head realigned where its code asks for it; `none` after an error beyond ±3 (R330). -/
def Motion.align (f : Motion) : Option Motion :=
  match f.k.align with
  | .error _ => none
  | .ok (k, a) => some ⟨k, f.moved + a, f.cycles + shiftCycles a⟩

/-- The step of +1 after a row (R358). -/
def Motion.step (f : Motion) : Motion :=
  let (k, m) := f.k.step 1
  ⟨k, f.moved + m, f.cycles + shiftCycles m⟩

/-- `n` rows of a track from its head on, each followed by a step of +1 (R330, R331, R333, R358). -/
def readRows (f : Motion) : Nat → Motion × Except Stop (List Row)
  | 0 => (f, .ok [])
  | n + 1 =>
    match f.align with
    | none => ({ f with k := { f.k with lost := true } }, .error (.fail .shift 0x0B 0 0))
    | some f =>
      if f.k.bad.contains f.k.pos then (f, .error (.fail .poison 0x14 0 0))
      else
        let r := f.k.row f.k.pos
        match readRows f.step n with
        | (f, .ok l) => (f, .ok (r :: l))
        | x => x

/-- Bytes of rows, in order. -/
def rowsBytes (l : List Row) : List Byte := l.flatMap fun r => toBytes 128 r.toNat

/-- What a reading or a staging answers: the state it leaves, and the result or why it stops. -/
abbrev Staged (α : Type) := State × Except Stop α

namespace State

/-- A chunk of a node, changed. -/
def mapChunk (s : State) (cl : BitVec 9) (i : BitVec 10) (c : Nat) (f : Chunk → Chunk) : State :=
  let n := s.node cl i
  s.setNode cl i { n with chunks := n.chunks.modify c f }

/-- The track of a node after its motion: the head is under way for the cycles that it took (R314, R315), the positions count for the
completion (R318). -/
def putMotion (s : State) (cl : BitVec 9) (i : BitVec 10) (t : TrackId) (f : Motion) : State :=
  let n := s.node cl i
  let x := s.core n.core
  ((s.setCore n.core (x.setTrack t f.k)).addMove n.core t f.cycles).setNode cl i { n with moved := n.moved + f.moved }

/-- Is the head of a track under way, or waiting to be? -/
def headMoves (s : State) (c : CoreId) (t : TrackId) : Bool := ((s.core c).track t).move != .idle

/-- Bytes of a side in memory, one after another. -/
def memBytes (s : State) (n : Node) (x : Side) : List Nat → Except Stop (List GotB)
  | [] => .ok []
  | o :: r =>
    let (k, off) := x.byteAt o
    match s.nodeByte n k off with
    | .error e => .error e
    | .ok b =>
      match s.memBytes n x r with
      | .error e => .error e
      | .ok l => .ok (b :: l)

/-- Rows of a track source from logical byte `lo` on, read under the track's own tag; its 128-byte units count from the node's start
(R352, log entry 101). The head stands there, but after a chunk that has been re-queued. -/
def trackBytes (s : State) (cl : BitVec 9) (i : BitVec 10) (t : TrackId) (p cnt : Nat) : Staged (List GotB) :=
  let n := s.node cl i
  let (s, m) := s.nodeSeek n t p
  let (f, r) := readRows ⟨(s.core n.core).track t, m, 0⟩ (cnt / 128)
  (s.putMotion cl i t f, match r with
    | .error e => .error e
    | .ok l =>
      let bs := rowsBytes l
      .ok ((List.range cnt).map fun o => ⟨bs.getD (swizzled f.k.tag.toNat o) 0, 0, false, o / 128⟩))

/-- Logical bytes `lo` to `lo + cnt − 1` of the source of chunk `c` (R352). What the chunk has read before it met a page fault it keeps
(R357). -/
def sourceBytes (s : State) (cl : BitVec 9) (i : BitVec 10) (c lo cnt : Nat) : Staged (List GotB) :=
  let n := s.node cl i
  match (n.chunks[c]?).bind Chunk.got with
  | some l => (s, .ok l)
  | none =>
    let (s, r) : Staged (List GotB) :=
      match n.src with
      | .track t start =>
        if s.headMoves n.core t then (s, .error .wait) else s.trackBytes cl i t (start + lo / 128) cnt
      | x => (s, s.memBytes n x ((List.range cnt).map (lo + ·)))
    match r with
    | .ok l => (s.mapChunk cl i c fun x => { x with got := some l }, .ok l)
    | .error e => (s, .error e)

/-- INT32 element `j` positions after the first of the index tensor (R351, R360). -/
def indexAt (s : State) (n : Node) (j : Nat) : Except Stop Int :=
  match n.index with
  | none => .ok 0
  | some (d, first) =>
    let e := first + j
    let o := d.denseRow (e / max 1 (d.extent 0)) + e % max 1 (d.extent 0) * 4
    match s.memBytes n (.raw d.key 0) ((List.range 4).map fun b => swizzled d.swizzle (o + b)) with
    | .error e => .error e
    | .ok l => .ok (sxN 32 (ofBytes (l.map (·.b))))

/-- The table row of position `j` (R360): its local index, and whether this part holds it. -/
def tableIndex (s : State) (n : Node) (d : Desc) (j : Nat) : Except Stop (Nat × Bool) :=
  match s.indexAt n j with
  | .error e => .error e
  | .ok x =>
    if x < 0 ∨ x ≥ d.shape 1 then .error (.fail .bounds 0 0 j)
    else .ok (d.partIndex 1 x.toNat, (d.localIndex 1 x.toNat).isSome)

end State

/-! ## Staged writes -/

/-- A byte joins the writes of a chunk, the newest first. A word copied whole from an aligned word carries its tag (R170). -/
def addWrite (n : Node) (chunk : Nat) (keep : Bool) (acc : List DrainW) (a : At) (g : GotB) : List DrainW :=
  let i := a.va % 8
  let va := a.va / 8 * 8
  let tag := keep && g.tag && decide (g.pos % 8 = i)
  let put (w : Word) : Word := setBits w (8 * i + 7) (8 * i) g.b.toNat
  let fresh : DrainW :=
    { id := 0, node := ⟨0, 0, n.gen⟩, chunk := chunk, dev := a.dev, tenant := a.tenant, fine := a.fine, core := a.core, va := va,
      mask := BitVec.ofNat 8 (2 ^ i), data := put 0, tag := tag, bad := false, full := n.fem }
  match acc with
  | [] => [fresh]
  | w :: r =>
    if w.dev = a.dev ∧ w.tenant = a.tenant ∧ w.core = a.core ∧ w.va = va ∧ w.mask.getLsbD i = false then
      { w with mask := w.mask ||| BitVec.ofNat 8 (2 ^ i), data := put w.data, tag := w.tag && tag } :: r
    else fresh :: acc

namespace State

/-- Bytes written to a side in memory at the given logical offsets, newest first. -/
def writeBytes (s : State) (n : Node) (chunk : Nat) (keep : Bool) (x : Side) (acc : List DrainW) :
    List (Nat × GotB) → Except Stop (List DrainW)
  | [] => .ok acc
  | (o, g) :: r =>
    let (k, off) := x.byteAt o
    match s.nodeAt n k off true with
    | .error e => .error e
    | .ok a => s.writeBytes n chunk keep x (addWrite n chunk keep acc a g) r

/-- Byte `b` of the track row that takes the 128 logical bytes from `j · 128` on, in the stored order of the source descriptor: its
unit is that of the first of them (R253, R352). -/
def storedByte (sw : Nat) (l : List GotB) (j b : Nat) : Nat :=
  let u := ((l[128 * j]?).map GotB.unit).getD 0
  ((l[128 * j + swizzled sw (128 * (u % 8) + b) % 128]?).map fun g => g.b.toNat).getD 0

/-- The destination of consecutive logical bytes from `lo` on: memory, or rows of a track (R352, R358). -/
def stageTo (s : State) (n : Node) (chunk lo : Nat) (l : List GotB) : Except Stop (List DrainW × List TrackW) :=
  match n.dst with
  | .track _ start =>
    .ok ([], (List.range (l.length / 128)).map fun j =>
      ⟨start + lo / 128 + j, ofLanes 8 ((List.range 128).map (storedByte n.srcSwizzle l j))⟩)
  | x =>
    let keep := n.kind == .copy && !n.src.isTrack
    match s.writeBytes n chunk keep x [] (l.zipIdx.map fun p => (lo + p.2, p.1)) with
    | .error e => .error e
    | .ok w => .ok (w.reverse, [])

/-- A byte as the node's own writes leave it, newest first; else as it stands, a poisoned word being consumed. -/
def currentByte (s : State) (a : At) (own : List DrainW) : Except Stop Byte :=
  match own.find? fun w => w.dev == a.dev && w.tenant == a.tenant && w.core == a.core && w.va == a.va / 8 * 8 &&
      w.mask.getLsbD (a.va % 8) with
  | some w => .ok (byteOf w.data.toNat (a.va % 8))
  | none =>
    match s.byteHere a with
    | .error e => .error e
    | .ok (b, _) => .ok b

/-- The places of the bytes of a side, for writes. -/
def placesFor (s : State) (n : Node) (x : Side) : List Nat → Except Stop (List At)
  | [] => .ok []
  | o :: r =>
    let (k, off) := x.byteAt o
    match s.nodeAt n k off true, s.placesFor n x r with
    | .error e, _ => .error e
    | _, .error e => .error e
    | .ok a, .ok l => .ok (a :: l)

def currentBytes (s : State) (own : List DrainW) : List At → Except Stop (List Byte)
  | [] => .ok []
  | a :: r =>
    match s.currentByte a own, s.currentBytes own r with
    | .error e, _ => .error e
    | _, .error e => .error e
    | .ok b, .ok l => .ok (b :: l)

end State

/-! ## Arithmetic (R361) -/

def elemAdd (ty : ETy) (x y : Nat) : Nat :=
  if ty.isFloat then (fAdd (etyFmt ty) ⟨.rne, Config.engineOsat, false⟩ x y).val else (x + y) % 2 ^ etyWidth ty

/-- `dest OP source` of `REDUCE`. -/
def elemOp (op : Nat) (ty : ETy) (x y : Nat) : Nat :=
  match op with
  | 0 => elemAdd ty x y
  | 1 => (minmaxLane ty .min x y).val
  | _ => (minmaxLane ty .max x y).val

/-- Bytes of an element type. -/
def elemBytes (ty : ETy) : Nat := etyWidth ty / 8

namespace State

/-- Elements combined into the destination, one after another: offset of the element, and its operand. `own`: the node's
earlier writes, newest first, when it builds on them (R361); else it reads none of its own (R355). -/
def combine (s : State) (n : Node) (chunk : Nat) (ty : ETy) (op : Nat) (own : Option (List DrainW)) (acc : List DrainW) :
    List (Nat × Nat) → Except Stop (List DrainW)
  | [] => .ok acc
  | (o, y) :: r =>
    let b := elemBytes ty
    match s.placesFor n n.dst ((List.range b).map (o + ·)) with
    | .error e => .error e
    | .ok ps =>
      match s.currentBytes (match own with | some l => acc ++ l | none => []) ps with
      | .error e => .error e
      | .ok old =>
        let z := elemOp op ty (ofBytes old) y
        let acc := (ps.zipIdx).foldl (fun acc p => addWrite n chunk false acc p.1 ⟨byteOf z p.2, 0, false, 0⟩) acc
        s.combine n chunk ty op own acc r

end State

/-- Elements of `b` bytes of a byte list, with the offset of each. -/
def elemsAt (b lo : Nat) (l : List GotB) : List (Nat × Nat) :=
  (List.range (l.length / b)).map fun e => (lo + e * b, ofBytes (((l.drop (e * b)).take b).map (·.b)))

/-! ## Staging (R354 to R363) -/

/-- What a staging yields. -/
abbrev Held := List DrainW × List TrackW

namespace State

def stageCopy (s : State) (cl : BitVec 9) (i : BitVec 10) (c lo cnt : Nat) : Staged Held :=
  match s.sourceBytes cl i c lo cnt with
  | (s, .error e) => (s, .error e)
  | (s, .ok l) => (s, s.stageTo (s.node cl i) c lo l)

def stageReduce (s : State) (cl : BitVec 9) (i : BitVec 10) (c lo cnt : Nat) : Staged Held :=
  match s.sourceBytes cl i c lo cnt with
  | (s, .error e) => (s, .error e)
  | (s, .ok l) =>
    let n := s.node cl i
    let ty := etyOfCode n.elem
    (s, match s.combine n c ty n.op none [] (elemsAt (elemBytes ty) lo l) with
      | .error e => .error e
      | .ok w => .ok (w.reverse, []))

/-- Rows gathered for positions `j` on. A row that another part holds comes over Gildoza (R362): its bytes, and whether the
fabric fails, are free. -/
def gatherRows (s : State) (n : Node) (d : Desc) (j : Nat) : Nat → Except Stop (List GotB)
  | 0 => .ok []
  | m + 1 =>
    match s.tableIndex n d j with
    | .error e => .error e
    | .ok x =>
      let rb := d.rowBytes
      let row : Except Stop (List GotB) :=
        match x with
        | (r, true) => s.memBytes n (.dense d 0) ((List.range rb).map (r * rb + ·))
        | (r, false) =>
          if Config.pick (s.fresh + j) % 2 = 1 then .error (.fail .fault 0x05 0 0)
          else .ok ((List.range rb).map fun b =>
            ⟨byteOf (Config.freeWord (s.fresh + j * rb + b)).toNat 0, 0, false, (d.denseRow r + b) / 128⟩)
      match row with
      | .error e => .error e
      | .ok l =>
        match s.gatherRows n d (j + 1) m with
        | .error e => .error e
        | .ok r => .ok (l ++ r)

def stageGather (s : State) (cl : BitVec 9) (i : BitVec 10) (c lo cnt : Nat) : Staged Held :=
  let n := s.node cl i
  match n.src with
  | .dense d _ =>
    match s.gatherRows n d lo cnt with
    | .error e => (s, .error e)
    | .ok l => ({ s with fresh := s.fresh + (lo + cnt) * d.rowBytes + 1 }, s.stageTo n c (lo * d.rowBytes) l)
  | _ => (s, .error .wait)

/-- Table rows of positions `j` on, all held by this part. -/
def scatterRows (s : State) (n : Node) (d : Desc) (j : Nat) : Nat → Except Stop (List Nat)
  | 0 => .ok []
  | m + 1 =>
    match s.tableIndex n d j with
    | .error e => .error e
    | .ok (_, false) => .error (.fail .bounds 0 0 j)
    | .ok (r, true) =>
      match s.scatterRows n d (j + 1) m with
      | .error e => .error e
      | .ok l => .ok (r :: l)

def stageScatter (s : State) (cl : BitVec 9) (i : BitVec 10) (c lo cnt : Nat) (add : Bool) : Staged Held :=
  let n := s.node cl i
  match n.dst with
  | .dense d _ =>
    let rb := d.rowBytes
    match s.scatterRows n d lo cnt with
    | .error e => (s, .error e)
    | .ok rows =>
      match s.sourceBytes cl i c (lo * rb) (cnt * rb) with
      | (s, .error e) => (s, .error e)
      | (s, .ok l) =>
        let n := s.node cl i
        let ty := etyOfCode n.elem
        let ws : Except Stop (List DrainW) :=
          if add then
            s.combine n c ty 0 (some (s.drains.filter fun w => w.node == (⟨cl, i, n.gen⟩ : NodeId)).reverse) [] (rows.zipIdx.flatMap fun p => elemsAt (elemBytes ty) (p.1 * rb) ((l.drop (p.2 * rb)).take rb))
          else
            s.writeBytes n c false n.dst [] (rows.zipIdx.flatMap fun p =>
              ((l.drop (p.2 * rb)).take rb).zipIdx.map fun q => (p.1 * rb + q.2, q.1))
        (s, match ws with
          | .error e => .error e
          | .ok w => .ok (w.reverse, []))
  | _ => (s, .error .wait)

end State

/-- The result of a collective on a member (R363), from the contributions in rank order. -/
def collect (op : Nat) (ty : ETy) (rank size : Nat) (l : List (List Byte)) : List Byte :=
  let b := elemBytes ty
  let vals (x : List Byte) : List Nat := (List.range (size / b)).map fun e => ofBytes ((x.drop (e * b)).take b)
  let sum : List Byte :=
    (match l with
     | [] => []
     | x :: r => r.foldl (fun (acc : List Nat) y => List.zipWith (elemAdd ty) acc (vals y)) (vals x)).flatMap fun z => toBytes b z
  match op with
  | 0 => sum
  | 1 => l.flatten
  | 2 => (sum.drop (rank * (size / max 1 l.length))).take (size / max 1 l.length)
  | _ => l.headD []

namespace State

/-- The contributions of a group in rank order: this part's, and those that have come over Gildoza. -/
def contributions (g : Group) (own : Contrib) : List (Option Contrib) :=
  (List.range g.members.length).map fun r => if r = g.rank then some own else aget g.got r

/-- Bytes of a row of a descriptor side, or of an element (R363). -/
def sideUnit (ty : ETy) (x : Side) : Nat :=
  match x with
  | .dense d _ => d.rowBytes
  | .piece d .. => d.rowBytes
  | _ => elemBytes ty

/-- A member's node and the contributions fit together (R363): operation, format and size are equal, and a reduce-scatter divides. -/
def groupFits (n : Node) (m : Nat) (l : List (Option Contrib)) : Bool :=
  decide (0 < m) &&
    (n.op != 2 || [n.src, n.dst].all fun x => n.size % max 1 (m * sideUnit (etyOfCode n.elem) x) == 0) &&
    l.all fun x => match x with
      | some y => y.op == n.op && y.elem == n.elem && y.data.length == n.size
      | none => true

def stageCollective (s : State) (cl : BitVec 9) (i : BitVec 10) (c lo cnt : Nat) : Staged Held :=
  let n := s.node cl i
  let mism : Staged Held := (s, .error (.fail .fault 0x0D 0 0))
  match aget s.groups n.group with
  | none => mism
  | some g =>
    if groupFits n g.members.length (g.got.map fun p => some p.2) = false then mism
    else match s.sourceBytes cl i c 0 n.size with
      | (s, .error e) => (s, .error e)
      | (s, .ok own) =>
        let l := contributions g ⟨n.op, n.elem, own.map (·.b)⟩
        if l.any Option.isNone then (s, .error .wait)
        else
          let r := collect n.op (etyOfCode n.elem) g.rank n.size ((l.filterMap id).map Contrib.data)
          (s, s.stageTo n c lo (((r.drop lo).take cnt).map fun b => ⟨b, 0, false, 0⟩))

/-- The staging of one chunk. -/
def stageChunk (s : State) (cl : BitVec 9) (i : BitVec 10) (c : Nat) : Staged Held :=
  let n := s.node cl i
  let (lo, cnt) := s.chunkSpan n c
  match n.kind with
  | .copy => s.stageCopy cl i c lo cnt
  | .gather => s.stageGather cl i c lo cnt
  | .scatter => s.stageScatter cl i c lo cnt false
  | .scatterAdd => s.stageScatter cl i c lo cnt true
  | .reduce => s.stageReduce cl i c lo cnt
  | .collective => s.stageCollective cl i c lo cnt
  | .migrate => (s, .error .wait)

/-- Hardware recalibrates the track of a side (R331, R339): its head scans down to code 0. False where it finds none. -/
def recalibrate (s : State) (cl : BitVec 9) (i : BitVec 10) (x : Side) : State × Bool :=
  match x with
  | .track t _ =>
    let k := (s.core (s.node cl i).core).track t
    let m := k.scan.getD 264
    let k' := { k with pos := 0 }
    (s.putMotion cl i t ⟨if k.scan.isSome then k'.recalibrated else k', m, shiftCycles m⟩, k.scan.isSome)
  | _ => (s, true)

/-- A chunk's failure at a side (R357): the first poison and the first shift error of a chunk roll it back and re-queue it; else the
chunk has failed. -/
def chunkFail (s : State) (cl : BitVec 9) (i : BitVec 10) (c : Nat) (side : Side) (st : NStatus) (code addr posn : Nat) : State :=
  let x := ((s.node cl i).chunks[c]?).getD Chunk.fresh
  let failed (s : State) : State := s.mapChunk cl i c fun x => { x with st := .failed st code addr posn, got := none }
  if st = .poison ∧ x.poisoned = false then
    s.mapChunk cl i c fun x => { x with st := .idle, got := none, poisoned := true }
  else if st = .shift ∧ x.shifted = false then
    let (s, ok) := s.recalibrate cl i side
    if ok then s.mapChunk cl i c fun x => { x with st := .idle, got := none, shifted := true } else failed s
  else failed s

/-- Does a chunk take one of the 16 places of its engine (R353)? -/
def ChunkSt.runs : ChunkSt → Bool
  | .staged .. => true
  | .page => true
  | _ => false

/-- Chunks an engine runs (R353). -/
def runCount (s : State) (e : BitVec 5) : Nat :=
  (s.clusters.map fun p => (p.2.nodes.map fun x =>
    if x.2.engine = some e then (x.2.chunks.filter fun c => ChunkSt.runs c.st).length else 0).sum).sum

/-- May a chunk be staged (R353)? The last of the 16 places is for a chunk that is next to commit, so that one can always commit; a
chunk of `SCATTER-ADD` follows the commit of the one before it (R361). -/
def mayStage (s : State) (n : Node) (e : BitVec 5) (c : Nat) : Bool :=
  decide (s.runCount e < (if c = n.done then 16 else 15)) && (n.kind != .scatterAdd || c == n.done)

end State

/-! ## Page migration (R182, R364) -/

namespace State

/-- One 64-byte line copied with its full/empty, tag and poison. -/
def copyLine (s : State) (ks : KeySt) (p q : Nat) : State :=
  (List.range 8).foldl (fun s j =>
    let a := p / 8 + j
    s.copyW (.dev ks) (q / 8 + j) (s.rdW (.dev ks) a) (s.isFull (.dev ks) a) (s.tagAt (.dev ks) a) (s.badAt (.dev ks) a)) s

/-- Lines of a page, by their number in it. -/
def copyLines (s : State) (ks : KeySt) (p q : Nat) (l : List Nat) : State :=
  l.foldl (fun s x => s.copyLine ks (p + 64 * x) (q + 64 * x)) s

/-- The map's lines of a page, read and cleared. -/
def harvestPage (s : State) (p size : Nat) : State × List Nat :=
  let first := p / 64 % 2 ^ 15
  let mine (x : Nat) : Bool := decide (first ≤ x) && decide (x < first + size / 64)
  let d := (agetD s.dirty (p / 2 ^ 21) []).filter mine
  ({ s with dirty := s.dirty.map fun x => if x.1 = p / 2 ^ 21 then (x.1, x.2.filter fun y => !mine y) else x },
   d.map (· - first))

/-- Waiters on the wait lists of a frame whose page migrates are woken to reissue, at each of its invalidations (R182, R200). -/
def wakeSync (s : State) (p size : Nat) : State :=
  (s.reqs.filter fun r => r.stage == .waiting && r.dev && r.pas.any fun x => decide (p ≤ x.1) && decide (x.1 < p + size)).foldl
    (fun s r => s.reissue r (.mig r.tenant r.va false)) s

/-- One step of a `MIGRATE-PAGE` node. -/
def migrateStep (s : State) (cl : BitVec 9) (i : BitVec 10) : State :=
  let n := s.node cl i
  match n.src, n.dst with
  | .page t isFine va, .frame fr =>
    let fine := migRoot n
    let size := pageSize (if isFine then some 0 else none)
    let base := va / size * size
    let q := fr * size
    let bad := s.nodeEnd cl i .fault 0x05 base 0
    if isFine ∧ fine = none then bad
    else match s.leafAddr t fine base, s.keyOf t with
      | .ok a, some ks =>
        let go (s : State) (m : MigSt) : State := s.setNode cl i { s.node cl i with mig := m }
        let freeze (s : State) (p : Nat) (d : List Nat) : State :=
          let s := (s.setPte a (setBits (s.pte a) 62 62 1)).dropTranslations t base size
          (go (s.wakeSync p size) (.frozen p s.serial d)).bump
        match n.mig with
        | .start =>
          match s.walk t fine base with
          | .leaf l =>
            if l.pa > paMax ∨ q > paMax then bad
            else if (aget s.dirty (l.pa / 2 ^ 21)).isSome ∨ 512 ≤ s.dirty.length then s
            else
              let s := { s with dirty := s.dirty ++ [(l.pa / 2 ^ 21, [])] }
              let s := (s.setPte a (setBits (s.pte a) 3 3 1)).dropTranslations t base size
              (go (s.wakeSync l.pa size) (.marked l.pa s.serial)).bump
          | _ => bad
        | .marked p before =>
          if s.quiet t base size before = false then s
          else
            let s := (s.harvestPage p size).1
            go (s.copyLines ks p q (List.range (size / 64))) (.copying p 2)
        | .copying p r =>
          let (s, d) := s.harvestPage p size
          if d.length ≤ 64 then freeze s p d
          else
            let s := s.copyLines ks p q d
            if r = 8 then freeze s p [] else go s (.copying p (r + 1))
        | .frozen p before d =>
          if s.quiet t base size before = false then s
          else
            let (s, d') := s.harvestPage p size
            let s := s.copyLines ks p q (d ++ d')
            let s := s.setPte a (setBits (s.pte a) 51 (if isFine then 10 else 21) fr)
            let s := (s.endTracking t fine base p).dropTranslations t base size
            (go (s.wakeSync p size) (.switched p s.serial)).bump
        | .switched _ before =>
          if s.quiet t base size before = false then s
          else
            let s := s.setNode cl i { n with commit := size }
            s.nodeEnd cl i .ok 0 0 0
      | _, _ => bad
  | _, _ => s

end State

/-- `CHUNK_STAGING` (R354, R357): the first chunk that is not staged is, waits for a page, or fails. -/
def execChunkStaging (cl : BitVec 9) (i : BitVec 10) (s : State) : Out :=
  .next <|
    let n := s.node cl i
    match n.st, n.engine with
    | .running, some e =>
      if n.kind = .migrate then s.migrateStep cl i
      else match n.chunks.findIdx? fun c => c.st == .idle with
        | none => s
        | some c =>
          if s.mayStage n e c = false then s
          else
            match s.stageChunk cl i c with
            | (s, .ok (ws, ts)) => s.mapChunk cl i c fun x => { x with st := .staged ws ts, got := none }
            | (_, .error .wait) => s
            | (s, .error (.page t f va w)) =>
              let s := s.mapChunk cl i c fun x => { x with st := .page }
              s.pageFault (dieOfCluster cl) ⟨t, f, va, w, false, [.node ⟨cl, i, n.gen⟩ c]⟩
            | (s, .error (.fail st code addr posn)) => s.chunkFail cl i c n.src st code addr posn
    | _, _ => s

/-! ## Commit (R354, R356, R358) -/

/-- Bounding ranges of a chunk's writes, one for each space it writes to. -/
def boundsOf (chunk : Nat) (ws : List DrainW) : List Range :=
  ws.foldl (fun l w =>
    match takeFirst (fun (g : Range) => g.dev == w.dev && g.tenant == w.tenant && g.core == w.core) l with
    | none => l ++ [⟨chunk, w.dev, w.tenant, w.core, w.va, 8⟩]
    | some (g, r) =>
      let lo := min g.lo w.va
      let hi := max (g.lo + g.len) (w.va + 8)
      { g with lo := lo, len := hi - lo } :: r) []

/-- Rows written to a track, the head stepping +1 after each; false after a shift error beyond ±3, which leaves no row written (R354). -/
def writeRows (f : Motion) : List TrackW → Motion × Bool
  | [] => (f, true)
  | w :: r =>
    let m := ((w.pos : Int) - f.k.pos).natAbs
    let f := { f with k := { f.k with pos := w.pos }, moved := f.moved + m, cycles := f.cycles + shiftCycles m }
    match f.align with
    | none => ({ f with k := { f.k with lost := true } }, false)
    | some g =>
      match writeRows ({ g with k := g.k.setRow g.k.pos w.row } : Motion).step r with
      | (h, true) => (h, true)
      | (h, false) => ({ h with k := { h.k with rows := f.k.rows, bad := f.k.bad } }, false)

namespace State

/-- A collective that has ended lets go of the contributions it used. -/
def endCollective (s : State) (n : Node) : State :=
  if n.kind = .collective then
    match aget s.groups n.group with
    | some g => { s with groups := aset s.groups n.group { g with got := [] } }
    | none => s
  else s

/-- The rows of a committed chunk reach the destination track; false after a shift error beyond ±3. -/
def commitRows (s : State) (cl : BitVec 9) (i : BitVec 10) (ts : List TrackW) : State × Bool :=
  let n := s.node cl i
  match n.dst with
  | .track t _ =>
    let (f, ok) := writeRows ⟨(s.core n.core).track t, 0, 0⟩ ts
    (s.putMotion cl i t (if ok then { f with k := { f.k with tag := BitVec.ofNat 3 n.srcSwizzle } } else f), ok)
  | _ => (s, true)

/-- Does the head of a track that a node writes move still (R314)? -/
def dstMoves (s : State) (n : Node) : Bool :=
  match n.dst with
  | .track t _ => s.headMoves n.core t
  | _ => false

end State

/-- `CHUNK_COMMIT` (R354): the next chunk commits, or the node ends with its failure. -/
def execChunkCommit (cl : BitVec 9) (i : BitVec 10) (s : State) : Out :=
  .next <|
    let n := s.node cl i
    if n.st ≠ .running then s
    else match n.chunks[n.done]? with
      | none => s
      | some x =>
        match x.st with
        | .failed st code addr posn => (s.endCollective n).nodeEnd cl i st code addr posn
        | .staged ws ts =>
          if s.dstMoves n then s
          else match s.commitRows cl i ts with
          | (s, false) => s.chunkFail cl i n.done n.dst .shift 0x0B 0 0
          | (s, true) =>
            let n := s.node cl i
            let id : NodeId := ⟨cl, i, n.gen⟩
            let s : State := { s with
              drains := s.drains ++ ws.zipIdx.map fun p => { p.1 with id := s.serial + p.2, node := id }
              serial := s.serial + ws.length }
            let s := s.setNode cl i { n with
              chunks := n.chunks.set n.done { x with st := .committed (boundsOf n.done ws) }
              done := n.done + 1
              commit := n.commit + (s.chunkSpan n n.done).2 * n.unit }
            if n.done + 1 = n.chunks.length then (s.endCollective n).nodeEnd cl i .ok 0 0 0 else s
        | _ => s

/-! ## Drain end (R346, R366) -/

namespace State

/-- The next unpin of a node is tried: done, dropped, or waiting for its page. -/
def nodeUnpin (s : State) (cl : BitVec 9) (i : BitVec 10) : State :=
  let n := s.node cl i
  let id : NodeId := ⟨cl, i, n.gen⟩
  match n.unpin with
  | [] => s
  | (d, t, v) :: r =>
    let b : Blk := ⟨d.key, n.core, n.region, n.sec⟩
    let drop (s : State) : State := s.setNode cl i { s.node cl i with unpin := r }
    match s.unpinVersion b t v.toNat n.place with
    | .ok s => drop s
    | .error (.page tn f va w) =>
      if s.waitsPage (dieOfCluster cl) (.unpin id) then s
      else s.pageFault (dieOfCluster cl) ⟨tn, f, va, w, false, [.unpin id]⟩
    | .error (.mig ..) => s
    | .error (.trap _) => drop s

end State

/-- `NODE_DRAIN_END` (R346, R347, R366): once its writes have drained, successors, acquire lists and the graph learn it; then the pins go,
and the entry frees when its message has been accepted. -/
def execNodeDrainEnd (cl : BitVec 9) (i : BitVec 10) (s : State) : Out :=
  .next <|
    let n := s.node cl i
    let id : NodeId := ⟨cl, i, n.gen⟩
    if n.st ≠ .draining then s
    else if n.told = false ∧ (s.drains.any fun w => w.node == id) = false then s.drainEnded cl i
    else if n.unpin ≠ [] then s.nodeUnpin cl i
    else if n.told = false then s
    else if (match n.msg with | some m => s.msgs.any fun x => x.id == m | none => false) then s
    else s.setNode cl i { Node.free with gen := n.gen }

/-! ## Copies of the tables (R245, R382) -/

def applyDesc (l : List (TensorId × Desc)) (u : DescUpd) : List (TensorId × Desc) :=
  match u with
  | .entry id (some d) => aset l id d
  | .entry id none => adel l id
  | .version id v n =>
    match aget l id with
    | some d => if d.kind = 2 then aset l id (d.newVersion v n) else l
    | none => l

namespace State

/-- Tensors whose update every cluster has applied are open again (R257). -/
def reopen (s : State) : State :=
  { s with parts := s.parts.map fun p => (p.1, { p.2 with closed := p.2.closed.filter fun c => !s.updateOver c.2.1 }) }

/-- Partitions whose copy at a cluster meets a condition. -/
def copiesAt (s : State) (cl : BitVec 9) (f : TableCopy → Bool) : List Nat :=
  (s.copies.filter fun p => p.1.2 == cl && f p.2).map (·.1.1)

/-- One of several partitions, by a free choice. -/
def pickPart (s : State) (l : List Nat) : Option Nat := l[Config.pick (s.fresh + 25) % l.length]?

end State

/-- `DESCRIPTOR_UPDATE_APPLY` (R245): a cluster applies the oldest update of a partition's table. -/
def execDescriptorUpdateApply (cl : BitVec 9) (s : State) : Out :=
  .next <|
    match s.pickPart (s.copiesAt cl fun x => !x.descq.isEmpty) with
    | none => s
    | some p =>
      let x := s.copy p cl
      match x.descq with
      | [] => s
      | (_, u) :: r =>
        let s := s.setCopy p cl { x with descs := applyDesc x.descs u, descq := r }
        let s : State := match u with
          | .entry id _ => { s with cores := s.cores.map fun q =>
              (q.1, if clusterOf q.1 = cl ∧ s.partOf q.1 = some p then { q.2 with pieces := q.2.pieces.filter fun e => e.id ≠ id } else q.2) }
          | .version .. => s
        s.reopen

/-- `BERTH_TABLE_UPDATE_APPLY` (R382). -/
def execBerthTableUpdateApply (cl : BitVec 9) (s : State) : Out :=
  .next <|
    match s.pickPart (s.copiesAt cl fun x => !x.berthq.isEmpty) with
    | none => s
    | some p =>
      let x := s.copy p cl
      match x.berthq with
      | [] => s
      | (_, id, b) :: r =>
        s.setCopy p cl { x with
          berths := (match b with | some e => aset x.berths id e | none => adel x.berths id), berthq := r }

end Sys2Proof.Machine
end

