-- ==== Sys2Proof/Machine/HomeOps.lean ====
section
/-! DEFINITION. Decisions at a home: descriptors, versions, pins, splices, task pins, edges, berths and coupled pairs, each one
atomic step (R257, R258, R372 to R375, R396, R409, R412). -/
namespace Sys2Proof.Machine

/-- What a decision comes to: the state, the words of its reply, and the broadcast to be waited for. -/
structure Verdict where
  s   : State
  ws  : List Word
  upd : Option Nat

namespace State

/-! ## Descriptors (R245, R257) -/

/-- The thread of a request. -/
def reqTh (s : State) (r : Req) : Thread := (s.slotAt r.core r.slot).th

/-- The partition of a request. -/
def reqPart (s : State) (r : Req) : Nat := (s.partOf r.core).getD 64

/-- Does a live version of the entry that is replaced hold a pin? -/
def pinnedEntry (s : State) (c : CoreId) (d : Desc) : Except BStop Bool :=
  match s.ctrl (s.blk c d.key) with
  | .error e => .error e
  | .ok none => .ok false
  | .ok (some x) => .ok (x.slots.any fun y => y.live && decide (0 < y.pins))

/-- The new content of an entry is ordered at the descriptor home and broadcast (R245). `close`: the stitched entry it replaces (R257). -/
def putDesc (s : State) (p : Nat) (id : TensorId) (d : Option Desc) (close : Option Desc) : Verdict :=
  let tok := s.serial
  let x := s.part p
  let s := s.setPart p { x with
    descs := (match d with | some e => aset x.descs id e | none => adel x.descs id)
    closed := match close with | some old => x.closed ++ [(id, tok, old)] | none => x.closed }
  ⟨(s.broadcast p tok (.entry id d)).bump, [], some tok⟩

/-- The effect of `TDSET` after its image has been read: the checks of R256, then the entry (R257). -/
def installDesc (s : State) (r : Req) (id : TensorId) (ws : List Word) (tags : Bool) : Except BStop Verdict :=
  let th := s.reqTh r
  let p := s.reqPart r
  let d : Desc := ⟨r.tenant, Vector.ofFn fun (i : Fin 8) => ws.getD i.val 0⟩
  match (if d.kind = 3 then none else d.check id th.level th.tenant tags) with
  | some t => .error (.trap t)
  | none =>
    let new : Option Desc := if d.kind = 3 then none else some { d with tenant := th.tenant }
    match aget (s.part p).descs id with
    | none => .ok (s.putDesc p id new none)
    | some old =>
      if old.kind ≠ 2 then .ok (s.putDesc p id new none)
      else match s.pinnedEntry r.core old with
        | .error e => .error e
        | .ok true => .error (.trap (descTrap id 0 8))
        | .ok false => .ok (s.putDesc p id new (some old))

/-- `TDSET` at its homes: the image with the tags of its key words, then the entry. -/
def performTdset (s : State) (r : Req) (id : TensorId) : Except BStop Verdict :=
  match s.tryReq r with
  | some ⟨_, .words ws _, _⟩ =>
    let sp : Space := if r.dev then (match s.keyOf r.tenant with | some k => .dev k | none => .dev monKey) else .ls r.home
    let tagged := (r.words.drop 1).take 2
    s.installDesc r id ws (tagged.all (s.tagAt sp))
  | some ⟨_, .trap c i j, _⟩ => .error (.trap ⟨c, i, j, 0⟩)
  | none => .error (.trap (descTrap id 0 6))

/-! ## Stitched tensors -/

/-- The records a `SPLICE` inserts (R374). -/
def insertedRecords (s : State) (c : CoreId) (x : Word) (recs : Option (KCell × Nat)) : Except BStop (List PRec) :=
  match recs with
  | none => .ok []
  | some (k, off) => s.records (s.blk c k) off (bits x 31 24)

/-- A new version published: its broadcast, and the home's own copy (R374). -/
def publish (s : State) (p : Nat) (id : TensorId) (v rows : Nat) : Verdict :=
  let tok := s.serial
  let x := s.part p
  let s := s.setPart p { x with descs := applyDesc x.descs (.version id (BitVec.ofNat 32 v) (BitVec.ofNat 32 rows)) }
  ⟨(s.broadcast p tok (.version id (BitVec.ofNat 32 v) (BitVec.ofNat 32 rows))).bump, [word v], some tok⟩

def performSplice (s : State) (r : Req) (id : TensorId) (d : Desc) (x : Word) (recs : Option (KCell × Nat)) :
    Except BStop Verdict :=
  let th := s.reqTh r
  match s.insertedRecords r.core x recs with
  | .error e => .error e
  | .ok ins =>
    match s.spliceAt (s.blk r.core d.key) id d th.level th.tenant th.place x ins with
    | .error e => .error e
    | .ok (s, none) => .ok ⟨s, [0], none⟩
    | .ok (s, some (v, rows)) => .ok (s.publish (s.reqPart r) id v rows)

/-- The last new version of a tensor that some copy has still to apply: a version read or pinned at the home is answered when every copy
has it (R374, R381). -/
def spreading (s : State) (p : Nat) (id : TensorId) : Option Nat :=
  ((s.copies.filter fun q => q.1.1 == p).flatMap fun q => q.2.descq.filterMap fun u =>
    match u.2 with | .version j .. => if j = id then some u.1 else none | _ => none).max?

/-- The current version at the home; 0 for an entry that is not stitched (R258). -/
def homeVersion (s : State) (r : Req) (id : TensorId) (d : Desc) : Except BStop Verdict :=
  if d.kind ≠ 2 then .ok ⟨s, [0], none⟩
  else match s.blkWord (s.blk r.core d.key) 8 with
    | .error e => .error e
    | .ok (w, _) => .ok ⟨s, [word (bits w 63 32)], s.spreading (s.reqPart r) id⟩

def performUnpin (s : State) (r : Req) (id : TensorId) (d : Desc) (v : Nat) : Except BStop Verdict :=
  if s.closedFor r.core id d then .error (.trap (descTrap id 0 6))
  else (s.unpinVersion (s.blk r.core d.key) id v (s.reqTh r).place).map fun s => ⟨s, [], none⟩

/-! ## Tasks -/

/-- `TASK` with stitched sides: its pins, the node, and `HCLAIM` for its tracks (R321, R372). -/
def performTask (s : State) (r : Req) (n : Node) (i : BitVec 10) (go : Bool) : Except BStop Verdict :=
  let cl := clusterOf r.core
  (s.pinAll r.core n.pins).map fun s =>
    let s := s.mapUid r.uid fun t =>
      if t.level = .user then n.tracks.foldl (fun t x => hclaimSet t x) t else t
    ⟨s.createNode cl i n go, [(NodeId.mk cl i n.gen).handle], none⟩

/-! ## Berths (R382, R396) -/

def putBerth (s : State) (p : Nat) (id : BitVec 8) (b : Option Berth) : Verdict :=
  let tok := s.serial
  let x := s.part p
  let s := s.setPart p { x with berths := (match b with | some e => aset x.berths id e | none => adel x.berths id) }
  let s := (s.clustersOf p).foldl (fun s cl =>
    s.setCopy p cl { s.copy p cl with berthq := (s.copy p cl).berthq ++ [(tok, id, b)] }) s
  ⟨s.bump, [], some tok⟩

def performRtbl (s : State) (r : Req) (id : BitVec 8) (b : Option Berth) : Except BStop Verdict :=
  let p := s.reqPart r
  let th := s.reqTh r
  let bad (kind : Nat) : Except BStop Verdict := .error (.trap (routeTrap kind 0 0 id.toNat (word id.toNat)))
  match b, aget (s.part p).berths id with
  | some _, some _ => bad 5
  | some e, none =>
    let x := s.core r.core
    .ok ((s.setCore r.core { x with berths := aset x.berths id ⟨e.tenant, e.cap, 0⟩ }).putBerth p id b)
  | none, none => bad 6
  | none, some e =>
    if e.place ≠ th.place ∨ e.tenant ≠ th.tenant then bad 6
    else
      let x := s.core r.core
      .ok ((s.setCore r.core { x with berths := adel x.berths id }).putBerth p id b)

/-! ## Coupled pairs (R409, R412) -/

/-- Does a core hold a thread, or a pending, landing or suspended entry (R401, R412)? -/
def occupied (s : State) (c : CoreId) : Bool :=
  let x := s.core c
  (x.slots.toList.any fun y => y.st != .free && y.st != .disabled) || !x.landing.isEmpty || !x.susp.isEmpty ||
    ((s.cluster (clusterOf c)).pending.any fun p => s.launchCore p.l p.rel == c) ||
    s.packets.any fun p => p.target == c

/-- Words of a local store that differ. -/
def diffWords (a b : Mem) : Nat :=
  let l := ((a.bytes ++ b.bytes).map (fun (x : Host.Cell) => x.1 / 8) ++ (a.empty ++ b.empty ++ a.tags ++ b.tags ++ a.poison ++ b.poison)).eraseDups
  (l.filter fun i => a.word i != b.word i || a.isFull i != b.isFull i || a.tag i != b.tag i || a.bad i != b.bad i).length

/-- Rows of the tiles and of the tracks that differ. -/
def diffRows (a b : Core) : Nat :=
  ((List.finRange 4).map fun t => ((List.finRange 32).filter fun i => a.tiles[t][i].v != b.tiles[t][i].v).length).sum +
    (((a.tracks ++ b.tracks).map fun (x : TrackId × Track) => x.1).eraseDups.map fun t =>
      let x := (a.track t).rows
      let y := (b.track t).rows
      (((x ++ y).map fun (r : Nat × Row) => r.1).eraseDups.filter fun p => look x p != look y p).length).sum

/-- Old values of the pair's own storage that the buffer logs since its last checkpoint, one for each word or row it has changed: the
spec does not say what one entry of the log covers, or whether a second write of a word takes another (log entry 23). -/
def loggedCount (s : State) (c : CoreId) : Nat :=
  match aget s.pairs (pairOf c) with
  | none => 0
  | some p => diffWords p.snap.1.ls (s.core c).ls + diffRows p.snap.1 (s.core c)

/-- The writes that a pair holds in its buffer. -/
def gatedCount (s : State) (c : CoreId) : Nat :=
  (s.reqs.filter fun r => r.gate && r.core == c).length +
    (s.msgs.filter fun m => m.gate && (match m.src with | .slot d _ => d == c | .tide d _ => d == c | _ => false)).length +
    (s.words.filter fun w => w.gate && w.src == c).length +
    (s.returns.filter fun r => r.gate && r.core == c).length +
    (s.clusters.map fun p =>
      (p.2.nodes.filter fun n => n.2.gate && n.2.core == c).length).sum +
    (s.clusters.map fun p => (p.2.pending.filter fun q => q.l.gate == some c).length).sum

def pairCores (i : BitVec 12) : CoreId × CoreId := (BitVec.ofNat 13 (2 * i.toNat), BitVec.ofNat 13 (2 * i.toNat + 1))

/-- RESULT of coupling or decoupling (R412), in the order 5, 4, 2, 3, 1. -/
def pairResult (s : State) (r : Req) (on : Bool) (a : Word) : Nat :=
  let i : BitVec 12 := BitVec.ofNat 12 (bits a 11 0)
  let (x, y) := pairCores i
  if bits a 63 12 ≠ 0 then 5
  else if (aget s.pairs i).isSome = on then 4
  else if s.disabledCore x || s.disabledCore y || s.partOf x != s.partOf r.core || s.partOf y != s.partOf r.core ||
      (s.partOf r.core).isNone then 2
  else if s.parts.any fun p => p.2.places.contains y then 3
  else if s.occupied x || s.occupied y || r.core == x || r.core == y then 1
  else 0

/-- Status of a pair. -/
def pairStatus (s : State) (i : BitVec 12) (result : Nat) : Word :=
  match aget s.pairs i with
  | some p => word (p.agreed.toNat * 2 ^ 32 + result * 2 ^ 8 + 1)
  | none => word (result * 2 ^ 8)

/-- A pair's state at a checkpoint; the writes it has released are no longer its own. -/
def pairSnap (s : State) (c : CoreId) : Core × List Req := (s.core c, s.reqs.filter fun r => r.core == c && !r.op.writes)

/-- `PAIR` performs. While a pair is coupled its one state stands for both cores, which hold identical threads and storage; at the
decoupling core 2i + 1 takes it as its own (R409, log entry 23). `none` while a pair that is to be decoupled has still to agree. -/
def performPair (s : State) (r : Req) (f : Nat) (a : Word) : Option Verdict :=
  let i : BitVec 12 := BitVec.ofNat 12 (bits a 11 0)
  let c := (pairCores i).1
  if f = 2 then some ⟨s, [if bits a 63 12 ≠ 0 then word (5 * 2 ^ 8) else s.pairStatus i 0], none⟩
  else
    let res := s.pairResult r (f == 0) a
    if res ≠ 0 then some ⟨s, [if res = 5 then word (5 * 2 ^ 8) else s.pairStatus i res], none⟩
    else if f = 0 then
      let s : State := { s with pairs := aset s.pairs i ⟨0, (s.core c).retired, 0, false, s.pairSnap c⟩ }
      some ⟨s, [s.pairStatus i 0], none⟩
    else match aget s.pairs i with
      | none => none
      | some p =>
        if (s.core c).retired ≠ p.base ∨ s.gatedCount c ≠ 0 then none
        else
          let y := (pairCores i).2
          let s : State := { s.setCore y { s.core c with cycle := (s.core y).cycle } with pairs := adel s.pairs i }
          some ⟨s, [word (p.agreed.toNat * 2 ^ 32)], none⟩

/-! ## Performing -/

/-- The storage that a decision at a home reads or writes: key, offset, length. -/
def spans : Op → List (KCell × Nat × Nat)
  | .ver _ d => if d.kind = 2 then [(d.key, 0, d.key.len)] else []
  | .spin _ d => [(d.key, 0, d.key.len)]
  | .unpin _ d _ => [(d.key, 0, d.key.len)]
  | .splice _ d x recs => (d.key, 0, d.key.len) :: (match recs with | some (k, o) => [(k, o, 32 * bits x 31 24)] | none => [])
  | .task n .. => n.pins.map fun p => (p.1.key, 0, p.1.key.len)
  | _ => []

/-- An earlier posted store of the thread, to bytes that the decision reads or writes, has still to perform (R205). -/
def behindHome (s : State) (r : Req) : Bool :=
  (spans r.op).any fun (k, o, n) =>
    let dev := k.kind != 1
    let a := (if dev then k.base else bits k.w0 30 0) + o
    s.reqs.any fun x => x.uid == r.uid && decide (x.id < r.id) && !x.gate && !x.op.atHome && Stage.open_ x.stage && x.dev == dev &&
      (!dev || x.tenant == k.tenant) && decide (a < x.va + x.size) && decide (x.va < a + n)

/-- A decision at a home. `none`: not yet. -/
def decide_ (s : State) (r : Req) : Option (Except BStop Verdict) :=
  let of (x : Except TrapInfo State) : Option (Except BStop Verdict) :=
    some (match x with | .ok s => .ok ⟨s, [], none⟩ | .error t => .error (.trap t))
  match r.op with
  | .tdset id => some (s.performTdset r id)
  | .ver id d => some (s.homeVersion r id d)
  | .spin id d => some ((s.spinPin (s.blk r.core d.key) id d).map fun p => ⟨p.1, [p.2], s.spreading (s.reqPart r) id⟩)
  | .unpin id d v => some (s.performUnpin r id d v)
  | .splice id d x recs => some (s.performSplice r id d x recs)
  | .task n i go => some (s.performTask r n i go)
  | .tdep a b => of (s.edge (s.reqPart r) r.tenant a b)
  | .tdepGo a => of (s.releaseEdge (s.reqPart r) r.tenant a)
  | .rtbl id b => some (s.performRtbl r id b)
  | .pair f a => (s.performPair r f a).map .ok
  | _ => none

/-- An access that no word of its own names: it performs whole, traps, or is withdrawn until a page is there (R257). -/
def performHome (s : State) (r : Req) : State :=
  match s.decide_ r with
  | none => s
  | some (.ok v) =>
    if s.mateReady r.core r.uid then
      (v.s.answerReq { r with upd := v.upd } (.words v.ws false)).performMate r.core r.uid
    else s
  | some (.error (.trap t)) => (s.unreserveNode r).failReq r t
  | some (.error (.mig t va)) =>
    let s := s.unreserveNode r
    if s.alive r then s.reissue r (.mig t va false) else s.dropReq r.id
  | some (.error (.page t fine va w)) =>
    let s := s.unreserveNode r
    match (s.slotAt r.core r.slot).refusedAt t fine va with
    | some .quota => s.failReq r ⟨0x17, word t.toNat, word va, 0⟩
    | some .refused => s.failReq r (kinfo 5 none 0 (word va))
    | none =>
      if s.alive r then
        (s.reissue r (.page t va)).pageFault (dieOf r.core) ⟨t, fine, va, w, false, [.thread r.core r.slot r.uid]⟩
      else s.dropReq r.id

end State

end Sys2Proof.Machine
end

