-- ==== Sys2Proof/Machine/EvMemory.lean ====
section
/-! DEFINITION. Steps of memory: translation at the cluster port, walks, the page-request queue and the pager, performance at the
home, retries, replies, fence probes, combined fetch-adds (R171 to R182, R188 to R205, R208, R210, R214 to R216). -/
namespace Sys2Proof.Machine
namespace State

/-! ## Rows of a tile image (R276) -/

/-- An `ASAVE` takes the rows, an `ALOAD` sets out, once none of them is empty. -/
def captureRows (s : State) (r : Req) : State :=
  let next : Stage := if r.dev then .port else .home
  let rows : List VReg := (List.range 32).map (BitVec.ofNat 5)
  let ready (t : TileId) : Bool := rows.all fun i => match (s.rowCell r.core t i).f with | .empty _ => false | _ => true
  match r.op with
  | .asave t _ =>
    if ready t then s.setReq { r with op := .asave t (rows.map fun i => (s.rowCell r.core t i).v), stage := next, inj := s.serial }
    else s
  | .aload t =>
    if ready t && !rows.any (s.heldRow r.core t) then s.setReq { r with stage := next, inj := s.serial } else s
  | _ => s

/-! ## Translation (R171, R174, R191) -/

/-- The parts of an access in units of 1 KiB: address and length. -/
def partsOf (r : Req) : List (Nat × Nat) :=
  (unitsOf r.va r.size).map fun lo => (lo, min (r.va + r.size) ((lo / 2 ^ 10 + 1) * 2 ^ 10) - lo)

/-- The fine table root of an address of an access: the window it carries, for addresses inside it. -/
def rootFor (s : State) (r : Req) (a : Nat) : Option Nat :=
  if a / 2 ^ 30 = r.va / 2 ^ 30 ∨ r.far.isSome then r.fine else s.fineOf r.core r.tenant a

/-- Key of a cached translation. -/
def tkey (s : State) (r : Req) (a : Nat) : BitVec 9 × Option Nat × Nat :=
  let f := s.rootFor r a
  (r.tenant, f, a / pageSize f * pageSize f)

/-- The leaf that the cluster port has cached for an address. -/
def cached (s : State) (r : Req) (a : Nat) : Option Walk :=
  (aget (s.cluster (clusterOf r.core)).tcache (s.tkey r a)).map fun e =>
    leafEntry (if (s.rootFor r a).isSome then 10 else 21) e a

/-- The uses of the parts, in order, `none` where the port has no translation. -/
def partUses (s : State) (r : Req) : List (Nat × Option Xlat) :=
  (partsOf r).map fun p => (p.1, (s.cached r p.1).map fun w =>
    match w with
    | .leaf l => l.use r.sec r.op.writes false
    | _ => .fault)

/-- A page fault of an access (R175). -/
def reqFault (s : State) (r : Req) (a : Nat) : State :=
  let q (w : PageWaiter) : PageReq := ⟨r.tenant, s.rootFor r a, a, r.op.writes, false, [w]⟩
  if r.relaxed then (s.setReq { r with stage := .page }).pageFault (dieOf r.core) (q (.req r.id))
  else if s.alive r then
    (s.reissue r (.page r.tenant a)).pageFault (dieOf r.core) (q (.thread r.core r.slot r.uid))
  else s.dropReq r.id

/-- The access is translated and injected; a posted store marks its slice (R191, R195). -/
def inject (s : State) (r : Req) (l : List (Nat × Leaf)) : State :=
  let parts := (partsOf r).zip l
  let r := { r with
    stage := .home, inj := s.serial, xlat := s.serial, pas := parts.map fun p => (p.2.2.pa, p.1.2), dt := l.any fun p => p.2.dt }
  let s := (s.setReq r).bump
  if posted r then
    s.mapUid r.uid fun t => { t with tmask := r.words.foldl (fun m i => m ||| word (2 ^ sliceOf (8 * i))) t.tmask }
  else s

/-- An access leaves the part (R427). -/
def leavePart (s : State) (r : Req) : State :=
  if r.gate then s
  else
    let s := s.setReq { r with stage := .fabric }
    if posted r then { s with fabricStores := s.fabricStores ++ [(r.uid, r.id)] } else s

/-- May a miss have a walker: fewer than 256 of its die are busy, and no miss that came before it waits for one (R174)? -/
def walkerFree (s : State) (r : Req) : Bool :=
  let mine (x : Req) : Bool := dieOf x.core == dieOf r.core
  decide ((s.reqs.filter fun x => x.stage == .walk && mine x).length < 256) &&
    !(s.reqs.any fun x => x.stage == .miss && mine x && decide (x.id ≠ r.id) && (r.stage != .miss || decide (x.inj < r.inj)))

/-- A miss takes a walker, or waits for one at the port in arrival order (R174). -/
def missed (s : State) (r : Req) : State :=
  if s.walkerFree r then s.setReq { r with stage := .walk }
  else if r.stage = .miss then s
  else (s.setReq { r with stage := .miss, inj := s.serial }).bump

def translateReq (s : State) (r : Req) : State :=
  if r.far.isNone && (s.fabricWin r.tenant r.va).isSome then s.leavePart r
  else
    let us := s.partUses r
    if us.any fun p => p.2.isNone then s.missed r
    else match us.find? fun p => match p.2 with | some (.ok _) => false | _ => true with
      | none => s.inject r (us.filterMap fun p => match p.2 with | some (.ok l) => some (p.1, l) | _ => none)
      | some (a, x) =>
        match x with
        | some .frame => s.failReq r (kinfo 6 (some r.key) 0 (word a))
        | some .secure => s.failReq r (kinfo 4 (some r.key) 0 (word a))
        | some .mig =>
          if r.relaxed then s
          else if s.alive r then s.reissue r (.mig r.tenant a false)
          else s.dropReq r.id
        | _ => s.reqFault r a

/-- A read overlaps an acquired range whose drain has not ended: a relaxed one is made afterwards (R356). -/
def readHeld (s : State) (r : Req) : Bool :=
  r.relaxed && r.far.isNone && r.op.reads && ((s.at_ r.core r.slot).drainMet ⟨r.dev, r.va, r.tenant, r.key, 0⟩ r.size).isSome

end State

/-- `CLUSTER_PORT_TRANSLATION` (R171, R191). An `ASAVE` or `ALOAD` first waits for its rows (R276). -/
def execClusterPortTranslation (i : Nat) (s : State) : Out :=
  .next <|
    match s.req i with
    | none => s
    | some r =>
      match r.stage with
      | .rows => s.captureRows r
      | .miss => s.missed r
      | .port => if s.behind r Stage.early || s.readHeld r then s else s.translateReq r
      | _ => s

/-- `PAGE_TABLE_WALK` (R174, R175): the first address that the port cannot translate. -/
def execPageTableWalk (i : Nat) (s : State) : Out :=
  .next <|
    match s.req i with
    | none => s
    | some r =>
      if r.stage ≠ .walk then s
      else match (s.partUses r).find? fun p => p.2.isNone with
        | none => s.setReq { r with stage := .port }
        | some (a, _) =>
          let f := s.rootFor r a
          match s.walk r.tenant f a, s.leafAddr r.tenant f a with
          | .leaf _, .ok e =>
            let cl := clusterOf r.core
            let x := s.cluster cl
            (s.setReq { r with stage := .port }).setCluster cl { x with tcache := aset x.tcache (s.tkey r a) (s.pte e) }
          | _, _ => s.reqFault r a

/-! ## The page-request queue and the pager (R175 to R179) -/

/-- `PAGE_REQUEST_ENTRY` (R176): the oldest held request that can enter does. -/
def execPageRequestEntry (d : BitVec 3) (s : State) : Out :=
  .next <|
    let x := s.die d
    match takeFirst (fun r => (joinPage x.pageq r).isSome || x.room r.tenant) x.held with
    | none => s
    | some (r, l) =>
      s.setDie d { x with held := l, pageq := (match joinPage x.pageq r with | some q => q | none => x.pageq ++ [r]) }

namespace State

/-- Words of a frame full and zero, with tag 0 and no poison (R189). -/
def clearWords (s : State) (first n : Nat) : State :=
  let out (i : Nat) : Bool := !(decide (first ≤ i) && decide (i < first + n))
  let m := s.mem
  { s with mem := ⟨m.bytes.filter fun c => out (c.1 / 8), m.empty.filter out, m.tags.filter out, m.poison.filter out,
                   m.keys.filter fun k => out k.1⟩ }

/-- The intermediate entry at `a` names a table; a missing one takes the table at `t`, of `n` entries, zeroed. -/
def needTable (s : State) (a t n : Nat) : Option (State × Nat) :=
  match midEntry (n == 2048) (s.pte a) with
  | none => none
  | some (true, x) => some (s, x)
  | some (false, _) =>
    if t % (8 * n) ≠ 0 ∨ t + 8 * n > paMax + 1 then none
    else some ((s.clearWords (t / 8) n).setPte a (word (t + 1)), t)

/-- The address of the leaf entry of a page that is to be made present. -/
def leafSlot (s : State) (q : PageReq) (mid low : Nat) : Option (State × Nat) :=
  match q.fine with
  | some root => some (s, root * 2 ^ 23 + q.va / 2 ^ 10 % 2 ^ 20 * 8)
  | none =>
    match s.needTable ((s.tenant q.tenant).root + q.va / 2 ^ 42 % 2 ^ 10 * 8) mid 1024 with
    | none => none
    | some (s, n1) =>
      match s.needTable (n1 + q.va / 2 ^ 32 % 2 ^ 10 * 8) low 2048 with
      | none => none
      | some (s, n2) => some (s, n2 + q.va / 2 ^ 21 % 2 ^ 11 * 8)

/-- A page is made present at a frame, with the rights that its mapping gives. -/
def makePresent (s : State) (q : PageReq) (frame mid low : Nat) (w x sec : Bool) : Option State :=
  let size := pageSize q.fine
  if frame * size + size > paMax + 1 then none
  else match s.leafSlot q mid low with
    | none => none
    | some (s, a) =>
      let e := frame * size + 1 + (if w then 2 else 0) + (if x then 4 else 0) + (if sec then 2 ^ 63 else 0)
      some ((s.clearWords (frame * size / 8) (size / 8)).setPte a (word e))

/-- A node's chunk that waited for a page is tried again. -/
def retryChunk (s : State) (id : NodeId) (c : Nat) (st : ChunkSt) : State :=
  let n := s.node id.cl id.idx
  match n.chunks[c]? with
  | some x =>
    if n.gen = id.gen ∧ n.st = .running ∧ x.st = .page then s.mapChunk id.cl id.idx c fun x => { x with st := st } else s
  | none => s

/-- A waiter learns that its page is present (R175). -/
def wakeWaiter (s : State) (w : PageWaiter) : State :=
  match w with
  | .thread c n u =>
    let x := s.slotAt c n
    if x.th.uid = u ∧ (x.st = .parked ∨ x.st = .heldParked) then s.setSlot c n { x with wait := .woken } else s
  | .req i =>
    match s.req i with
    | some r => if r.stage = .page then s.setReq { r with stage := .port } else s
    | none => s
  | .node id c => s.retryChunk id c .idle
  | .unpin _ => s
  | .drain _ => s
  | .scale .. => s

/-- A waiter learns that its page is refused (R179, R357, R366). -/
def refuseWaiter (s : State) (q : PageReq) (why : PageRefusal) (w : PageWaiter) : State :=
  match w with
  | .thread c n u =>
    let x := s.slotAt c n
    if x.th.uid = u ∧ (x.st = .parked ∨ x.st = .heldParked) then
      s.setSlot c n { x with wait := .woken, refusal := some (why, q.tenant, q.va) }
    else s
  | .req i =>
    match s.req i with
    | some r => if r.stage = .page then s.failReq r (refusalTrap why q.tenant r.key q.va) else s
    | none => s
  | .node id c => s.retryChunk id c (.failed .fault (match why with | .quota => 0x17 | .refused => 0x05) q.va 0)
  | .unpin id =>
    let n := s.node id.cl id.idx
    if n.gen = id.gen ∧ n.st = .draining then s.setNode id.cl id.idx { n with unpin := n.unpin.drop 1 } else s
  | .drain i => { s with drains := s.drains.filter fun d => d.id ≠ i }
  | .scale c tok =>
    let x := s.core c
    s.setCore c { x with
      arrayq := x.arrayq.map fun e => if e.tok = tok then { e with refusal := some why } else e
      vdqs := x.vdqs.map fun e => if e.tok = tok then { e with refusal := some why } else e }

end State

/-- `PAGE_FAULT_SERVICE` (R175, R178, R179): the answer of the pager to a queued request, by its place in the queue. A page is charged when
the tenant first touches it. With no Waliasal core in service the queue waits (R24, R425). -/
def execPageFaultService (d : BitVec 3) (idx : Nat) (ans : PagerAnswer) (s : State) : Out :=
  .next <|
    let x := s.die d
    match (if s.served then x.pageq[idx]? else none) with
    | none => s
    | some q =>
      let t := s.setDie d { x with pageq := x.pageq.eraseIdx idx }
      let wake (t : State) : State := q.waiters.foldl State.wakeWaiter t
      let refuse (why : PageRefusal) : State := q.waiters.foldl (fun t w => t.refuseWaiter q why w) t
      match s.walk q.tenant q.fine q.va with
      | .malformed => refuse .refused
      | .leaf l => if (q.write && !l.w) || (q.fetch && !l.x) then refuse .refused else wake t
      | .absent =>
        let k := s.tenant q.tenant
        let page : Option Nat × Nat := (q.fine, q.va / pageSize q.fine)
        let cost := if k.touched.contains page then 0 else if q.fine.isSome then 1 else 2048
        let past := cost != 0 && decide (k.charged + cost > k.quota)
        match ans with
        | .unmapped => refuse .refused
        | .quota => if past then refuse .quota else s
        | .grant frame mid low w x sec =>
          if past then refuse .quota
          else match t.makePresent q frame mid low w x sec with
            | none => s
            | some t => wake (t.setTenant q.tenant { k with
                charged := k.charged + cost, touched := if cost = 0 then k.touched else page :: k.touched })

/-! ## Performance at the home (R188, R200, R354) -/

namespace State

/-- A committed word of a node reaches its home (R350, R354). Translated when it does; a refused page drops it. A word in a window of
the fabric map goes to another part, untranslated (R427). -/
def performDrain (s : State) (w : DrainW) : State :=
  let drop (s : State) : State := { s with drains := s.drains.filter fun d => d.id ≠ w.id }
  let earlier := s.drains.any fun d => decide (d.id < w.id) && d.node == w.node && d.dev == w.dev && d.tenant == w.tenant &&
    d.core == w.core && d.va == w.va
  let put (sp : Space) (i : Nat) (dt : Bool) (s : State) : State :=
    let old := s.rdW sp i
    let x := (List.range 8).foldl (fun x j =>
      if w.mask.getLsbD j then setBits x (8 * j + 7) (8 * j) (bits w.data (8 * j + 7) (8 * j)) else x) old
    let whole := decide (w.mask = 0xFF)
    let s := (s.wrW sp i x).setTagAt sp i (whole && w.tag)
    (if whole then s.setBadAt sp i w.bad else s).markDirty dt (8 * i)
  let fill (sp : Space) (i : Nat) (s : State) : State :=
    if w.full && !s.isFull sp i then (s.setFull sp i true).serve sp (some i) else s
  if earlier then s
  else if w.dev = false then fill (.ls w.core) (w.va / 8) (drop (s.both w.core (put (.ls w.core) (w.va / 8) false)))
  else match s.fabricWin w.tenant w.va with
  | some x => { drop s with fabricOut := .word x.dev w.tenant w.va w.mask w.data :: s.fabricOut }
  | none =>
    let n := s.node w.node.cl w.node.idx
    let die := dieOfCluster w.node.cl
    match s.translate w.tenant w.fine n.sec w.va true false, s.keyOf w.tenant with
    | .ok l, some k => fill (.dev k) (l.pa / 8) (drop (put (.dev k) (l.pa / 8) l.dt s))
    | .fault, _ =>
      if s.waitsPage die (.drain w.id) then s
      else s.pageFault die ⟨w.tenant, w.fine, w.va, true, false, [.drain w.id]⟩
    | .mig, _ => s
    | _, _ => drop s

/-- Words of the value that an access returns. -/
def replyWords : Op → Nat
  | .ld .. => 1
  | .ldb .. => 1
  | .lds _ => 1
  | .amo .. => 1
  | .ldv => 16
  | .kld => 2
  | .aload _ => 512
  | .fill _ => 1
  | .harvest .. => 1
  | _ => 0

/-- The value of an access on a cluster that replays: the next records of its thread's slot, at their bundle count (R415). -/
def replayReq (s : State) (r : Req) : State :=
  let n := replyWords r.op
  let kind : Nat := match r.op with | .amo .. => 1 | _ => 0
  let mine (x : LvrRec) : Bool := x.core == r.core && x.slot == r.slot && x.kind == kind
  let recs := (s.lvr.filter mine).take ((n + 1) / 2)
  if n = 0 then s.finish r (.words [] false)
  else if recs.length < (n + 1) / 2 ∨ recs.any (fun x => x.count ≠ (s.core r.core).retired) then s
  else ({ s with lvr := recs.foldl (fun l x => l.erase x) s.lvr } : State).finish r (.words (recs.flatMap (·.val)) false)

end State

/-- `PERFORM` (R188): an access, or a committed word of a node, arrives at its home. -/
def execPerform (i : Nat) (s : State) : Out :=
  .next <|
    match s.drains.find? fun d => d.id == i with
    | some w => s.performDrain w
    | none =>
      match s.req i with
      | none => s
      | some r =>
        if r.stage ≠ .home ∨ r.gate then s
        else if s.recording r.core true && r.far.isNone && !r.op.atHome then s.replayReq r
        else if r.op.atHome then
          (match r.op with | .harvest .. => s.performWords r | _ => if s.behindHome r then s else s.performHome r)
        else if s.behind r State.Stage.open_ || s.behindHeld r || !s.onTime r.way then s
        else match r.op with
          | .tdset _ => s.performHome r
          | _ => s.performWords r

/-- `SYNC_RETRY` (R201): a refused access is sent again. -/
def execSyncRetry (i : Nat) (s : State) : Out :=
  .next <|
    match s.req i with
    | none => s
    | some r =>
      match r.stage with
      | .backoff due =>
        if (s.core r.core).cycle < due then s
        else (s.setReq { r with stage := (if r.dev then .port else .home), pas := [], inj := s.serial }).bump
      | _ => s

/-! ## Replies (R72, R148, R196 to R199) -/

/-- A register that awaits a result takes it, wherever its window stands. -/
def Thread.fillTok (t : Thread) (tok : Nat) (x : Cell) : Thread :=
  let g (y : Cell) : Cell := if y.f = .empty tok then x else y
  { t with
    s := t.s.map g
    callers := t.callers.map fun w => w.map g
    shadow := t.shadow.map fun h => { h with s := h.s.map g } }

namespace State

/-- The reply of a relaxed load, or of a caller's window word, fills what awaits it. -/
def tokenReply (s : State) (r : Req) (rep : Reply) : State :=
  match rep with
  | .words l _ =>
    match r.op with
    | .ldv =>
      match r.row with
      | some (t, v) => s.fillRow r.core t v r.id (rowOfWords l)
      | none => s
    | _ => s.mapUid r.uid fun t => t.fillTok r.id ⟨l.headD 0, .full⟩
  | .trap c i _ =>
    let d : Deferred := ⟨r.uid, r.pc, c, 0, i, 0⟩
    match r.op with
    | .ldv =>
      match r.row with
      | some (t, v) => s.failRow r.core t v r.id d
      | none => s
    | _ => s.mapUid r.uid fun t => t.fillTok r.id ⟨0, .fault d⟩

/-- The words of an ordinary access reach their destination, with X of mode 011 and `BITA`. -/
def deliverWords (s : State) (r : Req) (l : List Word) (tag : Bool) : State :=
  let c := r.core
  let n := r.slot
  let s := match r.op, r.dst with
    | .aload t, _ =>
      (List.range 32).foldl (fun s i => s.setRow c t (BitVec.ofNat 5 i) (rowOfWords ((l.drop (16 * i)).take 16))) s
    | _, .s d => s.mapTh c n fun t => t.setS d (l.headD 0)
    | _, .k d => s.mapTh c n fun t => t.setK d ⟨l.getD 0 0, l.getD 1 0, tag, .full⟩
    | _, .v d =>
      match (s.slotAt c n).th.bound with
      | some t => s.setRow c t d (rowOfWords l)
      | none => s
    | _, _ => s
  let s := match r.post with | some (x, w) => s.mapTh c n fun t => t.setS x w | none => s
  match r.bita with | some w => s.mapTh c n fun t => { t with bita := w } | none => s

/-- Does a bit access cover two words (R197)? -/
def straddles (r : Req) : Bool := r.bita.isSome && decide (r.va / 8 ≠ (r.va + r.size - 1) / 8)

/-- Other ordinary accesses of the thread that are outstanding: a bundle may hold two. -/
def others (s : State) (r : Req) : Bool := s.reqs.any fun x => x.uid == r.uid && x.id != r.id && x.ordinary

/-- The tile whose row an ordinary `LDV` or `STV` uses, for a thread that R274 checks. -/
def rowTile (s : State) (r : Req) : Option TileId :=
  let t := (s.slotAt r.core r.slot).th
  match r.op with
  | .ldv => if t.level = .mon then none else t.bound
  | .stv _ => if t.level = .mon then none else t.bound
  | _ => none

/-- Does the row that an ordinary `LDV` writes stand still for a `ROUTE` that has taken it since (R394)? -/
def rowStands (s : State) (r : Req) : Bool :=
  match r.op, r.dst, (s.slotAt r.core r.slot).th.bound with
  | .ldv, .v d, some t => s.alive r && s.heldRow r.core t d
  | _, _, _ => false

/-- The claim of the tile by an `LDV` or `STV` that completes: one that another launch has claimed meanwhile turns the row of an
`LDV` away (R8, R274). -/
def rowClaim (s : State) (r : Req) : Option TrapInfo :=
  match s.rowTile r with
  | none => none
  | some t =>
    let o := (s.core r.core).aown[t.toFin]
    if bit o 63 && !ownedBy o (s.slotAt r.core r.slot).th && r.op == .ldv then some ⟨0x09, word t.toNat, o, 0⟩ else none

def claimRow (s : State) (r : Req) : State :=
  match s.rowTile r with
  | none => s
  | some t => if bit (s.core r.core).aown[t.toFin] 63 then s else s.claimTile r.core t (s.slotAt r.core r.slot).th

/-- The reply of an ordinary access: the bundle completes, or traps. What answers a retired thread is discarded (R82). -/
def ordinaryReply (s : State) (r : Req) (rep : Reply) : State :=
  if s.alive r = false then s
  else match rep with
    | .trap c i j => s.answerTrap r.core r.slot ⟨c, i, j, 0⟩
    | .words l tag =>
      match s.rowClaim r with
      | some i => s.answerTrap r.core r.slot i
      | none =>
      let s := (s.claimRow r).deliverWords r l tag
      if s.others r then s
      else
        let s := s.answer r.core r.slot
        if straddles r then
          s.setSlot r.core r.slot { s.slotAt r.core r.slot with last := some ((s.core r.core).cycle + 8) }
        else s

/-- Values that a recorder takes (R415): loads and sync replies, `AMO` results. -/
def recordReply (s : State) (r : Req) (rep : Reply) : State :=
  match rep, r.op with
  | .words l _, .amo .. => s.lvRecord r.core r.slot 1 l
  | .words l _, _ => if l = [] then s else s.lvRecord r.core r.slot 0 l
  | .trap .., _ => s

/-- A coupled pair's write stands in its buffer: its thread goes on, and the write is then as a posted store (R410). -/
def bufferWrite (s : State) (r : Req) : State :=
  let s := s.setReq { r with relaxed := true, dst := .none, post := none, bita := none, held := true }
  let s := if r.dev then
      s.mapUid r.uid fun t => { t with tmask := r.words.foldl (fun m i => m ||| word (2 ^ sliceOf (8 * i))) t.tmask }
    else s
  s.ordinaryReply r (.words [] false)

end State

/-- `ACCESS_REPLY` (R72, R188): the reply of an access reaches its core. -/
def execAccessReply (i : Nat) (s : State) : Out :=
  .next <|
    match s.req i with
    | none => s
    | some r =>
      if r.gate && r.stage == .home && r.ordinary then
        if r.op.image then (if s.scalarWaits r.core r.slot r.uid then s else s.bufferWrite r)
        else if s.mateReady r.core r.uid then (s.performMate r.core r.uid).bufferWrite r
        else s
      else if r.stage ≠ .reply ∨ s.leads i ∨ s.rowStands r ∨ s.onTime (s.reqWires r) = false ∨ (match r.upd with | some t => s.updateOver t | none => true) = false then s
      else match r.reply with
        | none => s
        | some rep =>
          match r.far with
          | some (_, src, num) => { s.dropReq i with fabricOut := .answer src num rep :: s.fabricOut }
          | none =>
          let s := (s.dropReq i).recordReply r rep
          if r.ordinary then s.ordinaryReply r rep else s.tokenReply r rep

/-! ## Fences (R203, R214, R216) -/

/-- `FENCE_PROBE` (R203): behind every earlier store from its cluster to its slice, and behind those that its thread's pair still
holds (R410). The echo is injected. -/
def execFenceProbe (i : Nat) (s : State) : Out :=
  .next <|
    match s.probes.find? fun p => p.id == i with
    | none => s
    | some p =>
      let held := s.reqs.any fun r => r.gate && r.uid == p.uid && r.stage == .home && r.dev && r.slice == p.slice && decide (r.inj < p.inj)
      if p.echo ∨ held ∨ s.clear p.wire = false then s
      else ({ s with probes := s.probes.map fun q => if q.id = i then { q with echo := true, inj := s.serial } else q } : State).bump

/-- `PROBE_ECHO` (R216): absorbed by the fencing slot. -/
def execProbeEcho (i : Nat) (s : State) : Out :=
  .next { s with probes := s.probes.filter fun p => !(p.id == i && p.echo && s.clear p.wire) }

/-! ## Combined fetch-adds (R210, R215) -/

/-- The operand of an ordinary fetch-add on its way to device memory; combining does not cross the fabric (R427). -/
def fetchAdd (r : Req) : Option (Nat × Word) :=
  match r.op with
  | .amo .add n a _ => if r.stage = .home ∧ r.dev ∧ !r.gate ∧ r.far.isNone then some (n, a) else none
  | _ => none

/-- Output of stage `i` that a request to device memory leaves by (R213). -/
def Req.outAt (r : Req) (i : Nat) : Nat := pathTo (clusterPort r.core) (memPort r.slice r.core) (i + 1)

namespace State

/-- Stages at which a request has met others (R215). -/
def metAt (s : State) (i : Nat) : List Nat :=
  s.reqs.filterMap fun r => match r.stage with | .combined l _ st _ => if l = i then some st else none | _ => none

/-- Entries in use of a switch's wait buffer (R215). -/
def waitBuffer (s : State) (st sw : Nat) : Nat :=
  (s.reqs.filter fun r => match r.stage with | .combined _ _ a b => a == st && b == sw | _ => false).length

/-- Stages whose output queue two requests may share: the same output, later than any stage at which one of them has met another, with
an entry of the switch's wait buffer free (R215). -/
def meetings (s : State) (p q : Req) : List Nat :=
  (List.range 11).filter fun i =>
    p.outAt i == q.outAt i && (s.metAt p.id ++ s.metAt q.id).all (fun j => decide (j < i)) &&
      decide (s.waitBuffer i (p.outAt i / 2) < 8)

end State

/-- `FETCH_ADD_COMBINE` (R215): two requests that meet in an output queue become one, which goes on with the sum; the first of two
requests of one cluster was injected first. Where they could meet at several stages, the stage is a free choice. -/
def execFetchAddCombine (i j : Nat) (s : State) : Out :=
  .next <|
    match s.req i, s.req j with
    | some p, some q =>
      match fetchAdd p, fetchAdd q with
      | some (n, a), some (m, b) =>
        let alone (r : Req) : Bool := (s.slotAt r.core r.slot).held.isNone && s.mateOf r.core r.uid == .none
        if i = j ∨ n ≠ m ∨ p.loc 0 ≠ q.loc 0 ∨ p.tenant ≠ q.tenant ∨ s.behind q State.Stage.open_ ∨ alone p = false ∨
            alone q = false ∨ (clusterPort p.core = clusterPort q.core ∧ q.inj < p.inj) then s
        else
          let l := s.meetings p q
          match l[Config.pick (s.fresh + 26) % l.length]? with
          | none => s
          | some st =>
            (s.setReq { p with op := .amo .add n (a + b) 0, dt := p.dt || q.dt }).setReq
              { q with stage := .combined i a st (p.outAt st / 2) }
      | _, _ => s
    | _, _ => s

/-- `COMBINED_REPLY_SPLIT` (R215): the second requester's old value is the first's plus the operands before it. -/
def execCombinedReplySplit (i : Nat) (s : State) : Out :=
  .next <|
    match s.req i with
    | none => s
    | some q =>
      match q.stage with
      | .combined l before .. =>
        match s.req l with
        | none => s
        | some p =>
          if p.stage ≠ .reply then s
          else match p.reply, q.op with
            | some (.words w _), .amo _ n _ _ =>
              s.answerReq q (.words [signExt (8 * n) (word ((w.headD 0 + before).toNat % 2 ^ (8 * n)))] false)
            | some (.trap c x _), _ => s.answerReq q (.trap c x (word q.va))
            | _, _ => s
      | _ => s

/-! ## Wakes (R72, R73) -/

namespace State

/-- Is a register of a list no longer empty? -/
def someFull (s : State) (v : View) (l : List Ref) : Bool :=
  l.any fun r => match s.refSt v r with | .empty => false | .foreign => false | _ => true

/-- Does a relaxed access of a thread still count for its fence: a load that has not filled, a store that has not been
translated (R195, R203)? -/
def relaxedOut (s : State) (uid : Nat) : Bool :=
  s.reqs.any fun r => r.uid == uid && r.relaxed &&
    (r.dst != .none || r.stage.early)

/-- What a waiting `FENCE` does next (R203): nothing, deliver a deferred store, send its probes, or complete. -/
inductive FenceStep | wait | deliver (d : Deferred) | probe | done
  deriving DecidableEq, Repr, Inhabited

def fenceNext (s : State) (t : Thread) (sc : Scope) (nodes : List NodeId) : FenceStep :=
  if s.relaxedOut t.uid then .wait
  else match t.dstore with
    | some d => .deliver d
    | none =>
      if sc ≠ .core ∧ t.tmask ≠ 0 then .probe
      else if (s.probes.any fun p => p.uid == t.uid) || nodes.any s.undrained ||
          (sc == .system && s.fabricStores.any fun p => p.1 == t.uid) then .wait
      else .done

/-- One probe to each slice of `TMASK`, which is then 0. -/
def sendProbes (s : State) (c : CoreId) (n : SlotId) : State :=
  let t := (s.slotAt c n).th
  let ps : List Probe := ((List.range 64).filter fun i => bit t.tmask i).zipIdx.map fun p =>
    ⟨s.serial + p.2, c, n, t.uid, p.1, false, s.serial⟩
  let s := s.mapTh c n fun t => { t with tmask := 0 }
  { s with probes := s.probes ++ ps, serial := s.serial + 64 }

/-- One step of a waiting `FENCE`. It completes with the array head that waits beside it (R31). -/
def fenceGo (s : State) (c : CoreId) (n : SlotId) (sc : Scope) (nodes : List NodeId) : State :=
  let x := s.slotAt c n
  match s.fenceNext x.th sc nodes with
  | .wait => s
  | .probe => s.sendProbes c n
  | .deliver d =>
    let s := s.withdraw c n
    let s := s.setSlot c n { s.slotAt c n with th := { x.th with dstore := none } }
    s.wakeTo c n fun t => t.deliver none d
  | .done =>
    let t := s.performMate c x.th.uid
    match s.mateOf c x.th.uid with
    | .image _ => t.setSlot c n { t.slotAt c n with wait := .access }
    | _ => t.answer c n

/-- Is the thread of a slot the longest parked on a port (R227)? -/
def firstOnPort (s : State) (c : CoreId) (n : SlotId) (w : WaitOn) : Bool :=
  let x := s.slotAt c n
  (s.core c).slots.toList.all fun y =>
    !((y.st == .parked || y.st == .heldParked) && y.wait == w && decide (y.parkSeq < x.parkSeq))

/-- Is it the turn of a thread that waits for a message or a port: no thread parked before it waits for the same (R225, R227)? -/
def wakeTurn (s : State) (c : CoreId) (n : SlotId) : Bool :=
  let x := s.slotAt c n
  match x.wait with
  | .recv =>
    let k := s.core c
    let before (e : InEntry) : Bool := k.slots.toList.any fun y =>
      (y.st == .parked || y.st == .heldParked) && y.wait == .recv && decide (y.parkSeq < x.parkSeq) && msgMatches y.th e
    k.inbox.entries.any fun e => msgMatches x.th e && !before e
  | .portIn _ => s.firstOnPort c n x.wait
  | .portOut _ => s.firstOnPort c n x.wait
  | _ => true

/-- Has the event that a parked thread waits for reached its core (R72)? -/
def wakeable (s : State) (c : CoreId) (n : SlotId) : Bool :=
  let x := s.slotAt c n
  let t := s.at_ c n
  let v := t.view
  let k := s.core c
  let p := (s.partOf c).getD 64
  (x.st == .parked || x.st == .heldParked) &&
    (x.held.isNone || (match x.wait with | .fence .. => true | _ => false)) &&
    (match x.wait with
     | .regs l => t.someFull v l
     | .fence sc nodes =>
       (match s.fenceNext x.th sc nodes with
        | .wait => false
        | .done => s.mateReady c x.th.uid
        | _ => true)
     | .mig tn va fetch => s.translate tn (s.fineOf c tn va) (bit k.world 0) va (!fetch) fetch != .mig
     | .cond r => v.cond r
     | .recv => k.inbox.entries.any (msgMatches x.th)
     | .acquire => decide (k.acquire.length < 16)
     | .tide e => !(s.tideAt c e).opn
     | .held tl r => !s.heldRow c tl r
     | .hown t => !(k.track t).emptyFor false
     | .agree i => match aget s.pairs i with | none => true | some r => !r.due
     | .portIn q => !(k.ports[q.idx]).isEmpty
     | .portOut q => match s.peer c q with | none => true | some d => decide (s.portLoad d q.opposite < 4)
     | .woken => true
     | .launchEntry => (s.freeLaunch p).isSome
     | .spawnQueue l rel => decide ((s.cluster (clusterOf (s.launchCore l rel))).pending.length < 256)
     | .sendEntry => decide (x.sends < 2)
     | .relaxed => decide (s.relaxedCount x.th.uid < 8)
     | .records => decide (s.recordLoad x.th < 8)
     | .tile t => !bit k.aown[t.toFin] 62
     | .rows tl l => t.someFull { v with th := { v.th with tileb := word (128 + tl.toNat * 16) } }
         (l.map fun r => .v (BitVec.ofNat 5 r))
     | .arrayQueue => decide (k.arrayq.length < 4)
     | .sfuQueue => decide (k.sfuq.length + k.sfuSusp.length < 8)
     | .track t a => !(k.track t).emptyFor a && !(x.th.level == .user && (k.track t).xfer)
     | .claim t => !((k.track t).held || (k.track t).xfer || (k.track t).scrub)
     | .array => k.arrayq.isEmpty
     | .nodeEntry => (s.freeNode (clusterOf c)).isSome
     | .world => k.slots.toList.all fun y => y.st == .free || y.st == .disabled || y.th.uid == x.th.uid
     | .drain nd ch => !(s.drains.any fun w => w.node == nd && w.chunk == ch)
     | .window => match windowCells x.th (savedWindows x.th.wsp) with | some w => !windowEmpty w | none => true
     | .shadow => !s.shadowBusy c
     | _ => false)

end State

/-- Has the event of a parked thread reached its core two cycles ago (R73)? -/
def State.wakeLate (s : State) (c : CoreId) (n : SlotId) : Bool :=
  let x := s.slotAt c n
  (x.st == .parked || x.st == .heldParked) &&
    (match x.seen with | some t => decide (t + 2 ≤ (s.core c).cycle) | none => false)

/-- `THREAD_WAKE` (R72, R73): the thread is READY; a `FENCE` and a `SPAWN` go on where they wait. An event that has reached the core is
not lost though its cause may have gone again: the thread reissues. Threads that wait for the same message or port are woken in
the order they parked (R225, R227). -/
def execThreadWake (c : CoreId) (n : SlotId) (s : State) : Out :=
  .next <|
    if s.wakeLate c n = false ∧ (s.wakeable c n = false ∨ s.wakeTurn c n = false) then s
    else
      let x := s.slotAt c n
      let s := match x.wait with
        | .fence sc nodes => (s.setSlot c n { x with seen := none }).fenceGo c n sc nodes
        | .spawnQueue l rel =>
          match s.writePending l rel (l.places - rel) with
          | (s, none) => s.resume c n
          | (s, some r) => s.setSlot c n { s.slotAt c n with wait := .spawnQueue l r, seen := none }
        | _ => s.wake c n
      (s.lvRecord c n 4 []).sfuRejoin c

/-! ## The end of a recalibration (R339) -/

/-- `RECALIBRATION_END` (R339): the thread goes on, or traps with 0x0B and RECAL. -/
def execRecalibrationEnd (c : CoreId) (t : TrackId) (s : State) : Out :=
  .next <|
    let x := s.core c
    let k := x.track t
    match k.after with
    | .recal n uid found =>
      let waits := decide ((s.slotAt c n).th.uid = uid) && (s.slotAt c n).wait == .recal t
      if x.moveOver t = false ∨ (waits && found && !s.mateReady c uid) then s
      else
        let k := { k with move := .idle, after := .rest }
        let k := if found then k.recalibrated else { k with lost := true }
        let s := s.setCore c (x.setTrack t k)
        if waits = false then s
        else if found then
          let t := s.performMate c uid
          match s.mateOf c uid with
          | .image _ => t.setSlot c n { t.slotAt c n with wait := .access }
          | _ => t.answer c n
        else s.answerTrap c n (shiftTrap t k (x.track t).lost true 0xFFF)
    | _ => s

/-! ## The swap of the planes (R261, R286) -/

/-- The failure of a load has been reported. -/
def State.clearFailed (s : State) (c : CoreId) : State := s.setCore c { s.core c with failed := none }

/-- `MSWAP_EXECUTE` (R261, R286): the planes change places, or the failure of a load traps. Beside a scalar head that waits the
swap is made when that head performs (R31). -/
def execMswapExecute (c : CoreId) (s : State) : Out :=
  .next <|
    match (s.core c).arrayq.find? fun e => e.op.isSwap with
    | none => s
    | some e =>
      if s.swapDue c e = false then s
      else
        let x := s.core c
        match s.slotOf c e.uid with
        | none => if x.failed.isSome then (s.dropEntry c e.tok).clearFailed c else s.swapPlanes c e
        | some n =>
          match x.failed with
          | some (a, b, f) => ((s.dropEntry c e.tok).clearFailed c).answerTrap c n ⟨a, b, f, 0⟩
          | none =>
            if s.scalarWaits c n e.uid then s.serveThread e.uid
            else
              let t := s.swapPlanes c e
              if (s.slotAt c n).wait = .swap e.tok then t.answer c n else t

end Sys2Proof.Machine
end

