-- ==== Sys2Proof/Machine/EvPairs.lean ====
section
/-! DEFINITION. Coupled pairs and soft errors (R410, R411, R414). -/
namespace Sys2Proof.Machine

/-- An instruction that changes state outside the pair and returns a value: it ends an interval (R410). -/
def endsInterval : Instr → Bool
  | .lds m _ _ => m == .take
  | .ldsIndexed m _ _ => m == .take
  | .sts .. => true
  | .stsIndexed .. => true
  | .amo .. => true
  | .recv _ => true
  | .nrecv .. => true
  | .harvest .. => true
  | _ => false

/-- Its access. -/
def Op.endsInterval : Op → Bool
  | .lds m => m == .take
  | .sts .. => true
  | .amo .. => true
  | .harvest .. => true
  | _ => false

namespace State

/-- Must the interval of a pair end (R410)? At 4,096 bundles, at a full buffer, for an access that ends it, or for a thread, a
drain or a decoupling that waits for held writes. -/
def intervalOver (s : State) (i : BitVec 12) (p : PairRec) : Bool :=
  let c := (pairCores i).1
  let x := s.core c
  let idle := x.slots.toList.all fun y => y.st != .ready && y.st != .loading
  let draining := x.slots.toList.any fun y => y.st == .draining
  let leaving := s.reqs.any fun r => r.stage == .home && (match r.op with | .pair 1 a => decide (bits a 11 0 = i.toNat) | _ => false)
  (p.due || decide (p.base + 4096 ≤ x.retired) || decide (512 ≤ s.gatedCount c + s.loggedCount c) || idle || draining || leaving) &&
    !(s.reqs.any fun r => r.core == c && r.op.endsInterval)

/-- The held writes of a pair leave its buffer, in their order (R410). -/
def releaseGated (s : State) (c : CoreId) : State :=
  let mine (m : Sender) : Bool := match m with | .slot d _ => d == c | .tide d _ => d == c | _ => false
  { s with
    reqs := s.reqs.map fun r => if r.gate && r.core == c then { r with gate := false } else r
    msgs := s.msgs.map fun m => if mine m.src then { m with gate := false } else m
    words := s.words.map fun w => if w.src = c then { w with gate := false } else w
    returns := s.returns.map fun r => if r.core = c then { r with gate := false } else r
    clusters := s.clusters.map fun p => (p.1, { p.2 with
      nodes := p.2.nodes.map fun n => if n.2.core = c then (n.1, { n.2 with gate := false }) else n
      pending := p.2.pending.map fun q => if q.l.gate = some c then { q with l := { q.l with gate := none } } else q }) }

/-- A count that a discarded creation had raised. -/
def uncount (s : State) (e : EntryId) : State := s.setLv e { s.lv e with count := (s.lv e).count - 1 }

/-- The held writes of a failed interval are discarded, and its task creations and launches with them (R411). -/
def discardGated (s : State) (c : CoreId) : State :=
  let mine (m : Sender) : Bool := match m with | .slot d _ => d == c | .tide d _ => d == c | _ => false
  let nodes := s.clusters.flatMap fun p => (p.2.nodes.filter fun n => n.2.gate && n.2.core == c).map fun n => (p.1, n.1, n.2)
  let launches := (s.clusters.flatMap fun p => (p.2.pending.filter fun q => q.l.gate == some c).map fun q => (q.l.part, q.l.id)).eraseDups
  let s : State := { s with
    reqs := s.reqs.filter fun r => r.core ≠ c ∨ (!r.gate && r.op.writes && r.relaxed)
    msgs := s.msgs.filter fun m => !(m.gate && mine m.src)
    words := s.words.filter fun w => !(w.gate && w.src == c)
    returns := s.returns.filter fun r => !(r.gate && r.core == c)
    clusters := s.clusters.map fun p => (p.1, { p.2 with pending := p.2.pending.filter fun q => q.l.gate ≠ some c }) }
  let s := nodes.foldl (fun s n => (s.setNode n.1 n.2.1 { Node.free with gen := n.2.2.gen }).uncount n.2.2.graph) s
  launches.foldl (fun s l =>
    let e := launchEntry l.1 l.2
    let g := s.above e
    let s := s.setLv e { s.lv e with st := .free, count := 0 }
    match g with | some p => s.uncount p | none => s) s

/-- The tracks as a rollback leaves them: as at the checkpoint, but for those that a task node holds, whose rows and motion are not the
pair's own writes (R324, R411). -/
def keptTracks (s : State) (new : Core) (old : Core) : List (TrackId × Track) :=
  let live (k : Track) : List NodeId := k.nodes.filter fun id => (s.node id.cl id.idx).gen == id.gen && (s.node id.cl id.idx).st != .free
  new.tracks.foldl (fun l p => if (live p.2).isEmpty then l else aset l p.1 { p.2 with nodes := live p.2 }) old.tracks

/-- Send entries of a slot in use: its messages and returned rows on their way (R216). -/
def sendsOut (s : State) (c : CoreId) (n : SlotId) : Nat :=
  (s.msgs.filter fun m => m.src == .slot c n).length + (s.returns.filter fun r => r.core == c && r.slot == n).length

/-- A rollback to the last agreed checkpoint (R411): registers, local store, tiles and tracks come back, with what other agents have
written there since; what has arrived stays. -/
def rollback (s : State) (i : BitVec 12) (p : PairRec) : State :=
  let c := (pairCores i).1
  let s := s.discardGated c
  let x := s.core c
  let fails := p.fails + 1
  let y : Core := { p.snap.1 with
    cycle := x.cycle, inbox := x.inbox, ports := x.ports, landing := x.landing, resvq := x.resvq, areas := x.areas,
    icache := x.icache, susp := x.susp, berths := x.berths, cur := x.cur, bwLast := x.bwLast, pieces := x.pieces,
    tracks := s.keptTracks x p.snap.1
    slots := Vector.ofFn fun n => { p.snap.1.slots[n] with sends := s.sendsOut c n } }
  let y : Core := { y with slots := y.slots.map fun z =>
    if z.st = .free ∨ z.st = .disabled then z
    else { z with th := { z.th with sinfo := setBits (setBits z.th.sinfo 7 0 0x15) 63 32 p.agreed.toNat } } }
  let s : State := { s.setCore c y with
    reqs := (s.setCore c y).reqs ++ p.snap.2
    pairs := aset s.pairs i { p with fails := fails, due := false } }
  if fails < 3 then s
  else
    (List.finRange 16).foldl (fun s n =>
      let z := s.slotAt c n
      if z.st = .free ∨ z.st = .disabled ∨ z.st = .draining then s
      else
        let s := s.parkAt c n .frozen
        { s with freezes := ⟨z.th.place, n, 0x15, z.th.pc⟩ :: s.freezes }) s

end State

/-- `PAIR_CHECKPOINT` (R410, R411): the fingerprints of an interval agree, or not. -/
def execPairCheckpoint (i : BitVec 12) (agree : Bool) (s : State) : Out :=
  .next <|
    match aget s.pairs i with
    | none => s
    | some p =>
      if s.intervalOver i p = false then s
      else if agree = false then s.rollback i p
      else
        let c := (State.pairCores i).1
        let s := s.releaseGated c
        { s with pairs := aset s.pairs i ⟨p.agreed + 1, (s.core c).retired, 0, false, s.pairSnap c⟩ }

/-! ## Soft errors (R414) -/

namespace State

/-- A register of a thread is lost: empty-with-fault with cause 0x14 (R148). A register that awaits a result takes it later. -/
def loseReg (s : State) (c : CoreId) (n : SlotId) (f : Thread → Deferred → Thread) : State :=
  let x := s.slotAt c n
  if x.st = .free ∨ x.st = .disabled then s
  else s.setSlot c n { x with th := f x.th ⟨x.th.uid, x.th.pc, 0x14, 0, 0, 0⟩ }

/-- A lost row belongs to the first thread of its owner's launch on the core that is bound to the tile. With none there, its record is as
that of a thread that has retired (R272): the model's choice (log entry 105). -/
def loseRow (s : State) (c : CoreId) (t : TileId) (r : VReg) : State :=
  let x := s.core c
  match x.slots.toList.find? fun y =>
      y.st != .free && y.st != .disabled && y.th.bound == some t && ownedBy x.aown[t.toFin] y.th with
  | none =>
    let o := x.aown[t.toFin]
    s.setCore c { x with orphans := x.orphans ++ [⟨BitVec.ofNat 16 (bits o 15 0), BitVec.ofNat 9 (bits o 40 32), t, r⟩] }
  | some y => s.addRowFault c y.th.uid ⟨t, r, ⟨y.th.uid, y.th.pc, 0x14, 0, 0, 0⟩⟩

end State

/-- `ECC_UNCORRECTABLE_ERROR` (R414). -/
def execEccUncorrectableError (site : EccSite) (s : State) : Out :=
  .next <|
    match site with
    | .icache c line =>
      let x := s.core c
      let s := s.setCore c { x with icache := x.icache.filter fun e => e.1.2 ≠ line / 64 * 64 }
      s.mapSlots fun d y =>
        if d = c ∧ (y.th.line.map (·.1)) = some (line / 64 * 64) then { y with th := { y.th with line := none } } else y
    | .device w => if w ≤ paMax / 8 then { s with mem := s.mem.setBad w true } else s
    | .local c w =>
      if w < 2 ^ 15 then s.setCore c { s.core c with ls := (s.core c).ls.setBad w true } else s
    | .track c t p =>
      let x := s.core c
      let k := x.track t
      s.setCore c (x.setTrack t { k with bad := mark k.bad p.toNat true })
    | .code c t p reads =>
      let x := s.core c
      let k := x.track t
      s.setCore c (x.setTrack t { k with codes := put k.codes p.toNat (some reads) })
    | .sreg c n r =>
      s.loseReg c n fun t d => if r ≠ 0 ∧ t.s[r.toFin].f = .full then { t with s := t.s.set r.toFin ⟨0, .fault d⟩ } else t
    | .kreg c n r =>
      s.loseReg c n fun t d => if t.k[r.toFin].f = .full then t.setK r ⟨0, 0, false, .fault d⟩ else t
    | .dreg c n r =>
      s.loseReg c n fun t d => if t.d[r.toFin].f = .full then t.setD r { DCell.zero with f := .fault d } else t
    | .tileRow c t r => s.loseRow c t r
    | .window c n w r =>
      s.loseReg c n fun t d =>
        match t.callers[w]? with
        | some v => if v[r.toFin].f = .full then { t with callers := t.callers.set w (v.set r.toFin ⟨0, .fault d⟩) } else t
        | none => t
    | .inbox c e w =>
      let x := s.core c
      match x.inbox.entries[e]? with
      | some y => s.setCore c { x with inbox := { x.inbox with entries := x.inbox.entries.set e { y with bad := y.bad ++ [w.toNat] } } }
      | none => s

end Sys2Proof.Machine
end

