-- ==== Sys2Proof/Machine/EvTables.lean ====
section
/-! DEFINITION. The control window and the host's accesses to device memory: translation-invalidate and dirty-map commands,
partition and place tables, tenant table, groups and fabric maps, CXL.mem (R93, R174, R401, R417, R419, R420). -/
namespace Sys2Proof.Machine
namespace State

/-- Has the module booted, and is its power on (R428, R429)? -/
def up (s : State) : Bool := s.boot == 1 && !s.off

/-- Is a master the owner of the part (R424)? -/
def owner (s : State) (m : BitVec 2) : Bool := bit s.ownctl 2 && decide (bits s.ownctl 1 0 = m.toNat)

/-- A write to BAR 0 or BAR 2 by one that is not the owner is discarded and counted (R424). -/
def discard (s : State) : State := { s with drops := s.drops + 1 }

/-- A write of the owner; with no owner elected, every write is a non-owner's. -/
def ownerWrite (s : State) (k : State) : State :=
  if s.up = false then s else if bit s.ownctl 2 then k else s.discard

end State

/-! ## Translation-invalidate (R174, R183) -/

/-- `TRANSLATION_INVALIDATE`: translations, instruction lines and fetch buffers of the range are dropped; while a command is BUSY
no other one starts. -/
def execTranslationInvalidate (t : BitVec 9) (base len : Nat) (s : State) : Out :=
  .next <| s.ownerWrite <|
    if s.inval.isSome then s
    else
      let win := aset (aset (aset s.window 0x30008 (word t.toNat)) 0x30010 (word base)) 0x30018 (word len)
      ({ s.dropTranslations t base len with inval := some ⟨t, base, len, s.serial⟩, window := win } : State).bump

/-- `TRANSLATION_INVALIDATE_DONE`: every access translated through a dropped entry has performed. -/
def execTranslationInvalidateDone (s : State) : Out :=
  .next <|
    match s.inval with
    | none => s
    | some v => if s.quiet v.tenant v.base v.len v.before then { s with inval := none } else s

/-! ## Dirty maps (R181, R420) -/

/-- Does a `MIGRATE-PAGE` node hold the map of a frame? -/
def State.mapHeld (s : State) (frame : Nat) : Bool :=
  s.clusters.any fun p => p.2.nodes.any fun n =>
    match n.2.mig with
    | .marked q _ => q / 2 ^ 21 == frame
    | .copying q _ => q / 2 ^ 21 == frame
    | .frozen q _ _ => q / 2 ^ 21 == frame
    | _ => false

/-- `DIRTY_MAP_TRACK`: a free map for the frame, clear. -/
def execDirtyMapTrack (frame : Nat) (s : State) : Out :=
  .next <| s.ownerWrite <|
    let s : State := { s with dirtyCmd := 1, dirtyFrame := frame }
    if 512 ≤ s.dirty.length ∨ (aget s.dirty frame).isSome ∨ 589823 < frame then { s with dirtyErr := true }
    else { s with dirty := s.dirty ++ [(frame, [])], dirtyErr := false }

/-- `DIRTY_MAP_RELEASE`: the frame's map is free. -/
def execDirtyMapRelease (frame : Nat) (s : State) : Out :=
  .next <| s.ownerWrite <|
    let s : State := { s with dirtyCmd := 2, dirtyFrame := frame }
    if (aget s.dirty frame).isNone ∨ s.mapHeld frame then { s with dirtyErr := true }
    else { s with dirty := adel s.dirty frame, dirtyErr := false }

/-! ## Place and partition tables (R93, R401, R420) -/

namespace State

/-- Does the cluster of a core take part in partitions (R413)? -/
def passed (s : State) (c : CoreId) : Bool :=
  (s.die (dieOf c)).stpass.getLsbD ((clusterOf c).toNat % 64)

/-- May a place name a core: an enabled core of the partition's interval whose cluster has passed its test, that is not core 2i + 1 of a
coupled pair and that no other place names (R93, R409, R413, R420)? -/
def placeable (s : State) (p place : Nat) (c : CoreId) : Bool :=
  let x := s.part p
  let h := hilbertOf c
  !s.disabledCore c && s.passed c && !(s.isCoupled c && c.getLsbD 0) && decide (x.base ≤ h) && decide (h < x.base + x.len) &&
    !(s.parts.any fun q => q.2.places.zipIdx.any fun y => y.1 == c && !(q.1 == p && y.2 == place))

end State

/-- `PLACE_TABLE_WRITE` (R93, R420): the entry names another core, or stays as it was. Bits [14:13] are
reserved, and what is written there is ignored (R10). A write with VALID = 0 changes nothing, and until the next rewrite of the thermal
ranking the new core stands in it at the old one's rank: the model's choices, since the spec says neither (log entry 96). -/
def execPlaceTableWrite (p : BitVec 6) (place : CoreId) (v : Half) (s : State) : Out :=
  .next <| s.ownerWrite <|
    let x := s.part p.toNat
    let c : CoreId := v.setWidth 13
    match x.places[place.toNat]? with
    | none => s
    | some old =>
      if v.getLsbD 15 = false ∨ s.placeable p.toNat place.toNat c = false then s
      else s.setPart p.toNat { x with
        places := x.places.set place.toNat c
        ranking := x.ranking.map fun d => if d = old then c else d }

namespace State

/-- Physical cores of a Hilbert interval, in order (R400). -/
def intervalCores (base len : Nat) : List CoreId := (List.range len).map fun i => hilbertCore (base + i)

/-- Do all cores of an interval hold nothing (R401)? -/
def idleInterval (s : State) (base len : Nat) : Bool := (intervalCores base len).all fun c => !s.occupied c

/-- Is an interval disjoint from those of the other partitions? -/
def disjoint (s : State) (p base len : Nat) : Bool :=
  s.parts.all fun q => q.1 == p || q.2.len == 0 || decide (base + len ≤ q.2.base) || decide (q.2.base + q.2.len ≤ base)

/-- The default fill (R93): the enabled cores of the interval whose clusters have passed their test. -/
def defaultPlaces (s : State) (base len : Nat) : List CoreId :=
  (intervalCores base len).filter fun c => !s.disabledCore c && s.passed c && !(s.isCoupled c && c.getLsbD 0)

/-- The copies of a partition's descriptor and berth tables start empty (R245, R382). -/
def clearCopies (s : State) (p : Nat) : State :=
  { s with copies := s.copies.filter fun q => q.1.1 ≠ p }

end State

/-- `PARTITION_TABLE_WRITE`: LEN 0 frees the entry. -/
def execPartitionTableWrite (p : BitVec 6) (base len : Nat) (s : State) : Out :=
  .next <| s.ownerWrite <|
    let x := s.part p.toNat
    if 8192 < base + len ∨ (len ≠ 0 ∧ s.disjoint p.toNat base len = false) ∨ s.idleInterval x.base x.len = false ∨
        s.idleInterval base len = false then s
    else if len = 0 then s.setPart p.toNat Partition.reset
    else
      let l := s.defaultPlaces base len
      (s.clearCopies p.toNat).setPart p.toNat { Partition.reset with base := base, len := len, places := l, ranking := l }

/-! ## Words without a behaviour of their own (R419) -/

namespace State

/-- A word of the control window. -/
def winWord (s : State) (off : Nat) : Word := (aget s.window off).getD 0

/-- The windows of fabric map `m`; map 0 has none. -/
def fabricMap (s : State) (m : Nat) : List FabricWin :=
  if m = 0 ∨ 128 ≤ m then []
  else (List.range 16).filterMap fun i =>
    let w := s.winWord (0x48000 + 256 * m + 16 * i)
    if bit w 63 then some ⟨bits w 21 0, bits w 43 22, bits (s.winWord (0x48000 + 256 * m + 16 * i + 8)) 15 0⟩ else none

/-- A tenant's entry as the window holds it. -/
def tenantAt (s : State) (t : BitVec 9) : Tenant :=
  let a := 0x20000 + 64 * t.toNat
  ⟨bits (s.winWord a) 51 13 * 2 ^ 13, (s.winWord (a + 8)).toNat, (s.tenant t).charged,
   s.fabricMap (s.winWord (a + 24)).toNat, (s.tenant t).touched⟩

/-- A collective group as the window holds it: count and rank, then member ids, four to a word. -/
def groupAt (s : State) (g : Nat) : Group :=
  let a := 0x40000 + 64 * g
  let w := s.winWord a
  { members := (List.range (min 28 (bits w 15 0))).map fun i => bits (s.winWord (a + 8 + 8 * (i / 4))) (16 * (i % 4) + 15) (16 * (i % 4))
    rank := bits w 31 16
    got := match aget s.groups g with | some x => x.got | none => [] }

/-- The tables that a word belongs to take it. -/
def windowTables (s : State) (off : Nat) (v : Word) : State :=
  if 0x20000 ≤ off ∧ off < 0x28000 then
    let t : BitVec 9 := BitVec.ofNat 9 ((off - 0x20000) / 64)
    let x := s.tenantAt t
    s.setTenant t (if off % 64 = 16 then { x with charged := v.toNat } else x)
  else if 0x40000 ≤ off ∧ off < 0x48000 then
    let g := (off - 0x40000) / 64
    { s with groups := aset s.groups g (s.groupAt g) }
  else
    { s with tenants := s.tenants.map fun p => (p.1, { p.2 with fabric := (s.tenantAt p.1).fabric }) }

end State

/-- `CONTROL_WINDOW_WRITE`: tenant table, collective groups and fabric maps; every other word of the window has steps of its
own, is read-only or is reserved. -/
def execControlWindowWrite (m : BitVec 2) (off : Nat) (v : Word) (s : State) : Out :=
  .next <|
    if s.up = false then s
    else if s.owner m = false then s.discard
    else if off % 8 = 0 ∧ ((0x20000 ≤ off ∧ off < 0x28000) ∨ (0x40000 ≤ off ∧ off < 0x50000)) then
      ({ s with window := aset s.window off v } : State).windowTables off v
    else s

/-! ## What the control window reads as (R419, R420, R422) -/

namespace State

/-- Four entries of two bytes in a word. -/
def halves (f : Nat → Nat) : Word := word ((List.range 4).map fun j => f j % 2 ^ 16 * 2 ^ (16 * j)).sum

def JStatus.num : JStatus → Nat
  | .accepted => 0
  | .complete => 1
  | .refused => 2
  | .aborted => 3

/-- Word `i` of a journal record (R422). -/
def jword (r : JRec) (i : Nat) : Word :=
  match i with
  | 0 => word r.seq
  | 1 => word (r.ctx.toNat * 2 ^ 52 + r.slot.toNat * 2 ^ 8 + r.opcode % 256)
  | 2 => word (r.id % 2 ^ 16 * 2 ^ 32 + r.reason % 256 * 2 ^ 8 + JStatus.num r.status)
  | _ => word (r.tag.toNat * 2 ^ 32 + r.closes % 2 ^ 32)

/-- Entry `p` of a partition's place table: VALID and the core, zero at or above the place count (R420). -/
def placeEntry (s : State) (q p : Nat) : Nat := match (s.part q).places[p]? with | some c => 2 ^ 15 + c.toNat | none => 0

/-- Entry `p` of a partition's thermal ranking: a place, coolest first (R92). -/
def rankEntry (s : State) (q p : Nat) : Nat :=
  match (s.part q).ranking[p]? with | some c => (s.part q).places.findIdx (· == c) | none => 0

/-- A word of the control window as a host reads it (R419). Where the table gives a region no layout, the order of its words is the
model's choice, and the reports, whose words the spec leaves open, read as free values (log entry 107). A part that has not booted shows
its status page alone (R428). -/
def windowRead (s : State) (off : Nat) : Word :=
  let within (a n : Nat) : Bool := decide (a ≤ off) && decide (off < a + n)
  if off = 0 then s.boot
  else if s.up = false ∨ off % 8 ≠ 0 then 0
  else if off = 8 then Config.identity
  else if off = 16 then word (s.stepping % 256 * 2 ^ 32 + (8192 - s.disabled.length))
  else if off = 0x1000 then s.ownctl
  else if off = 0x1008 then word s.drops
  else if within 0x10000 0x400 then
    let x := s.part ((off - 0x10000) / 16)
    word (if off % 16 = 0 then x.base else x.len)
  else if within 0x20000 0x8000 then
    if off % 64 = 16 then word (s.tenant (BitVec.ofNat 9 ((off - 0x20000) / 64))).charged else s.winWord off
  else if off = 0x30000 then (if s.inval.isSome then 2 ^ 63 else 0)
  else if within 0x30008 24 then s.winWord off
  else if off = 0x31000 then word ((if s.dirtyErr then 2 ^ 62 else 0) + s.dirtyCmd)
  else if off = 0x31008 then word (s.dirtyFrame % 2 ^ 20)
  else if off = 0x31010 then word s.dirty.length
  else if within 0x40000 0x10000 then s.winWord off
  else if within 0x100000 0x100000 then
    let i := (off - 0x100000) / 2
    halves fun j => s.rankEntry (i / 8192) (i % 8192 + j)
  else if within 0x200000 0x10000 then
    let i := (off - 0x200000) / 32
    match s.journal.find? fun r => (r.seq + 2047) % 2048 == i with
    | some r => jword r (off / 8 % 4)
    | none => 0
  else if within 0x210000 0x200 then
    let i := 64 * ((off - 0x210000) / 8)
    word ((List.range 64).map fun j =>
      if (agetD s.ctxs (BitVec.ofNat 12 (i + j)) Ctx.reset).posted.isEmpty then 0 else 2 ^ j).sum
  else if within 0x300000 0x4000 then Config.freeWord (s.fresh * 2 ^ 52 + off)
  else if within 0x400000 0x100000 then
    let i := (off - 0x400000) / 2
    halves fun j => s.placeEntry (i / 8192) (i % 8192 + j)
  else 0

end State

/-! ## CXL.mem (R416, R417) -/

namespace State

/-- The device physical address that a host address of a head maps to (R416): by the head's decoder, while its link is up. -/
def hdmDecode (s : State) (a : HdmAddr) : Option Nat :=
  if h : a.head.toNat < 3 then
    let b := s.hdmBase[a.head.toNat]
    if s.up && !s.down.contains a.head && decide (b ≤ a.addr) && decide (a.addr - b ≤ paMax) then some (a.addr - b) else none
  else none

/-- Do the HDM windows of a granule accept host accesses? Those of a tenant that has an interface accept them while one of its interfaces
is in RUN (R426). -/
def hdmOpen (s : State) (pa : Nat) : Bool :=
  match aget s.hdm (pa / 2 ^ 30) with
  | none => true
  | some t =>
    let l := s.ctxs.filter fun p => p.2.tenant == t
    l.isEmpty || l.any fun p => p.2.tdi == .run

/-- The tenant under whose key the host reaches a physical address. -/
def hdmTenant (s : State) (pa : Nat) : BitVec 9 := agetD s.hdm (pa / 2 ^ 30) 0

/-- The host's bytes of word `w`: a whole word clears tag and poison, a part of one only the tag. -/
def hostWord (s : State) (addr : Nat) (data : List Byte) (w : Nat) : State :=
  match s.keyOf (s.hdmTenant (8 * w)) with
  | none => s
  | some k =>
    let byte (j : Nat) : Option Byte := if addr ≤ 8 * w + j then data[8 * w + j - addr]? else none
    if (List.range 8).all fun j => (byte j).isSome then
      s.storeW (.dev k) w (word (ofBytes ((List.range 8).map fun j => (byte j).getD 0)))
    else (List.range 8).foldl (fun s j =>
      match byte j with
      | some b => s.storeN (.dev k) (8 * w + j) 1 b.toNat
      | none => s) s

/-- The words that `n` bytes at `addr` touch. -/
def hostWords (addr n : Nat) : List Nat := (List.range ((addr % 8 + n + 7) / 8)).map fun i => addr / 8 + i

end State

/-- `CXL_MEM_WRITE`. -/
def execCxlMemWrite (addr : HdmAddr) (data : List Byte) (s : State) : Out :=
  .next <|
    match s.hdmDecode addr with
    | none => s
    | some a =>
      if paMax + 1 < a + data.length then s
      else ((State.hostWords a data.length).filter fun w => s.hdmOpen (8 * w)).foldl (fun s w => s.hostWord a data w) s

/-- `CXL_MEM_READ`: the 64-byte line, with the poison indication. -/
def execCxlMemRead (addr : HdmAddr) (s : State) : Out :=
  .next <|
    match s.hdmDecode addr with
    | none => s
    | some pa =>
      let a := pa / 64 * 64
      if s.hdmOpen a = false then s
      else match s.keyOf (s.hdmTenant a) with
      | none => s
      | some k =>
        { s with hostRead := some ⟨a, (List.range 64).map fun i => BitVec.ofNat 8 (s.rdN (.dev k) (a + i) 1),
                                   (List.range 8).any fun i => s.badAt (.dev k) (a / 8 + i)⟩ }

end Sys2Proof.Machine
end

