-- ==== Sys2Proof/Machine/EvCommands.lean ====
section
/-! DEFINITION. Host commands: slots and doorbells, acceptance, launches with their images, cancel, level and query commands
(R46, R47, R117, R259, R323, R421, R422, R425). -/
namespace Sys2Proof.Machine
namespace State

def ctx (s : State) (c : BitVec 12) : Ctx := agetD s.ctxs c Ctx.reset
def setCtx (s : State) (c : BitVec 12) (x : Ctx) : State := { s with ctxs := aset s.ctxs c x }

/-- Does Waliasal core 0, or the standby in its role, carry out commands (R24, R425)? -/
def serving (s : State) : Bool := s.up && s.roles[(0 : Fin 2)] != .failed

end State

/-! ## Slots and doorbells (R421) -/

/-- `COMMAND_SLOT_WRITE`: a slot that is posted takes each word as its old or its new value. -/
def execCommandSlotWrite (m : BitVec 2) (c : BitVec 12) (k : BitVec 4) (data : List Word) (s : State) : Out :=
  .next <|
    if s.up = false then s
    else if s.owner m = false then s.discard
    else if k = 15 then s
    else
      let x := s.ctx c
      let old := agetD x.slots k []
      let posted := x.posted.contains k
      let w := (List.range 32).map fun i =>
        if posted && decide (Config.pick (s.fresh + i) % 2 = 0) then old.getD i 0 else data.getD i 0
      { s.setCtx c { x with slots := aset x.slots k w } with fresh := s.fresh + 32 }

/-- `DOORBELL`: posts a slot of a context in RUN. -/
def execDoorbell (m : BitVec 2) (c : BitVec 12) (k : BitVec 4) (s : State) : Out :=
  .next <|
    if s.up = false then s
    else if s.owner m = false then s.discard
    else
      let x := s.ctx c
      if k = 15 ∨ x.posted.contains k ∨ x.tdi ≠ .run then s
      else s.setCtx c { x with posted := x.posted ++ [k] }

/-! ## The journal (R422) -/

def Cmd.w (x : Cmd) (i : Nat) : Word := x.words.getD i 0
def Cmd.opcode (x : Cmd) : Nat := bits (x.w 0) 7 0

namespace State

/-- The record of a command with its final status. -/
def journalEnd (s : State) (x : Cmd) (id reason : Nat) (st : JStatus) : State :=
  { s with cmds := s.cmds.filter fun y => y.seq ≠ x.seq }.journalAdd
    { seq := 0, ctx := x.ctx, slot := x.slot, opcode := x.opcode, id := id, reason := reason, status := st,
      tag := BitVec.ofNat 32 (bits (x.w 0) 63 32), closes := x.seq }

def complete (s : State) (x : Cmd) (id : Nat) : State := s.journalEnd x id 0 .complete
def refuse (s : State) (x : Cmd) (reason : Nat) : State := s.journalEnd x 0 reason .refused

end State

namespace State

/-- Commands accepted before a take-over that have no final record, held launches apart. -/
def openBefore (s : State) (seq : Nat) : Bool := s.cmds.any fun x => decide (x.seq < seq) && !x.held

/-- May a posted slot of a context be accepted? During a take-over core 2 first closes what was open, and then takes the posted slots in
context order (R425). -/
def mayAccept (s : State) (c : BitVec 12) : Bool :=
  match s.taking with
  | none => true
  | some seq => !s.openBefore seq && s.ctxs.all fun p => p.2.posted.isEmpty || decide (c.toNat ≤ p.1.toNat)

end State

/-- `COMMAND_ACCEPTANCE`: a posted slot is copied whole and journaled ACCEPTED before any effect; a reserved opcode is refused. -/
def execCommandAcceptance (c : BitVec 12) (k : BitVec 4) (s : State) : Out :=
  .next <|
    let x := s.ctx c
    if s.serving = false ∨ x.posted.contains k = false ∨ s.mayAccept c = false then s
    else
      let seq := s.seq
      let y : Cmd := { seq := seq, ctx := c, slot := k, words := agetD x.slots k [], held := false, images := ⟨[], [], []⟩, rest := none }
      let s := s.setCtx c { x with posted := x.posted.filter fun n => n ≠ k, status := word seq }
      let s := ({ s with cmds := s.cmds ++ [y] } : State).journalAdd
        { seq := 0, ctx := c, slot := k, opcode := y.opcode, id := 0, reason := 0, status := .accepted,
          tag := BitVec.ofNat 32 (bits (y.w 0) 63 32), closes := 0 }
      if y.opcode = 0 ∨ 4 < y.opcode then s.refuse y 0 else s

/-! ## Launches (R117, R421) -/

/-- Is a key well formed, and do its bounds and rights lie within another's (R47, R166)? -/
def KCell.within (a b : KCell) : Bool :=
  b.tag && keyShape a && a.kind == b.kind && a.tenant == b.tenant && decide (Nat.land a.rights b.rights = a.rights) &&
    decide (b.base ≤ a.base) && decide (a.base + a.len ≤ b.base + b.len)

/-- Is it a well-formed key of a local store (R166)? Whether its place exists is checked at each use (R168). -/
def KCell.localShape (a : KCell) : Bool := keyShape a && a.kind == 1

/-- Key `i` of a launch command; a pair of zero words is no key. -/
def Cmd.key (x : Cmd) (i : Nat) : KCell := ⟨x.w (16 + 2 * i), x.w (17 + 2 * i), !(x.w (16 + 2 * i) == 0 && x.w (17 + 2 * i) == 0), .full⟩

def Cmd.keys (x : Cmd) : Vector KCell 8 := Vector.ofFn fun i => x.key i.val

namespace State

/-- A key of a command lies within the context's root key: by its bounds and rights if both are of one kind; a local-store key by its
rights and tenant. -/
def keyAllowed (c : Ctx) (k : KCell) : Bool :=
  !k.tag || k.within c.root ||
    (c.root.tag && c.root.kind == 0 && k.localShape && k.tenant == c.root.tenant &&
      decide (Nat.land k.rights c.root.rights = k.rights))

/-- The launch that a command asks for. -/
def cmdLaunch (s : State) (x : Cmd) : Launch :=
  let c := s.ctx x.ctx
  { part := c.part, id := 0, tenant := c.tenant, first := bits (x.w 2) 12 0, places := bits (x.w 2) 29 16, n := bits (x.w 1) 16 0,
    spread := bit (x.w 0) 12, pc := bits (x.w 3) 51 0, args := [x.w 6, x.w 7, x.w 8, x.w 9], q := BitVec.ofNat 2 (bits (x.w 0) 11 10),
    keys := x.keys, tvec := addrOf (x.w 5), level := if bits (x.w 0) 9 8 = 0 then .user else .sup, gate := none }

/-- Does the line of the entry PC have a header that the PC may not name (R32)? A line that cannot be fetched passes. -/
def badEntry (s : State) (l : Launch) : Bool :=
  let t : Thread := { Thread.empty with k := l.keys, level := l.level, self := selfWord l.tenant l.q 0 0 0 0 }
  if l.pc / 2 % 32 = 0 then true
  else match s.lineAt (s.launchCore l 0) { Slot.free with th := t } (l.pc / 64 * 64) with
    | .ok h => (targetFault h (l.pc / 2 % 32)).isSome
    | _ => false

/-- Does a command of any opcode name level 2, or hold a key outside the context's root? -/
def wordRefusal (s : State) (x : Cmd) : Option Nat :=
  if 1 < bits (x.w 0) 9 8 then some 1
  else if !(x.keys.toList.all (keyAllowed (s.ctx x.ctx))) then some 2
  else none

/-- Why a launch command is refused: the model's own numbers. -/
def launchRefusal (s : State) (x : Cmd) : Option Nat :=
  let c := s.ctx x.ctx
  let l := s.cmdLaunch x
  let g : EntryId := ⟨c.part, .graph, (x.w 4).toNat⟩
  if 1 < bits (x.w 0) 9 8 then some 1
  else if (s.wordRefusal x).isSome then some 2
  else if bits (x.w 1) 63 17 ≠ 0 then some 4
  else if 512 ≤ (x.w 4).toNat then some 5
  else if l.places = 0 ∨ bits (x.w 2) 63 30 ≠ 0 ∨ bits (x.w 2) 15 13 ≠ 0 ∨ (s.part c.part).places.length < l.first + l.places then some 6
  else if bits (x.w 3) 63 52 ≠ 0 ∨ bit (x.w 3) 0 ∨ s.badEntry l then some 3
  else if (s.lv g).tenant ≠ c.tenant then some 7
  else if (s.lv g).st = .free ∨ (s.lv g).st = .done then some 8
  else none

/-! ### Images of the loader (R46, R47, R259, R323) -/

/-- The core of a track image. -/
def imageCore (s : State) (l : Launch) (x : TrackImage) : Option CoreId :=
  match x.place with
  | some q => (s.part l.part).places[q]?
  | none => some (s.launchCore l 0)

/-- May every track image be placed (R323)? -/
def tracksFit (s : State) (l : Launch) (xs : List TrackImage) : Bool :=
  let at_ := xs.map fun x => (s.imageCore l x, x.track)
  decide (at_.eraseDups.length = at_.length) &&
    xs.all fun x =>
      match s.imageCore l x with
      | none => false
      | some c =>
        let k := (s.core c).track x.track
        decide (x.pos + x.rows.length ≤ 256) && !(k.held || k.xfer || k.scrub || k.lost) && !s.trackOwned c k &&
          !(k.resid && k.tenant != l.tenant)

/-- A descriptor image passes the checks of `TDSET` (R256, R257). -/
def tensorFits (s : State) (l : Launch) (id : TensorId) (ws : List Word) : Bool :=
  let d : Desc := ⟨l.tenant, Vector.ofFn fun (i : Fin 8) => ws.getD i.val 0⟩
  let ok := d.kind == 3 || (d.check id l.level l.tenant (l.keys.toList.any fun k => d.key.within k)).isNone
  let free : Bool := match aget (s.part l.part).descs id with
    | none => true
    | some old => old.kind != 2 || (match s.pinnedEntry (s.launchCore l 0) old with | .ok b => !b | .error _ => false)
  ok && free

/-- The address of a key image, if its tag may be set (R47). -/
def keyImageAt (s : State) (l : Launch) (x : Nat × Word × Word) : Option (KeySt × Nat) :=
  let k : KCell := ⟨x.2.1, x.2.2, true, .full⟩
  if x.1 % 16 ≠ 0 ∨ k.tenant ≠ l.tenant ∨ (l.keys.toList.any fun y => k.within y) = false then none
  else match s.translate l.tenant none false x.1 true false, s.keyOf l.tenant with
    | .ok lf, some ks => some (ks, lf.pa / 8)
    | _, _ => none

def imagesFit (s : State) (l : Launch) (m : LoadImages) : Bool :=
  s.tracksFit l m.tracks && m.tensors.all (fun x => s.tensorFits l x.1 x.2) && m.keys.all (fun x => (s.keyImageAt l x).isSome)

/-- A track takes its image and is claimed for the launch (R323); its head goes to position 0, after a move that is under way (R314), and
EDGE stays (R316). -/
def placeTrack (s : State) (l : Launch) (x : TrackImage) : State :=
  match s.imageCore l x with
  | none => s
  | some c =>
    let y := s.core c
    let k := y.track x.track
    let new : Track := x.rows.zipIdx.foldl (fun k p => k.setRow (x.pos + p.2) p.1)
      { k with rows := [], bad := [], pos := 0, tag := 0, valid := true, resid := true, tenant := l.tenant, launch := l.id }
    (s.setCore c (y.setTrack x.track new)).addMove c x.track (shiftCycles k.pos)

/-- Is the head of a track that has taken an image still under way? -/
def imagesMove (s : State) (l : Launch) (m : LoadImages) : Bool :=
  m.tracks.any fun x => match s.imageCore l x with | some c => s.headMoves c x.track | none => false

/-- A descriptor image is written as `TDSET` would (R47, R257). -/
def placeTensor (s : State) (l : Launch) (id : TensorId) (ws : List Word) : State :=
  let d : Desc := ⟨l.tenant, Vector.ofFn fun (i : Fin 8) => ws.getD i.val 0⟩
  let old := match aget (s.part l.part).descs id with | some old => if old.kind = 2 then some old else none | none => none
  (s.putDesc l.part id (if d.kind = 3 then none else some d) old).s

/-- A key image takes its tag. -/
def placeKey (s : State) (l : Launch) (x : Nat × Word × Word) : State :=
  match s.keyImageAt l x with
  | none => s
  | some (ks, w) => (((s.storeW (.dev ks) w x.2.1).setTagAt (.dev ks) w true).storeW (.dev ks) (w + 1) x.2.2).setTagAt (.dev ks) (w + 1) true

/-- The images in place: data and keys before the tensors (R378); with the last update of the descriptor table, if there is one. -/
def placeImages (s : State) (l : Launch) (m : LoadImages) : State × Option Nat :=
  let s := m.tracks.foldl (fun s x => s.placeTrack l x) s
  let s := m.keys.foldl (fun s x => s.placeKey l x) s
  m.tensors.foldl (fun p x => (p.1.placeTensor l x.1 x.2, some p.1.serial)) (s, none)

/-! ### The launch -/

def setCmd (s : State) (x : Cmd) : State := { s with cmds := s.cmds.map fun y => if y.seq = x.seq then x else y }

/-- The pending-spawn entries of a launch from a place on, once every copy has the entries of its images (R47, R257) and the heads of its
tracks stand (R323); the command is complete when all are written (R86, R425). -/
def writeRest (s : State) (x : Cmd) (l : Launch) (rel : Nat) : State :=
  if (match x.upd with | some t => !s.updateOver t | none => false) || (rel == 0 && s.imagesMove l x.images) then s.setCmd { x with held := false, rest := some (l, rel) }
  else match s.writePending l rel (l.places - rel) with
  | (s, none) => s.complete x l.id.toNat
  | (s, some r) => s.setCmd { x with held := false, rest := some (l, r) }

/-- A launch is carried out, held for lack of a launch entry, or refused with no effect. -/
def carryLaunch (s : State) (x : Cmd) : State :=
  let l := s.cmdLaunch x
  match s.launchRefusal x with
  | some r => s.refuse x r
  | none =>
    if s.imagesFit l x.images = false then s.refuse x 9
    else match s.freeLaunch l.part with
      | none => s.setCmd { x with held := true }
      | some i =>
        let g : EntryId := ⟨l.part, .graph, (x.w 4).toNat⟩
        let (s, id, run) := s.allocLaunch i g l.tenant l.n (some x.seq)
        let l := { l with id := id }
        if run then
          let (s, upd) := s.placeImages l x.images
          s.writeRest { x with upd := upd } l 0
        else s.complete x id.toNat

/-- The command accepted under a number, with the opcode. -/
def cmdOf (s : State) (seq opcode : Nat) : Option Cmd := s.cmds.find? fun x => x.seq == seq && x.opcode == opcode

end State

/-- `LAUNCH_COMMAND`, with the images of its object. -/
def execLaunchCommand (seq : Nat) (images : LoadImages) (s : State) : Out :=
  .next <|
    if s.serving = false then s
    else match s.cmdOf seq 1 with
      | none => s
      | some x =>
        match x.rest with
        | some (l, rel) => s.writeRest x l rel
        | none =>
          if x.held then s
          else (s.setCmd { x with images := images }).carryLaunch { x with images := images }

/-- `HELD_LAUNCH`: the first held launch, once a launch entry is free. -/
def execHeldLaunch (s : State) : Out :=
  .next <|
    if s.serving = false then s
    else match s.cmds.find? fun x => x.held with
      | none => s
      | some x => if (s.freeLaunch (s.ctx x.ctx).part).isSome then s.carryLaunch x else s

/-! ## Cancel, level and query commands (R79, R82, R421) -/

namespace State

/-- The entry that the `LVLCTL` word of a command names. -/
def cmdEntry (s : State) (x : Cmd) : EntryId := ⟨(s.ctx x.ctx).part, lvlOfNum (bits (x.w 10) 5 4), bits (x.w 10) 19 8⟩

/-- Does a command moreover name an entry beyond its table? -/
def cmdRefusal (s : State) (x : Cmd) : Option Nat :=
  match s.wordRefusal x with
  | some r => some r
  | none => if (s.cmdEntry x).lvl.size ≤ (s.cmdEntry x).idx then some 10 else none

/-- Does a `CANCEL` name a live entry of another tenant (R84)? -/
def cancelRefusal (s : State) (x : Cmd) : Option Nat :=
  match s.cmdRefusal x with
  | some r => some r
  | none =>
    let y := s.lv (s.cmdEntry x)
    if (y.st = .opened ∨ y.st = .sealed) ∧ y.tenant ≠ (s.ctx x.ctx).tenant then some 7 else none

end State

/-- `CANCEL_COMMAND`. -/
def execCancelCommand (seq : Nat) (s : State) : Out :=
  .next <|
    if s.serving = false then s
    else match s.cmdOf seq 2 with
      | none => s
      | some x =>
        match s.cancelRefusal x with
        | some r => s.refuse x r
        | none =>
          let e := s.cmdEntry x
          let live := (s.lv e).st == .opened || (s.lv e).st == .sealed
          ((if live then s.cancelEntry e else s)).complete x e.idx

/-- `LEVEL_COMMAND`: what a write of `LVLCTL` would do. -/
def execLevelCommand (seq : Nat) (s : State) : Out :=
  .next <|
    if s.serving = false then s
    else match s.cmdOf seq 3 with
      | none => s
      | some x =>
        match s.cmdRefusal x with
        | some r => s.refuse x r
        | none =>
          let e := s.cmdEntry x
          let w := x.w 10
          let t : BitVec 9 := BitVec.ofNat 9 (bits w 40 32)
          let r : Option State :=
            match bits w 2 0 with
            | 0 => some s
            | 1 => (s.openEntry e (bits w 31 20) t).map fun s => s.setLv e { s.lv e with stamp := some x.seq }
            | 2 => s.sealEntry e
            | 3 => s.freeEntry e
            | _ => none
          match r with
          | some s => s.complete x e.idx
          | none => s.refuse x 11

/-- `QUERY_COMMAND`: no effect but its records. -/
def execQueryCommand (seq : Nat) (s : State) : Out :=
  .next <|
    if s.serving = false then s
    else match s.cmdOf seq 4 with
      | none => s
      | some x => match s.wordRefusal x with | some r => s.refuse x r | none => s.complete x 0

end Sys2Proof.Machine
end

