-- ==== Sys2Proof/Machine/EvHost.lean ====
section
/-! DEFINITION. Owners and links, the standby, TDISP interfaces, Gildoza, power and reset, and encoding faults (R40, R413, R422 to
R429). -/
namespace Sys2Proof.Machine

/-! ## Owners (R424) -/

/-- An accepted write of `OWNCTL`: command, master offered, offer pending, owner elected, owner. -/
def ownWordOf (old : Word) (cmd : Nat) (handto : Nat) (offer valid : Bool) (owner : Nat) : Word :=
  setBits (setBits (setBits (setBits (setBits old 7 6 cmd) 5 4 handto) 3 3 offer.toNat) 2 2 valid.toNat) 1 0 owner

/-- `OWNCTL_CLAIM`: while no owner is elected, or by the board controller. -/
def execOwnctlClaim (m : BitVec 2) (s : State) : Out :=
  .next <|
    if s.up = false then s
    else if bit s.ownctl 2 ∧ m ≠ 3 then s
    else { s with ownctl := ownWordOf s.ownctl 1 (bits s.ownctl 5 4) false true m.toNat }

/-- `OWNCTL_OFFER`: the owner offers ownership; an offer to itself withdraws one. -/
def execOwnctlOffer (m dest : BitVec 2) (s : State) : Out :=
  .next <|
    if s.up = false ∨ s.owner m = false then s
    else { s with ownctl := ownWordOf s.ownctl 2 dest.toNat (m != dest) true m.toNat }

/-- `OWNCTL_ACCEPT`: by the master that the pending offer names. -/
def execOwnctlAccept (m : BitVec 2) (s : State) : Out :=
  .next <|
    if s.up = false ∨ bit s.ownctl 3 = false ∨ bits s.ownctl 5 4 ≠ m.toNat then s
    else
      ({ s with ownctl := ownWordOf s.ownctl 3 m.toNat false true m.toNat } : State).notice 2

/-- `HOST_LINK_DOWN` and `HOST_LINK_UP`. -/
def execHostLinkDown (m : BitVec 2) (s : State) : Out :=
  .next (if s.down.contains m then s else { s with down := s.down ++ [m] })
def execHostLinkUp (m : BitVec 2) (s : State) : Out := .next { s with down := s.down.filter fun x => x ≠ m }

/-- `OWNER_LINK_TIMEOUT`: the owner's link has been down for 1 s. -/
def execOwnerLinkTimeout (s : State) : Out :=
  .next <|
    if bit s.ownctl 2 ∧ s.down.contains (BitVec.ofNat 2 (bits s.ownctl 1 0)) then
      { s with ownctl := setBits s.ownctl 2 2 0 }
    else s

/-! ## The standby (R425) -/

/-- `HEARTBEAT`: of an active role. Each role counts the other's heartbeats since its own last one. -/
def execHeartbeat (w : BitVec 1) (s : State) : Out :=
  .next <|
    if s.roles[w.toFin] = .failed then s
    else
      let o : Fin 2 := (1 - w).toFin
      { s with beats := (s.beats.set w.toFin 0).set o (s.beats[o] + 1) }

/-- What the failed core owed is delivered in its order, and then notice 1. -/
def State.settleOwed (s : State) : State :=
  let s' : State := { s with owed := [], taking := none }
  (s.owed.foldl (fun s o => match o with | .job e => s.jobReport e | .notice c => s.notice c) s').notice 1

/-- `TAKE_OVER`: core 2 takes the role of a core that has failed or missed two heartbeats. Of a core that has done neither, the step is its
trap at monitor level: it has failed. In the role of core 0, core 2 first closes the commands that were open and accepts the posted slots
in context order; the step, made again then, releases the held reports and notices and sends notice 1 (R425). -/
def execTakeOver (w : BitVec 1) (s : State) : Out :=
  .next <|
    if s.roles[w.toFin] = .standby then
      match s.taking with
      | some seq => if w = 0 ∧ !s.openBefore seq ∧ s.ctxs.all (fun p => p.2.posted.isEmpty) then s.settleOwed else s
      | none => s
    else if s.standby = false then s
    else if s.roles[w.toFin] = .active ∧ s.beats[w.toFin] < 2 then { s with roles := s.roles.set w.toFin .failed }
    else
      let s : State := { s with roles := s.roles.set w.toFin .standby, standby := false }
      if w = 0 then { s with taking := some s.seq } else s.notice 1

/-! ## TDISP (R426) -/

/-- `LOCK_INTERFACE_REQUEST`. -/
def execLockInterfaceRequest (c : BitVec 12) (s : State) : Out :=
  .next <|
    let x := s.ctx c
    if s.up ∧ x.tdi = .unlocked then s.setCtx c { x with tdi := .locked } else s

/-- Numbers of the configuration items: the model's own. -/
def itemMsix : Nat := 0x100
def itemHdm : Nat := 0x10000
def itemDecoder : Nat := 0x20000

/-- `GET_DEVICE_INTERFACE_REPORT`: of an interface that is locked or runs. Digest and signature are free. -/
def execGetDeviceInterfaceReport (c : BitVec 12) (s : State) : Out :=
  .next <|
    let x := s.ctx c
    if s.up ∧ (x.tdi = .locked ∨ x.tdi = .run) then
      let r : Report :=
        { range := 4096 * c.toNat
          msix := (x.items.filter fun i => itemMsix ≤ i.1 ∧ i.1 < itemMsix + 2048).map (·.2)
          tenant := x.tenant, part := x.part, digest := Config.freeWord s.fresh
          stpass := (List.range 8).map fun d => (s.die (BitVec.ofNat 3 d)).stpass
          sign := Config.freeWord (s.fresh + 1) }
      { s.setCtx c { x with report := some r } with fresh := s.fresh + 2 }
    else s

/-- `START_INTERFACE_REQUEST`. -/
def execStartInterfaceRequest (c : BitVec 12) (s : State) : Out :=
  .next <|
    let x := s.ctx c
    if s.up ∧ x.tdi = .locked then s.setCtx c { x with tdi := .run } else s

/-- `STOP_INTERFACE_REQUEST`: the only exit from ERROR. -/
def execStopInterfaceRequest (c : BitVec 12) (s : State) : Out :=
  .next (if s.up then s.setCtx c { s.ctx c with tdi := .unlocked, posted := [] } else s)

namespace State

/-- Jobs of a context that are under way. -/
def ctxJobs (s : State) (x : Ctx) : List EntryId :=
  ((List.range 16).map fun i => (⟨x.part, .job, i⟩ : EntryId)).filter fun e =>
    ((s.lv e).st == .opened || (s.lv e).st == .sealed) && (s.lv e).tenant == x.tenant

/-- A key change that runs is over. -/
def keyDone (s : State) : State :=
  match s.keyNew with
  | none => s
  | some (t, g) => { s with keyring := aset s.keyring t g, keyNew := none, krcmd := setBits s.krcmd 63 63 0 }

/-- An interface enters ERROR: doorbells are ignored, its jobs are cancelled, its tenant's key is drawn anew, notice 3 is sent. -/
def tdiError (s : State) (c : BitVec 12) : State :=
  let x := s.ctx c
  let s := s.setCtx c { x with tdi := .error, posted := [] }
  let s := (s.ctxJobs x).foldl (fun s e => s.cancelEntry e) s
  let s := s.keyDone.writeKrcmd (word (x.tenant.toNat * 2 ^ 16 + 1))
  s.notice 3

end State

/-- `FROZEN_ITEM_WRITE`: in CONFIG_LOCKED or RUN the write is not applied and the interface enters ERROR. -/
def execFrozenItemWrite (c : BitVec 12) (s : State) : Out :=
  .next <|
    let x := s.ctx c
    if s.up ∧ (x.tdi = .locked ∨ x.tdi = .run) then s.tdiError c else s

/-- What a configuration item belongs to: the function, for the BAR bases and enables (0 to 3) and the decoders of the heads; a granule of
the HDM window table; or the context. -/
inductive ItemOf
  | function
  | decoder (head : Nat)
  | granule (g : Nat)
  | context
  deriving DecidableEq, Repr, Inhabited

def itemOf (item : Nat) : ItemOf :=
  if item < 4 then .function
  else if itemHdm ≤ item ∧ item < itemHdm + 1152 then .granule (item - itemHdm)
  else if itemDecoder ≤ item ∧ item < itemDecoder + 3 then .decoder (item - itemDecoder)
  else .context

/-- Is an item of a context one that locking freezes (R426): tenant binding, root key, IDE stream, MSI-X entries? Item 7, the partition, is
not. -/
def frozenItem (item : Nat) : Bool :=
  (decide (4 ≤ item) && decide (item < 7)) || item == 8 || (decide (itemMsix ≤ item) && decide (item < itemMsix + 2048))

namespace State

/-- The interfaces, in CONFIG_LOCKED or RUN, that have an item frozen: all of them a register of the function, those of its tenant an HDM
window, and a context its own items. -/
def frozenBy (s : State) (c : BitVec 12) (item : Nat) (v : Word) : List (BitVec 12) :=
  let locked (p : BitVec 12 × Ctx) : Bool := p.2.tdi == .locked || p.2.tdi == .run
  let mine (p : BitVec 12 × Ctx) : Bool :=
    match itemOf item with
    | .function => true
    | .decoder _ => false
    | .granule g => p.2.tenant == agetD s.hdm g 0 || p.2.tenant == BitVec.ofNat 9 (bits v 8 0)
    | .context => p.1 == c && frozenItem item
  (s.ctxs.filter fun p => locked p && mine p).map (·.1)

/-- A configuration item takes a value. -/
def setItem (s : State) (c : BitVec 12) (item : Nat) (v : Word) : State :=
  let x := s.ctx c
  match itemOf item with
  | .function => { s with cfg := aset s.cfg item v }
  | .decoder h => { s with hdmBase := if p : h < 3 then s.hdmBase.set h v.toNat else s.hdmBase }
  | .granule g => { s with hdm := aset s.hdm g (BitVec.ofNat 9 (bits v 8 0)) }
  | .context =>
    match item with
    | 4 => s.setCtx c { x with tenant := BitVec.ofNat 9 (bits v 8 0) }
    | 5 => s.setCtx c { x with root := { x.root with w0 := v, tag := true } }
    | 6 => s.setCtx c { x with root := { x.root with w1 := v, tag := true } }
    | 7 => s.setCtx c { x with part := bits v 5 0 }
    | n => s.setCtx c { x with items := aset x.items n v }

end State

/-- `CONFIG_WRITE` (R426): a write of an item that an interface has frozen is not applied, and each such interface enters ERROR. An
interface in ERROR takes no item of its own. -/
def execConfigWrite (c : BitVec 12) (item : Nat) (v : Word) (s : State) : Out :=
  .next <|
    if s.up = false then s
    else match s.frozenBy c item v with
    | [] => if (s.ctx c).tdi = .error ∧ itemOf item = .context ∧ frozenItem item then s else s.setItem c item v
    | l => l.foldl (fun s d => s.tdiError d) s

/-! ## Gildoza (R363, R427) -/

namespace State

/-- The words of a remote reply, as the access takes them. -/
def fabricWords (op : Op) (l : List Word) : List Word :=
  match op with
  | .ld n sx =>
    let x := word ((l.headD 0).toNat % 2 ^ (8 * n))
    [if sx then signExt (8 * n) x else x]
  | .ldb _ len sx =>
    let x := word ((l.headD 0).toNat % 2 ^ len)
    [if sx then signExt len x else x]
  | .amo _ n _ _ => [signExt (8 * n) (word ((l.headD 0).toNat % 2 ^ (8 * n)))]
  | .lds .state => [word ((l.headD 0).toNat % 2)]
  | _ => l

/-- The end of a remote access (R427): its words, a refusal (R179), poison (R180), or a full wait list there (R201). -/
def fabricReply (s : State) (i : Nat) (l : List Word) (how : FarEnd) : State :=
  match s.req i with
  | none => s
  | some r =>
    if r.stage ≠ .fabric then s
    else
      let s : State := { s with fabricStores := s.fabricStores.filter fun p => p ≠ (r.uid, r.id) }
      match how with
      | .ok => s.finish r (.words (fabricWords r.op l) false)
      | .refused => s.failReq r (refusalTrap .refused r.tenant r.key r.va)
      | .quota => s.failReq r (refusalTrap .quota r.tenant r.key r.va)
      | .poison => s.failReq r ⟨0x14, 0, word r.va, 0⟩
      | .full => s.resendLater r

/-- What an access of another part does at its home: operation and bytes. -/
def farOp : FarOp → Op × Nat
  | .ld n => (.ld n false, n)
  | .st n v => (.st n v, n)
  | .ldb o n => (.ldb o n false, (o + n + 7) / 8)
  | .stb o n v => (.stb o n v, (o + n + 7) / 8)
  | .lds m => (.lds m, 8)
  | .sts m v => (.sts m v, 8)
  | .amo f n a b => (.amo f n a b, n)
  | .read n => (.ldv, 8 * n)
  | .write ws => (.stw ws, 8 * ws.length)
  | .kst a b t => (.kst a b t, 16)

/-- An access of another part (R427), under a number that its part has in common for all its accesses: those to the same bytes keep their
order (R205). Its faults stand in the queue of the die that the port lies on (R19). -/
def farReq (s : State) (g : BitVec 7) (src num : Nat) (t : BitVec 9) (a : Nat) (o : FarOp) : State :=
  let r : Req :=
    { id := s.serial, core := BitVec.ofNat 13 (1024 * (g.toNat / 16) + 1), slot := 0, uid := 2 ^ 64 + src, relaxed := true
      op := (farOp o).1, dst := .tok, dev := true, tenant := t, sec := false, fine := none, va := a, size := (farOp o).2
      key := 0, pc := 0, stage := .port, home := 0, pas := [], post := none, bita := none, dt := false, inj := s.serial
      retry := 0, reply := none, gate := false, far := some (g, src, num) }
  ({ s with reqs := s.reqs ++ [r] } : State).bump

/-- A word that a node of another part writes, by this part's own tables for the tenant; it waits for its page. -/
def fabricWrite (s : State) (g : BitVec 7) (t : BitVec 9) (a : Nat) (w : Word) : State :=
  match s.translate t none false (a / 8 * 8) true false, s.keyOf t with
  | .ok l, some k => (s.storeW (.dev k) (l.pa / 8) w).markDirty l.dt (l.pa / 8 * 8)
  | .fault, _ => s.farReq g 0xFFFF 0 t (a / 8 * 8) (.st 8 w)
  | .mig, _ => s.farReq g 0xFFFF 0 t (a / 8 * 8) (.st 8 w)
  | _, _ => s

/-- A member's contribution to a collective. -/
def contribute (s : State) (g rank : Nat) (l : Contrib) : State :=
  match aget s.groups g with
  | none => s
  | some x => if rank < x.members.length ∧ rank ≠ x.rank then { s with groups := aset s.groups g { x with got := aset x.got rank l } } else s

end State

/-- `GILDOZA_FLIT`: a flit that cannot be corrected is retried, with no effect. -/
def execGildozaFlit (port : BitVec 7) (_seq : Nat) (body : FabricBody) (s : State) : Out :=
  .next <|
    if s.up = false then s
    else match body with
    | .reply i l how => s.fabricReply i l how
    | .access src num t a o => s.farReq port src num t a o
    | .write t a w => s.fabricWrite port t a w
    | .contribution g k op el l => s.contribute g k ⟨op, el, l⟩
    | .corrupt => s

/-! ## Power and reset (R413, R428, R429) -/

namespace State

/-- The dies after self-test. -/
def testedDies (l : List Word) : List (BitVec 3 × Die) :=
  (List.range 8).map fun d => (BitVec.ofNat 3 d, { Die.reset with stpass := l.getD d 0 })

end State

/-- `POWER_ON`: the state of reset on the same silicon; boot status 1, or 0x81 after a bad signature. -/
def execPowerOn (sigOk : Bool) (stPass : List Word) (s : State) : Out :=
  .next { State.reset with
    turn := s.turn, fresh := s.fresh, serial := s.serial, disabled := s.disabled, stepping := s.stepping
    boot := if sigOk then 1 else 0x81
    dies := if sigOk then State.testedDies stPass else [] }

/-- `WARM_RESET`: as a power-on, but device memory, keyring and journal stay. -/
def execWarmReset (stPass : List Word) (s : State) : Out :=
  .next { State.reset with
    turn := s.turn, fresh := s.fresh, serial := s.serial, disabled := s.disabled, stepping := s.stepping
    mem := s.mem, keyring := s.keyring, journal := s.journal, seq := s.seq, boot := s.boot, off := s.off
    dies := State.testedDies stPass }

/-- `DIE_OVERTEMPERATURE`: the event is recorded, and the module powers down. -/
def execDieOvertemperature (d : BitVec 3) (s : State) : Out :=
  .next <|
    if s.off then s
    else { s.journalAdd { seq := 0, ctx := 0, slot := 0, opcode := 6, id := d.toNat, reason := 0, status := .aborted, tag := 0, closes := 0 }
           with off := true }

/-! ## Encoding faults (R40) -/

/-- `ENCODING_FAULT`: trap 0x01 of the thread that issues. A head entered by a transfer that could not read its line shows the
target, its own PC, for SUB 10 and 11 (R32, R40, log entry 93). -/
def execEncodingFault (hcount head tail sub : Nat) (s : State) : Out :=
  .next (({ s with pair := none } : State).takeTrap
    ⟨0x01, encInfo hcount head tail sub, (if sub = 10 ∨ sub = 11 then word s.th.pc else 0), 0⟩)

end Sys2Proof.Machine
end

