-- ==== Sys2Proof/Machine/EvRouting.lean ====
section
/-! DEFINITION. Steps of routing: rows sent, arrivals and refusals at a berth, the policies, returns, the deadline (R383, R384,
R387 to R392). -/
namespace Sys2Proof.Machine

/-- The first choice, in pair order, whose message is not yet built. -/
def Tide.nextUnsent (t : Tide) : Option (Nat × Nat) :=
  (t.rows.zipIdx).findSome? fun p =>
    (p.1.ch.findIdx? fun c => c.st == .unsent).map fun k => (p.2, k)

/-- A choice of a row, in a new state. -/
def TideRow.setSt (r : TideRow) (k : Nat) (st : ChoiceSt) : TideRow :=
  { r with ch := r.ch.set k { r.ch.getD k default with st := st } }

/-- Every choice of a row, changed by a rule on its state. -/
def TideRow.mapSt (r : TideRow) (f : ChoiceSt → ChoiceSt) : TideRow :=
  { r with ch := r.ch.map fun c => { c with st := f c.st } }

/-- `ROUTE_ROW_SEND` (R384, R394): the next message of an entry is built and sent. -/
def execRouteRowSend (c : CoreId) (e : BitVec 3) (s : State) : Out :=
  .next <|
    let t := s.tideAt c e
    if t.opn = false ∨ 4 ≤ s.awaiting c e t.gen then s
    else match t.nextUnsent with
      | none => s
      | some (i, k) =>
        let r := t.rows.getD i default
        let ch := r.ch.getD k default
        match s.placeCore c ch.place with
        | none => s
        | some h =>
          let token := rowToken t.place ch.berth k i t.gen e
          let row := (s.rowCell c t.src (BitVec.ofNat 5 i)).v
          let r := r.setSt k .sending
          let s := s.setTideRow c e i { r with held := r.ch.any fun x => x.st == .unsent }
          { s with
            msgs := s.msgs ++ [⟨s.serial, rowEntries t ch token row, .tide c e, h, .flight, some ⟨token, ch.w, ch.berth⟩, s.isCoupled c,
              s.serial⟩]
            serial := s.serial + 1 }

/-- The open entry, row and choice that a token names, when the choice is in a given state. -/
def State.tokenChoice (s : State) (c : CoreId) (w : Word) (st : ChoiceSt) : Option (Tide × TideRow × Choice) :=
  let t := s.tideAt c (tokEntry w)
  if t.opn ∧ t.gen = tokGen w then
    match t.rows[tokRow w]? with
    | none => none
    | some r =>
      match r.ch[tokChoice w]? with
      | none => none
      | some ch => if ch.st = st then some (t, r, ch) else none
  else none

/-- The tide entry that sent a row. -/
def Sender.tideCore : Sender → CoreId
  | .tide c _ => c
  | _ => 0

/-- `ROW_MESSAGE_ARRIVAL` (R383): refused, bounced or accepted. -/
def execRowMessageArrival (m : Nat) (s : State) : Out :=
  .next <|
    match s.msg m with
    | none => s
    | some x =>
      match x.row with
      | none => s
      | some tok =>
        if s.arrived x = false then s
        else
          let k := s.core x.core
          let tenant := (x.entries.headD default).tenant
          let refuse : State := (s.unreserve x.core m).setStage m .refused
          match aget k.berths tok.berth with
          | none => refuse
          | some b =>
            if b.tenant ≠ tenant ∨ b.cap ≤ b.count then refuse
            else if State.fits k.inbox x then
              let s := s.setCore x.core { k with berths := aset k.berths tok.berth { b with count := b.count + 1 } }
              let s := s.acceptMsg x
              let c := x.src.tideCore
              s.both c fun s =>
                match s.tokenChoice c tok.token .sending with
                | some (_, r, _) => s.setTideRow c (tokEntry tok.token) (tokRow tok.token) (r.setSt (tokChoice tok.token) .accepted)
                | none => s
            else if State.reservedFor k.inbox m = 0 then s.bounceMsg x
            else s

/-- The policy resolves a refused choice (R389). -/
def State.refuseRow (s : State) (x : Msg) (tok : RowTok) : State :=
  let c := x.src.tideCore
  let w := tok.token
  let e := tokEntry w
  let i := tokRow w
  let gone := s.dropMsg x
  match s.tokenChoice c w .sending with
  | none => gone
  | some (t, r, _) =>
    let drop : State :=
      let g := gone.setTideRow c e i (r.setSt (tokChoice w) .dropped)
      (g.setTide c e { g.tideAt c e with drop := t.drop ||| BitVec.ofNat 32 (2 ^ i) }).tideSettle c e i
    match t.policy, r.alt with
    | .pass, _ =>
      let g := gone.setTideRow c e i { r.mapSt fun _ => .passed with held := false }
      let g := g.setTide c e { g.tideAt c e with pass := t.pass ||| BitVec.ofNat 32 (2 ^ i) }
      let g := g.setRowCell c t.dst (BitVec.ofNat 5 (t.drow + i)) ⟨entriesRow x.entries, (g.tideRow c t i).f⟩
      g.tideSettle c e i
    | .next, some a =>
      match s.placeCore c a.place with
      | none => drop
      | some h =>
        let token := rowToken t.place a.berth 1 i t.gen e
        let r := r.setSt (tokChoice w) .dropped
        let g := gone.setTideRow c e i { r with ch := r.ch ++ [{ a with st := .sending }], alt := none }
        { g with
          msgs := g.msgs ++ [⟨g.serial, rowEntries t a token (entriesRow x.entries), .tide c e, h, .flight,
            some ⟨token, a.w, a.berth⟩, false, g.serial⟩]
          serial := g.serial + 1 }
    | _, _ => drop

/-- `ROW_REFUSAL` (R389). -/
def execRowRefusal (m : Nat) (s : State) : Out :=
  .next <|
    match s.msg m with
    | none => s
    | some x =>
      match x.row, x.stage with
      | some tok, .refused =>
        if s.onTime (s.msgWires x) = false then s else s.both x.src.tideCore fun s => s.refuseRow x tok
      | _, _ => s

/-- The row after one more return, and its flags (R388): lane j := RNE(w · x[j] + lane j). -/
def addReturn (w : BitVec 32) (x old : Row) : Row × Flags :=
  let rs := (List.range 32).map fun j =>
    fFma fmtS ⟨.rne, false, false⟩ .pp w.toNat (lane 32 x j) (lane 32 old j)
  (ofLanes 32 (rs.map (·.val)), lanesFlags rs)

/-- `RLATE` counts a return discarded by the core's tide table (R390, R391). -/
def State.lateReturn (s : State) (c : CoreId) : State :=
  let k := s.core c
  s.setCore c { k with rlate := if k.rlate = 0xFFFFFFFF then k.rlate else k.rlate + 1 }

/-- The tide table consumes a return. -/
def State.takeReturn (s : State) (r : RowRet) : State :=
  let c := r.target
  match s.tokenChoice c r.token .accepted with
  | none => s.lateReturn c
  | some (t, row, ch) =>
    if t.tenant ≠ r.tenant then s.lateReturn c
    else
      let e := tokEntry r.token
      let i := tokRow r.token
      let cell := s.tideRow c t i
      let (v, fl) := addReturn ch.w r.row cell.v
      let s := s.setRowCell c t.dst (BitVec.ofNat 5 (t.drow + i)) ⟨v, cell.f⟩
      let row := row.setSt (tokChoice r.token) .returned
      (s.setTideRow c e i { row with fl := row.fl ||| fl }).tideSettle c e i

/-- `ROW_RETURN` (R388, R390): the return is consumed on arrival. -/
def execRowReturn (m : Nat) (s : State) : Out :=
  .next <|
    match s.returns.find? fun r => r.id == m with
    | none => s
    | some r =>
      if r.gate ∨ s.clear r.wire = false then s
      else
        let s := ({ s with returns := s.returns.filter fun x => x.id ≠ m } : State).freeSend (.slot r.core r.slot)
        s.both r.target fun s => s.takeReturn r

/-- The deadline of an entry passes: what is unresolved is MISSING (R390). -/
def State.tideEnds (s : State) (c : CoreId) (e : BitVec 3) (t : Tide) : State :=
  let open_ (r : TideRow) : Bool := r.ch.any fun x => !x.st.resolved
  let miss := (t.rows.zipIdx.filter fun p => open_ p.1).foldl (fun a p => a ||| BitVec.ofNat 32 (2 ^ p.2)) t.missing
  let rows := t.rows.map fun r =>
    { r.mapSt fun st => if st.resolved then st else .missing with held := false }
  let s := s.setTide c e { t with rows := rows, missing := miss }
  let waiting := s.msgs.filter fun m => m.src == .tide c e &&
    (match m.row with | some r => tokGen r.token == t.gen | none => false)
  let s := waiting.foldl (fun s m => s.dropMsg m) s
  (List.range t.m).foldl (fun s i =>
    if (s.tideAt c e).opn ∧ (s.tideAt c e).gen = t.gen then s.tideSettle c e i else s) s

/-- `TIDE_DEADLINE` (R387, R390). -/
def execTideDeadline (c : CoreId) (e : BitVec 3) (s : State) : Out :=
  .next <|
    let t := s.tideAt c e
    if t.opn = false ∨ (s.core c).cycle < t.deadline then s
    else s.both c fun s =>
      let k := s.tideAt c e
      if k.opn ∧ k.gen = t.gen then s.tideEnds c e k else s

end Sys2Proof.Machine
end

