-- ==== Sys2Proof/Machine/FloatInstr.lean ====
section
/-! DEFINITION. The scalar floating-point instructions (R134 to R139, R149, R151 to R160). -/
namespace Sys2Proof.Machine

/-- An operand read in a format (R134). -/
def fpIn (p : Prec) (x : Word) : Nat := match p with | .d => x.toNat | .s => x.toNat % 2 ^ 32

/-- The outline of R151: trap 0x07 with the default result, or the result and its flags. -/
def putF (d : SReg) (r : FRes) (v : View) (s : State) : Head :=
  if v.fpTraps r.fl then .trap (s.fpTrap (word r.val) r.fl)
  else .ok ((s.setTh (s.th.setS d (word r.val))).orFlags r.fl)

/-- Two operands and a rounding. -/
def fp2 (f : Fmt → FEnv → Nat → Nat → FRes) (p : Prec) (r : Rnd) (d : SReg) (a b : Src) : State → Out :=
  plain [sN d, a.need, b.need] fun v s =>
    putF d (f (precFmt p) (v.fenv (r.mode v.th.fsr)) (fpIn p (v.s a)) (fpIn p (v.s b))) v s

def execFadd (p : Prec) (r : Rnd) (d : SReg) (a b : Src) : State → Out := fp2 fAdd p r d a b
def execFsub (p : Prec) (r : Rnd) (d : SReg) (a b : Src) : State → Out := fp2 fSub p r d a b
def execFmul (p : Prec) (r : Rnd) (d : SReg) (a b : Src) : State → Out := fp2 fMul p r d a b
def execFdiv (p : Prec) (r : Rnd) (d : SReg) (a b : Src) : State → Out := fp2 fDiv p r d a b

def execFsqrt (p : Prec) (r : Rnd) (d : SReg) (a : Src) : State → Out :=
  plain [sN d, a.need] fun v s => putF d (fSqrt (precFmt p) (v.fenv (r.mode v.th.fsr)) (fpIn p (v.s a))) v s

def execFma (f : FmaF) (p : Prec) (r : Rnd) (d : SReg) (a b c : Src) : State → Out :=
  plain [sN d, a.need, b.need, c.need] fun v s =>
    putF d (fFma (precFmt p) (v.fenv (r.mode v.th.fsr)) f (fpIn p (v.s a)) (fpIn p (v.s b)) (fpIn p (v.s c))) v s

def execFminmax (f : MinMaxF) (p : Prec) (d : SReg) (a b : Src) : State → Out :=
  plain [sN d, a.need, b.need] fun v s => putF d (fMinMax (precFmt p) f (fpIn p (v.s a)) (fpIn p (v.s b))) v s

/-- R156: a trapped NV leaves the condition register as it was, and reports the condition. -/
def execFcmp (f : FCmpF) (p : Prec) (d : BitVec 3) (a b : Src) : State → Out :=
  plain [a.need, b.need] fun v s =>
    let (c, fl) := fCompare (precFmt p) f (fpIn p (v.s a)) (fpIn p (v.s b))
    if v.fpTraps fl then .trap (s.fpTrap (if c then 1 else 0) fl)
    else .ok ((s.setTh (s.th.setC d c)).orFlags fl)

/-- R157: the result as a register value. -/
def fcvtRes (k : CvtK) (p : Prec) (env : FEnv) (x : Word) : FRes :=
  let f := precFmt p
  let a := fpIn p x
  match k with
  | .ff => match p with
    | .d => fToF fmtD fmtS env a
    | .s => fToF fmtS fmtD env a
  | .toI64 => fToInt f env.mode true 64 a
  | .toU64 => fToInt f env.mode false 64 a
  | .toI32 => let r := fToInt f env.mode true 32 a; ⟨wrapN 64 (sxN 32 r.val), r.fl⟩
  | .toU32 => fToInt f env.mode false 32 a
  | .ofI64 => intToF f env x.toInt
  | .ofU64 => intToF f env x.toNat

def execFcvt (k : CvtK) (p : Prec) (r : Rnd) (d : SReg) (a : Src) : State → Out :=
  plain [sN d, a.need] fun v s => putF d (fcvtRes k p (v.fenv (r.mode v.th.fsr)) (v.s a)) v s

def execFclass (p : Prec) (d : SReg) (a : Src) : State → Out :=
  plain [sN d, a.need] fun v s => putS d (word (fClassify (precFmt p) (fpIn p (v.s a)))) s

def execFsgn (f : SgnF) (p : Prec) (d : SReg) (a b : Src) : State → Out :=
  plain [sN d, a.need, b.need] fun v s =>
    putS d (word (fSign (precFmt p) f (fpIn p (v.s a)) (fpIn p (v.s b)))) s

def execFrint (x : Bool) (p : Prec) (r : Rnd) (d : SReg) (a : Src) : State → Out :=
  plain [sN d, a.need] fun v s => putF d (fRint (precFmt p) (r.mode v.th.fsr) x (fpIn p (v.s a))) v s

end Sys2Proof.Machine
end

