-- ==== Sys2Proof/Machine/Dispatch.lean ====
section
/-! DEFINITION. One arm per instruction and step: its meaning. -/
namespace Sys2Proof.Machine

/-- The meaning of an instruction or step. -/
def exec (i : Instr) (s : State) : Host.Outcome State Fault Refusal :=
  match i with
  | .nop d hints => Sys2Proof.Machine.execNop d hints s
  | .br t => Sys2Proof.Machine.execBr t s
  | .bc n c t => Sys2Proof.Machine.execBc n c t s
  | .jmp x => Sys2Proof.Machine.execJmp x s
  | .callw t => Sys2Proof.Machine.execCallw t s
  | .callwx x => Sys2Proof.Machine.execCallwx x s
  | .retw => Sys2Proof.Machine.execRetw s
  | .loop cnt e => Sys2Proof.Machine.execLoop cnt e s
  | .loopImm cnt e => Sys2Proof.Machine.execLoopImm cnt e s
  | .park c => Sys2Proof.Machine.execPark c s
  | .yield => Sys2Proof.Machine.execYield s
  | .halt => Sys2Proof.Machine.execHalt s
  | .trap n => Sys2Proof.Machine.execTrap n s
  | .eret => Sys2Proof.Machine.execEret s
  | .xret => Sys2Proof.Machine.execXret s
  | .csrr d n => Sys2Proof.Machine.execCsrr d n s
  | .csrw x n => Sys2Proof.Machine.execCsrw x n s
  | .add f d a b => Sys2Proof.Machine.execAdd f d a b s
  | .sub f d a b => Sys2Proof.Machine.execSub f d a b s
  | .addi f d a imm => Sys2Proof.Machine.execAddi f d a imm s
  | .mul d a b => Sys2Proof.Machine.execMul d a b s
  | .mulh f d a b => Sys2Proof.Machine.execMulh f d a b s
  | .div u d a b => Sys2Proof.Machine.execDiv u d a b s
  | .rem u d a b => Sys2Proof.Machine.execRem u d a b s
  | .and d a b => Sys2Proof.Machine.execAnd d a b s
  | .or d a b => Sys2Proof.Machine.execOr d a b s
  | .xor d a b => Sys2Proof.Machine.execXor d a b s
  | .andn d a b => Sys2Proof.Machine.execAndn d a b s
  | .shl d a m => Sys2Proof.Machine.execShl d a m s
  | .shr d a m => Sys2Proof.Machine.execShr d a m s
  | .sar d a m => Sys2Proof.Machine.execSar d a m s
  | .rotr d a m => Sys2Proof.Machine.execRotr d a m s
  | .min u d a b => Sys2Proof.Machine.execMin u d a b s
  | .max u d a b => Sys2Proof.Machine.execMax u d a b s
  | .cmp r d a b => Sys2Proof.Machine.execCmp r d a b s
  | .cmpi r d a imm => Sys2Proof.Machine.execCmpi r d a imm s
  | .sel d a b c => Sys2Proof.Machine.execSel d a b c s
  | .li d imm => Sys2Proof.Machine.execLi d imm s
  | .lih pos d a imm => Sys2Proof.Machine.execLih pos d a imm s
  | .clz trail d a => Sys2Proof.Machine.execClz trail d a s
  | .popc d a => Sys2Proof.Machine.execPopc d a s
  | .bfx sgn d a pos len => Sys2Proof.Machine.execBfx sgn d a pos len s
  | .bfi d a b pos len => Sys2Proof.Machine.execBfi d a b pos len s
  | .clmul hi d a b => Sys2Proof.Machine.execClmul hi d a b s
  | .movc d => Sys2Proof.Machine.execMovc d s
  | .movcWr a => Sys2Proof.Machine.execMovcWr a s
  | .pair d a => Sys2Proof.Machine.execPair d a s
  | .pairOff d a => Sys2Proof.Machine.execPairOff d a s
  | .pairSt d a => Sys2Proof.Machine.execPairSt d a s
  | .harvest d a b => Sys2Proof.Machine.execHarvest d a b s
  | .xlw k a b => Sys2Proof.Machine.execXlw k a b s
  | .fadd p r d a b => Sys2Proof.Machine.execFadd p r d a b s
  | .fsub p r d a b => Sys2Proof.Machine.execFsub p r d a b s
  | .fmul p r d a b => Sys2Proof.Machine.execFmul p r d a b s
  | .fdiv p r d a b => Sys2Proof.Machine.execFdiv p r d a b s
  | .fsqrt p r d a => Sys2Proof.Machine.execFsqrt p r d a s
  | .fma f p r d a b c => Sys2Proof.Machine.execFma f p r d a b c s
  | .fminmax f p d a b => Sys2Proof.Machine.execFminmax f p d a b s
  | .fcmp f p d a b => Sys2Proof.Machine.execFcmp f p d a b s
  | .fcvt k p r d a => Sys2Proof.Machine.execFcvt k p r d a s
  | .fclass p d a => Sys2Proof.Machine.execFclass p d a s
  | .fsgn f p d a b => Sys2Proof.Machine.execFsgn f p d a b s
  | .frint x p r d a => Sys2Proof.Machine.execFrint x p r d a s
  | .tdset t k x => Sys2Proof.Machine.execTdset t k x s
  | .tdget d t x => Sys2Proof.Machine.execTdget d t x s
  | .tdgetVer d t => Sys2Proof.Machine.execTdgetVer d t s
  | .taskCopy d x a b go => Sys2Proof.Machine.execTaskCopy d x a b go s
  | .taskGather d t x a b go => Sys2Proof.Machine.execTaskGather d t x a b go s
  | .taskScatter d t x a b go => Sys2Proof.Machine.execTaskScatter d t x a b go s
  | .taskScatterAdd d t x a b go => Sys2Proof.Machine.execTaskScatterAdd d t x a b go s
  | .taskReduce d x a b go => Sys2Proof.Machine.execTaskReduce d x a b go s
  | .taskCollective d x a b go => Sys2Proof.Machine.execTaskCollective d x a b go s
  | .taskMigratePage d x a b go => Sys2Proof.Machine.execTaskMigratePage d x a b go s
  | .tdep a b => Sys2Proof.Machine.execTdep a b s
  | .tdepGo a => Sys2Proof.Machine.execTdepGo a s
  | .ld z sx rlx d m => Sys2Proof.Machine.execLd z sx rlx d m s
  | .ldIndexed z sx rlx d m => Sys2Proof.Machine.execLdIndexed z sx rlx d m s
  | .ldPostinc z sx rlx d m => Sys2Proof.Machine.execLdPostinc z sx rlx d m s
  | .st z rlx d m => Sys2Proof.Machine.execSt z rlx d m s
  | .stIndexed z rlx d m => Sys2Proof.Machine.execStIndexed z rlx d m s
  | .stPostinc z rlx d m => Sys2Proof.Machine.execStPostinc z rlx d m s
  | .ldb sx d m => Sys2Proof.Machine.execLdb sx d m s
  | .stb d m => Sys2Proof.Machine.execStb d m s
  | .lds f d m => Sys2Proof.Machine.execLds f d m s
  | .ldsIndexed f d m => Sys2Proof.Machine.execLdsIndexed f d m s
  | .sts f d m => Sys2Proof.Machine.execSts f d m s
  | .stsIndexed f d m => Sys2Proof.Machine.execStsIndexed f d m s
  | .amo f wide d m a b => Sys2Proof.Machine.execAmo f wide d m a b s
  | .fence sc => Sys2Proof.Machine.execFence sc s
  | .ldv rlx v m => Sys2Proof.Machine.execLdv rlx v m s
  | .ldvIndexed rlx v m => Sys2Proof.Machine.execLdvIndexed rlx v m s
  | .stv rlx v m => Sys2Proof.Machine.execStv rlx v m s
  | .stvIndexed rlx v m => Sys2Proof.Machine.execStvIndexed rlx v m s
  | .kld k m => Sys2Proof.Machine.execKld k m s
  | .kldIndexed k m => Sys2Proof.Machine.execKldIndexed k m s
  | .kst k m => Sys2Proof.Machine.execKst k m s
  | .kstIndexed k m => Sys2Proof.Machine.execKstIndexed k m s
  | .knarrow d k off len mask => Sys2Proof.Machine.execKnarrow d k off len mask s
  | .kinfo f d k => Sys2Proof.Machine.execKinfo f d k s
  | .spliceIns d t x k b => Sys2Proof.Machine.execSpliceIns d t x k b s
  | .spliceRem d t x => Sys2Proof.Machine.execSpliceRem d t x s
  | .spliceRep d t x k b => Sys2Proof.Machine.execSpliceRep d t x k b s
  | .spin d t => Sys2Proof.Machine.execSpin d t s
  | .spinUn t x => Sys2Proof.Machine.execSpinUn t x s
  | .send p n a b => Sys2Proof.Machine.execSend p n a b s
  | .recv d => Sys2Proof.Machine.execRecv d s
  | .nsend d p => Sys2Proof.Machine.execNsend d p s
  | .nrecv d p => Sys2Proof.Machine.execNrecv d p s
  | .spawn d spread cnt rng args q e => Sys2Proof.Machine.execSpawn d spread cnt rng args q e s
  | .cancel l a => Sys2Proof.Machine.execCancel l a s
  | .join l a => Sys2Proof.Machine.execJoin l a s
  | .migr d => Sys2Proof.Machine.execMigr d s
  | .hclm d t => Sys2Proof.Machine.execHclm d t s
  | .hclmAny d => Sys2Proof.Machine.execHclmAny d s
  | .hrel t => Sys2Proof.Machine.execHrel t s
  | .hseek t p => Sys2Proof.Machine.execHseek t p s
  | .hseekReg t x => Sys2Proof.Machine.execHseekReg t x s
  | .hrds t v nb step => Sys2Proof.Machine.execHrds t v nb step s
  | .hwrs t v step => Sys2Proof.Machine.execHwrs t v step s
  | .hrwd t => Sys2Proof.Machine.execHrwd t s
  | .hrwdR t => Sys2Proof.Machine.execHrwdR t s
  | .hpos d t => Sys2Proof.Machine.execHpos d t s
  | .hfill t v step a => Sys2Proof.Machine.execHfill t v step a s
  | .rret d v => Sys2Proof.Machine.execRret d v s
  | .rtbl a b => Sys2Proof.Machine.execRtbl a b s
  | .rtblRm a => Sys2Proof.Machine.execRtblRm a s
  | .abind t ty => Sys2Proof.Machine.execAbind t ty s
  | .abindOff => Sys2Proof.Machine.execAbindOff s
  | .asave t m => Sys2Proof.Machine.execAsave t m s
  | .asaveIndexed t m => Sys2Proof.Machine.execAsaveIndexed t m s
  | .aload t m => Sys2Proof.Machine.execAload t m s
  | .aloadIndexed t m => Sys2Proof.Machine.execAloadIndexed t m s
  | .azero t first count => Sys2Proof.Machine.execAzero t first count s
  | .mcfg a => Sys2Proof.Machine.execMcfg a s
  | .mldw tr src t x => Sys2Proof.Machine.execMldw tr src t x s
  | .mswap => Sys2Proof.Machine.execMswap s
  | .mma ow src d t x => Sys2Proof.Machine.execMma ow src d t x s
  | .vadd sc d a b => Sys2Proof.Machine.execVadd sc d a b s
  | .vaddTv2 sc d a b m => Sys2Proof.Machine.execVaddTv2 sc d a b m s
  | .vsub sc d a b => Sys2Proof.Machine.execVsub sc d a b s
  | .vsubTv2 sc d a b m => Sys2Proof.Machine.execVsubTv2 sc d a b m s
  | .vmul sc d a b => Sys2Proof.Machine.execVmul sc d a b s
  | .vmulTv2 sc d a b m => Sys2Proof.Machine.execVmulTv2 sc d a b m s
  | .vfma f d a b c m => Sys2Proof.Machine.execVfma f d a b c m s
  | .vminmax f d a b => Sys2Proof.Machine.execVminmax f d a b s
  | .vminmaxTv2 f d a b m => Sys2Proof.Machine.execVminmaxTv2 f d a b m s
  | .vcmp r d a b => Sys2Proof.Machine.execVcmp r d a b s
  | .vcmpTv2 r d a b m => Sys2Proof.Machine.execVcmpTv2 r d a b m s
  | .vsel d a b c m => Sys2Proof.Machine.execVsel d a b c m s
  | .vcvt src d a => Sys2Proof.Machine.execVcvt src d a s
  | .vcvtTv2 src d a p m => Sys2Proof.Machine.execVcvtTv2 src d a p m s
  | .vred f d a => Sys2Proof.Machine.execVred f d a s
  | .vredTv2 f d a m => Sys2Proof.Machine.execVredTv2 f d a m s
  | .vbcst d a => Sys2Proof.Machine.execVbcst d a s
  | .vbcstLane d a b => Sys2Proof.Machine.execVbcstLane d a b s
  | .vperm z d a b => Sys2Proof.Machine.execVperm z d a b s
  | .vpermTv2 z d a b m => Sys2Proof.Machine.execVpermTv2 z d a b m s
  | .vsfu f d a => Sys2Proof.Machine.execVsfu f d a s
  | .vsfuTv2 f d a m => Sys2Proof.Machine.execVsfuTv2 f d a m s
  | .vlogic f d a b => Sys2Proof.Machine.execVlogic f d a b s
  | .vlogicTv2 f d a b m => Sys2Proof.Machine.execVlogicTv2 f d a b m s
  | .vdq d t x => Sys2Proof.Machine.execVdq d t x s
  | .vlane d a b => Sys2Proof.Machine.execVlane d a b s
  | .vlaneImm d a lane => Sys2Proof.Machine.execVlaneImm d a lane s
  | .route pol top2 t a b c f32 => Sys2Proof.Machine.execRoute pol top2 t a b c f32 s
  | .dcvt bf d a => Sys2Proof.Machine.execDcvt bf d a s
  | .dcvtToRow bf d v => Sys2Proof.Machine.execDcvtToRow bf d v s
  | .ddot sc d a b => Sys2Proof.Machine.execDdot sc d a b s
  | .dadd sb d a b => Sys2Proof.Machine.execDadd sb d a b s
  | .dscl neg d a b => Sys2Proof.Machine.execDscl neg d a b s
  | .spillStep c => Sys2Proof.Machine.execSpillStep c s
  | .slotGrant c => Sys2Proof.Machine.execSlotGrant c s
  | .contextWritten c x => Sys2Proof.Machine.execContextWritten c x s
  | .drainingComplete c x => Sys2Proof.Machine.execDrainingComplete c x s
  | .threadWake c x => Sys2Proof.Machine.execThreadWake c x s
  | .breakwaterEvaluation c tempC powerMw hottest => Sys2Proof.Machine.execBreakwaterEvaluation c tempC powerMw hottest s
  | .thermalRankingRewrite p ranking => Sys2Proof.Machine.execThermalRankingRewrite p ranking s
  | .clusterPortTranslation r => Sys2Proof.Machine.execClusterPortTranslation r s
  | .pageTableWalk r => Sys2Proof.Machine.execPageTableWalk r s
  | .pageRequestEntry die => Sys2Proof.Machine.execPageRequestEntry die s
  | .pageFaultService die idx ans => Sys2Proof.Machine.execPageFaultService die idx ans s
  | .perform r => Sys2Proof.Machine.execPerform r s
  | .syncRetry r => Sys2Proof.Machine.execSyncRetry r s
  | .accessReply r => Sys2Proof.Machine.execAccessReply r s
  | .fenceProbe r => Sys2Proof.Machine.execFenceProbe r s
  | .probeEcho r => Sys2Proof.Machine.execProbeEcho r s
  | .fetchAddCombine r1 r2 => Sys2Proof.Machine.execFetchAddCombine r1 r2 s
  | .combinedReplySplit r => Sys2Proof.Machine.execCombinedReplySplit r s
  | .messageAcceptance m => Sys2Proof.Machine.execMessageAcceptance m s
  | .bounceReturn m => Sys2Proof.Machine.execBounceReturn m s
  | .retryNotice m => Sys2Proof.Machine.execRetryNotice m s
  | .bounceRetransmit m => Sys2Proof.Machine.execBounceRetransmit m s
  | .neighbourWordArrival m => Sys2Proof.Machine.execNeighbourWordArrival m s
  | .reservationRequest m => Sys2Proof.Machine.execReservationRequest m s
  | .reservationGrant m => Sys2Proof.Machine.execReservationGrant m s
  | .reservationResend m => Sys2Proof.Machine.execReservationResend m s
  | .migrationPacketArrival m => Sys2Proof.Machine.execMigrationPacketArrival m s
  | .windowStackRelease m => Sys2Proof.Machine.execWindowStackRelease m s
  | .nodeDispatch cl n => Sys2Proof.Machine.execNodeDispatch cl n s
  | .chunkStaging cl n => Sys2Proof.Machine.execChunkStaging cl n s
  | .chunkCommit cl n => Sys2Proof.Machine.execChunkCommit cl n s
  | .nodeDrainEnd cl n => Sys2Proof.Machine.execNodeDrainEnd cl n s
  | .descriptorUpdateApply cl => Sys2Proof.Machine.execDescriptorUpdateApply cl s
  | .berthTableUpdateApply cl => Sys2Proof.Machine.execBerthTableUpdateApply cl s
  | .mcfgRetire c => Sys2Proof.Machine.execMcfgRetire c s
  | .mldwStart c => Sys2Proof.Machine.execMldwStart c s
  | .mldwComplete c => Sys2Proof.Machine.execMldwComplete c s
  | .mswapExecute c => Sys2Proof.Machine.execMswapExecute c s
  | .mmaStart c => Sys2Proof.Machine.execMmaStart c s
  | .mmaRowFill c => Sys2Proof.Machine.execMmaRowFill c s
  | .vsfuStart c => Sys2Proof.Machine.execVsfuStart c s
  | .vsfuResult c x => Sys2Proof.Machine.execVsfuResult c x s
  | .vdqFill c x => Sys2Proof.Machine.execVdqFill c x s
  | .directionalFill c x => Sys2Proof.Machine.execDirectionalFill c x s
  | .shiftMoveStart c => Sys2Proof.Machine.execShiftMoveStart c s
  | .shiftMoveEnd c t => Sys2Proof.Machine.execShiftMoveEnd c t s
  | .scrubComplete c t => Sys2Proof.Machine.execScrubComplete c t s
  | .recalibrationEnd c t => Sys2Proof.Machine.execRecalibrationEnd c t s
  | .routeRowSend c e => Sys2Proof.Machine.execRouteRowSend c e s
  | .rowMessageArrival m => Sys2Proof.Machine.execRowMessageArrival m s
  | .rowRefusal m => Sys2Proof.Machine.execRowRefusal m s
  | .rowReturn m => Sys2Proof.Machine.execRowReturn m s
  | .tideDeadline c e => Sys2Proof.Machine.execTideDeadline c e s
  | .lvlctlSelect x => Sys2Proof.Machine.execLvlctlSelect x s
  | .lvlctlOpen x => Sys2Proof.Machine.execLvlctlOpen x s
  | .lvlctlSeal x => Sys2Proof.Machine.execLvlctlSeal x s
  | .lvlctlFree x => Sys2Proof.Machine.execLvlctlFree x s
  | .wspWrite x => Sys2Proof.Machine.execWspWrite x s
  | .fsrWrite x => Sys2Proof.Machine.execFsrWrite x s
  | .aownWrite t x => Sys2Proof.Machine.execAownWrite t x s
  | .mownWrite x => Sys2Proof.Machine.execMownWrite x s
  | .hownWrite t x => Sys2Proof.Machine.execHownWrite t x s
  | .hownScrub t x => Sys2Proof.Machine.execHownScrub t x s
  | .qownWrite x => Sys2Proof.Machine.execQownWrite x s
  | .threadSuspension c x => Sys2Proof.Machine.execThreadSuspension c x s
  | .suspbWrite x => Sys2Proof.Machine.execSuspbWrite x s
  | .worldWrite x => Sys2Proof.Machine.execWorldWrite x s
  | .keyringDraw t => Sys2Proof.Machine.execKeyringDraw t s
  | .keyringDiscard t => Sys2Proof.Machine.execKeyringDiscard t s
  | .keyringChangeDone => Sys2Proof.Machine.execKeyringChangeDone s
  | .pairCheckpoint x agree => Sys2Proof.Machine.execPairCheckpoint x agree s
  | .eccUncorrectableError site => Sys2Proof.Machine.execEccUncorrectableError site s
  | .lvrRecord => Sys2Proof.Machine.execLvrRecord s
  | .lvrReplay => Sys2Proof.Machine.execLvrReplay s
  | .translationInvalidate t base len => Sys2Proof.Machine.execTranslationInvalidate t base len s
  | .translationInvalidateDone => Sys2Proof.Machine.execTranslationInvalidateDone s
  | .dirtyMapTrack frame => Sys2Proof.Machine.execDirtyMapTrack frame s
  | .dirtyMapRelease frame => Sys2Proof.Machine.execDirtyMapRelease frame s
  | .placeTableWrite p place v => Sys2Proof.Machine.execPlaceTableWrite p place v s
  | .partitionTableWrite p base len => Sys2Proof.Machine.execPartitionTableWrite p base len s
  | .controlWindowWrite master off v => Sys2Proof.Machine.execControlWindowWrite master off v s
  | .cxlMemWrite addr data => Sys2Proof.Machine.execCxlMemWrite addr data s
  | .cxlMemRead addr => Sys2Proof.Machine.execCxlMemRead addr s
  | .doorbell master ctx slot => Sys2Proof.Machine.execDoorbell master ctx slot s
  | .commandAcceptance ctx slot => Sys2Proof.Machine.execCommandAcceptance ctx slot s
  | .launchCommand seq images => Sys2Proof.Machine.execLaunchCommand seq images s
  | .cancelCommand seq => Sys2Proof.Machine.execCancelCommand seq s
  | .levelCommand seq => Sys2Proof.Machine.execLevelCommand seq s
  | .queryCommand seq => Sys2Proof.Machine.execQueryCommand seq s
  | .heldLaunch => Sys2Proof.Machine.execHeldLaunch s
  | .ownctlClaim m => Sys2Proof.Machine.execOwnctlClaim m s
  | .ownctlOffer m dest => Sys2Proof.Machine.execOwnctlOffer m dest s
  | .ownctlAccept m => Sys2Proof.Machine.execOwnctlAccept m s
  | .ownerLinkTimeout => Sys2Proof.Machine.execOwnerLinkTimeout s
  | .heartbeat w => Sys2Proof.Machine.execHeartbeat w s
  | .takeOver w => Sys2Proof.Machine.execTakeOver w s
  | .lockInterfaceRequest ctx => Sys2Proof.Machine.execLockInterfaceRequest ctx s
  | .getDeviceInterfaceReport ctx => Sys2Proof.Machine.execGetDeviceInterfaceReport ctx s
  | .startInterfaceRequest ctx => Sys2Proof.Machine.execStartInterfaceRequest ctx s
  | .stopInterfaceRequest ctx => Sys2Proof.Machine.execStopInterfaceRequest ctx s
  | .frozenItemWrite ctx => Sys2Proof.Machine.execFrozenItemWrite ctx s
  | .gildozaFlit port seq body => Sys2Proof.Machine.execGildozaFlit port seq body s
  | .powerOn sigOk stPass => Sys2Proof.Machine.execPowerOn sigOk stPass s
  | .warmReset stPass => Sys2Proof.Machine.execWarmReset stPass s
  | .dieOvertemperature die => Sys2Proof.Machine.execDieOvertemperature die s
  | .encodingFault hcount head tail sub => Sys2Proof.Machine.execEncodingFault hcount head tail sub s
  | .commandSlotWrite master ctx slot data => Sys2Proof.Machine.execCommandSlotWrite master ctx slot data s
  | .hostLinkDown m => Sys2Proof.Machine.execHostLinkDown m s
  | .hostLinkUp m => Sys2Proof.Machine.execHostLinkUp m s
  | .configWrite ctx item v => Sys2Proof.Machine.execConfigWrite ctx item v s

end Sys2Proof.Machine
end

