-- ==== Sys2Proof/Machine/Issue.lean ====
section
/-! DEFINITION. A core's cycle: what its units do in it, the line of the thread that issues, and the bundle (R27, R31, R62, R70, R73 to
R75, R90, R106, R165, R183, R263, R314, R401, R406, R410). -/
namespace Sys2Proof.Machine

/-! ## Bundles whose other head's access performs (R31) -/

namespace State

/-- Slots whose outstanding access has been answered while the bundle's other head is still held. -/
def answered (s : State) : List (CoreId × SlotId) :=
  s.cores.flatMap fun p => ((List.finRange 16).filter fun n =>
    let x := p.2.slots[n]
    x.held.isSome && (x.wait == .answered ||
      s.reqs.any fun r => r.uid == x.th.uid && r.ordinary && r.stage == .reply &&
        (match r.reply with | some (.words ..) => true | _ => false))).map fun n => (p.1, n)

/-- A bundle whose held head transfers control, waits or leaves its slot ends with its access, whose words are delivered at once. -/
def endHeld (s : State) (e : (CoreId × SlotId) × Nat × Note) : State :=
  let ((c, n), uid, note) := e
  let s := match s.reqs.find? fun r => r.uid == uid && r.ordinary && r.stage == .reply with
    | some r =>
      match r.reply with
      | some (.words l tag) => ((s.dropReq r.id).recordReply r (.words l tag)).deliverWords r l tag
      | _ => s
    | none => s
  let s := (s.setSlot c n { s.slotAt c n with held := none }).at_ c n
  match note with
  | .jump t m => (s.transfer t m).wake c n
  | .wait w => (s.advance s.cur.hcount s.cur.width).reparkAt c n w
  | _ => s.setHere { s.here with retired := s.here.retired + 1 }

end State

/-- A step in which accesses of bundles perform whose other head is held: those heads take effect first, so that each bundle takes
effect whole; a bundle whose held head does not take effect ends without its access (R31). `s0` stood before the step, in `s`
the heads named in `ends` have taken effect. -/
def runHeld (ex : Instr → State → Out) (step : State → Out) (s0 : State) :
    Nat → List ((CoreId × SlotId) × Nat × Note) → State → Out
  | 0, ends, s =>
    match step s with
    | .next t => .next (ends.foldl State.endHeld t)
    | o => o
  | fuel + 1, ends, s =>
    match step s with
    | .next t =>
      match t.answered.find? fun p => !(ends.any fun e => e.1 == p) with
      | none => .next (ends.foldl State.endHeld t)
      | some (c, n) =>
        match (s.slotAt c n).held with
        | none => .next t
        | some h =>
          match heldHead ex s c n h with
          | .off _ => (match heldHead ex s0 c n h with | .off u => .next u | .acts u _ => .next u)
          | .acts u .ok => runHeld ex step s0 fuel ends (u.setSlot c n { u.slotAt c n with held := none })
          | .acts u note => runHeld ex step s0 fuel (((c, n), (s.slotAt c n).th.uid, note) :: ends) u
    | o => o

/-- The meaning of a step of an agent, with the held heads whose access performs in it. -/
def runStep (ex : Instr → State → Out) (i : Instr) (s : State) : Out := runHeld ex (ex i) s (s.reqs.length + 1) [] s

/-- The meaning of a step, run to its next state; one that stops changes nothing. -/
def runEv (ex : Instr → State → Out) (s : State) (i : Instr) : State :=
  match runStep ex i s with
  | .next t => t
  | _ => s

namespace State

/-! ## The units of a core in one cycle -/

/-- Steps of the tracks (R314, R315, R320, R339). -/
def trackEvs (x : Core) (c : CoreId) : List Instr :=
  (x.tracks.filter fun p => x.moveOver p.1).map (fun p =>
    match p.2.after with
    | .zeroing => .scrubComplete c p.1
    | .recal .. => .recalibrationEnd c p.1
    | _ => .shiftMoveEnd c p.1) ++ x.shiftq.map fun _ => .shiftMoveStart c

/-- Steps of the array, the special-function unit and the directional unit (R261 to R263, R278, R304). -/
def unitEvs (x : Core) (c : CoreId) : List Instr :=
  (if x.arrayq.isEmpty then [] else [.mmaRowFill c, .mldwComplete c, .mcfgRetire c, .mswapExecute c, .mldwStart c, .mmaStart c]) ++
  (List.range x.sfuRun.length).reverse.map (.vsfuResult c) ++
  (if x.sfuq.isEmpty && x.sfuSusp.isEmpty then [] else [.vsfuStart c]) ++
  (List.range x.dirs.length).reverse.map (.directionalFill c)

/-- Slots whose context is written (R67), and the tide entries that are open (R389). -/
def slotEvs (x : Core) (c : CoreId) : List Instr :=
  ((List.finRange 16).filter fun n => x.slots[n].st == .loading).map (.contextWritten c) ++
  ((List.range 8).filter fun e => (x.tide.toList.getD e Tide.free).opn).map fun e => .tideDeadline c (BitVec.ofNat 3 e)

/-- The arbiter (R89) and the breakwater (R90), whose temperature and power are free. -/
def boundaryEvs (s : State) (c : CoreId) : List Instr :=
  let x := s.core c
  (if s.grantDue c then [.slotGrant c] else []) ++
  (if x.cycle % 4096 = 0 ∧ x.cycle ≠ x.bwLast then
    [.breakwaterEvaluation c (Config.pick s.fresh) (Config.pick (s.fresh + 1)) (Config.pick (s.fresh + 2) % 2 == 1)] else [])

/-- A parked thread whose event has reached the core is READY within 2 cycles (R73). -/
def wakeSlot (ex : Instr → State → Out) (s : State) (c : CoreId) (n : SlotId) : State :=
  let x := s.slotAt c n
  let soon := Config.pick (s.fresh + 4 + n.val) % 2 == 0
  if x.st ≠ .parked ∧ x.st ≠ .heldParked then s
  else if s.wakeLate c n then runEv ex s (.threadWake c n)
  else if s.wakeable c n = false then s
  else
    let s := if x.seen.isNone then s.setSlot c n { x with seen := some (s.core c).cycle } else s
    if soon && s.wakeTurn c n then runEv ex s (.threadWake c n) else s

/-- Slots of a core in the order in which their threads parked. -/
def parkOrder (x : Core) : List SlotId :=
  (List.finRange 16).foldr (fun n l =>
    let (a, b) := l.span fun m => decide (x.slots[m].parkSeq < x.slots[n].parkSeq)
    a ++ n :: b) []

/-- Messages and neighbour words that a replay takes from its records (R415). -/
def replayArrival (s : State) (c : CoreId) : State :=
  let k := s.core c
  let mine (r : LvrRec) : Bool := r.core == c && (r.kind == 2 || r.kind == 3 || r.kind == 5) && r.count == k.retired
  if s.recording c true = false then s
  else match takeFirst mine s.lvr with
    | none => s
    | some (r, rest) =>
      if r.kind = 3 then
        let p : Fin 4 := Fin.ofNat 4 r.slot.val
        ({ s with lvr := rest } : State).setCore c { k with ports := k.ports.set p (k.ports[p] ++ [r.val.headD 0]) }
      else
        let l := (s.lvr.filter mine).take 4
        let tn := match k.slots.toList.find? fun x => x.st != .free && x.st != .disabled with | some x => x.th.tenant | none => 0
        ({ s with lvr := l.foldl (fun l x => l.erase x) s.lvr } : State).setCore c
          { k with inbox := { k.inbox with entries := k.inbox.entries ++ [⟨l.flatMap (·.val), tn, false, none, []⟩] } }

/-- Everything that a core's units do in its cycle, before a bundle issues. -/
def tick (ex : Instr → State → Out) (s : State) (c : CoreId) : State :=
  let x := s.core c
  let s := (trackEvs x c ++ unitEvs x c).foldl (runEv ex) s
  let s := (slotEvs x c ++ s.boundaryEvs c).foldl (runEv ex) (if x.arrayq.isEmpty then s else s.arrayReads c)
  let s := (s.replayArrival c).sfuRejoin c
  (parkOrder (s.core c)).foldl (fun s n => s.wakeSlot ex c n) s

/-! ## The line and the bundle -/

/-- A line joins the instruction cache of 512 lines (R17). Which line leaves when one comes in, and whether one leaves while there is room,
is free (log entry 10). -/
def cacheLine (s : State) (c : CoreId) (tn : BitVec 9) (a : Nat) (l : List Half) : State :=
  let x := s.core c
  if (aget x.icache (tn, a)).isSome then s
  else
    let i := Config.pick (s.fresh + 22)
    let kept := if x.icache.length < 512 ∧ i % 2 = 0 then x.icache else x.icache.eraseIdx (i / 2 % x.icache.length)
    s.setCore c { x with icache := aset kept (tn, a) l }

/-- An instruction cache reads a line ahead. Instruction fetch and stores are not ordered until an invalidation (R183, R211, R431), so a
line may have been read at any time before its heads issue: the thread and the line are free. -/
def prefetch (s : State) (c : CoreId) : State :=
  let n : SlotId := Fin.ofNat 16 (Config.pick (s.fresh + 23))
  let a := Config.pick (s.fresh + 24) * 64
  let x := s.slotAt c n
  match s.lineAt c x a with
  | .ok l => s.cacheLine c (x.th.k[(0 : Fin 8)]).tenant a l
  | _ => s

/-- A line fetched for the issuing thread: its halfwords, a trap, or a page to wait for (R165, R175, R183). -/
def fetchAt (s : State) (a : Nat) : Except State (State × List Half) :=
  match s.lineAt s.cur.core s.me a with
  | .ok l =>
    let s := s.setTh { s.th with line := some (a, l) }
    .ok (s.cacheLine s.cur.core (s.th.k[(0 : Fin 8)]).tenant a l, l)
  | .trap t => .error (s.takeTrap t)
  | .page tn true => .error (s.park (.mig tn a true))
  | .page tn false => .error ((s.threadFault tn a false true).park (.page tn a))

/-- The line of the issuing thread's next head: in its fetch buffer, or fetched. -/
def fetch (s : State) : Except State (State × List Half) :=
  let a := s.th.pc / 64 * 64
  match s.th.line with
  | some (b, l) => if b = a then .ok (s, l) else s.fetchAt a
  | none => s.fetchAt a

/-- The bundle at the thread's PC runs: one instruction, two, or an encoding fault. -/
def runBundle (ex : Instr → State → Out) (s : State) (l : List Half) : Out :=
  let base := s.th.pc / 64 * 64
  let idx := s.th.pc / 2 % 32
  let at_ (w : Nat) : State := { s with cur := ⟨s.cur.core, s.cur.slot, lineCount l, w⟩, pair := none }
  match decodeBundle l base idx with
  | .error f => execEncodingFault (lineCount l) f.head f.tail f.sub (at_ 1)
  | .ok (.one i) => ex i (at_ 1)
  | .ok (.two i j) => .next (runPair ex i j (arrayClass (lineHalf l idx)) (at_ 2))

/-- Instructions of a bundle. -/
def bundleInstrs (l : List Half) (pc : Nat) : List Instr :=
  match decodeBundle l (pc / 64 * 64) (pc / 2 % 32) with
  | .ok (.one i) => [i]
  | .ok (.two i j) => [i, j]
  | .error _ => []

/-- What stops the issue of a bundle on a coupled pair (R410): its interval must end first. -/
def pairStops (s : State) (c : CoreId) (l : List Half) : Bool :=
  match aget s.pairs (pairOf c) with
  | none => false
  | some p =>
    p.due || decide (p.base + 4096 ≤ (s.core c).retired) || decide (512 ≤ s.gatedCount c + s.loggedCount c) ||
      ((bundleInstrs l s.th.pc).any endsInterval && !(decide ((s.core c).retired = p.base) && s.gatedCount c == 0))

/-- The interval of a pair is to end now. -/
def pairDue (s : State) (c : CoreId) : State :=
  match aget s.pairs (pairOf c) with
  | none => s
  | some p => { s with pairs := aset s.pairs (pairOf c) { p with due := true } }

/-- A slot issues (R70): its `last` and `key` are this cycle. -/
def issueAt (ex : Instr → State → Out) (s : State) (c : CoreId) (n : SlotId) : Out :=
  let s0 : State := { s with cur := ⟨c, n, 0, 1⟩, pair := none }
  let y := s0.me
  let s1 := s0.setMe { y with last := some s0.now, key := s0.now }
  match s1.fetch with
  | .error t => .next t
  | .ok (t, l) =>
    if t.pairStops c l then .next (s.pairDue c)
    else
      let ends := s.isCoupled c && (bundleInstrs l t.th.pc).any endsInterval
      match t.runBundle ex l with
      | .next u => .next (if ends then u.pairDue c else u)
      | o => o

/-- Does a core run code: it lies in a partition, or its cluster replays (R401, R415)? -/
def runs (s : State) (c : CoreId) : Bool := (s.partOf c).isSome || s.recording c true

/-- The cycle ends (R66). -/
def endCycle (s : State) (c : CoreId) : State := s.setCore c { s.core c with cycle := (s.core c).cycle + 1 }

/-- One cycle of a core: its units, then a bundle of the thread that R70 picks, or a spill step. -/
def cycle (ex : Instr → State → Out) (s : State) (c : CoreId) : Out :=
  let s := s.tick ex c
  let o : Out :=
    match (if s.runs c then s.issueSlot c else none) with
    | some n => if s.suspendNow c n then .next (runEv ex s (.threadSuspension c n)) else s.issueAt ex c n
    | none => .next (runEv ex s (.spillStep c))
  match o with
  | .next t => .next (t.endCycle c)
  | o => o

end State

end Sys2Proof.Machine
end

