-- ==== Sys2Proof/Machine/Schedule.lean ====
section
/-! DEFINITION. Whose move is next where the state names none: the moves of the cores and of every agent that has something to do
(R76, R204, R213, R432), and the placing of an instruction where the machine fetches. -/
namespace Sys2Proof.Machine
namespace State

/-! ## Moves that the state has ready -/

/-- The next step of an access (R188). -/
def reqMove (r : Req) : List Instr :=
  match r.stage with
  | .rows => [.clusterPortTranslation r.id]
  | .port => [.clusterPortTranslation r.id]
  | .miss => [.clusterPortTranslation r.id]
  | .walk => [.pageTableWalk r.id]
  | .home => [.perform r.id, .accessReply r.id]
  | .backoff _ => [.syncRetry r.id]
  | .combined .. => [.combinedReplySplit r.id]
  | .reply => [.accessReply r.id]
  | _ => []

/-- The next step of a message (R218, R383). -/
def msgMove (m : Msg) : List Instr :=
  match m.stage with
  | .flight => [if m.row.isSome then .rowMessageArrival m.id else .messageAcceptance m.id]
  | .again => [if m.row.isSome then .rowMessageArrival m.id else .messageAcceptance m.id]
  | .bounced _ => [.bounceReturn m.id]
  | .notice => [.retryNotice m.id]
  | .backoff _ => [.bounceRetransmit m.id]
  | .refused => [.rowRefusal m.id]
  | .recorded => []

/-- The next step of a reservation (R229). -/
def resvMove (r : Resv) : Instr :=
  match r.stage with
  | .granted => .reservationGrant r.id
  | .backoff _ => .reservationResend r.id
  | _ => .reservationRequest r.id

/-- Pairs of fetch-adds that may combine (R215). -/
def combineMoves (s : State) : List Instr :=
  let l := s.reqs.filter fun r => (fetchAdd r).isSome
  l.flatMap fun p => l.filterMap fun q => if p.id ≠ q.id then some (.fetchAddCombine p.id q.id) else none

/-- What a core leaves to other agents: drains, dequantisations, rows to send. -/
def coreMoves (p : CoreId × Core) : List Instr :=
  (((List.finRange 16).filter fun n => p.2.slots[n].st == .draining).map fun n => .drainingComplete p.1 n) ++
  ((List.range p.2.vdqs.length).map fun i => .vdqFill p.1 i) ++
  (((List.range 8).filter fun e => (p.2.tide.toList.getD e Tide.free).opn).map fun e => .routeRowSend p.1 (BitVec.ofNat 3 e))

/-- The next steps of a cluster's nodes. -/
def clusterMoves (p : BitVec 9 × Cluster) : List Instr :=
  (p.2.nodes.flatMap fun n =>
    match n.2.st with
    | .ready => [.nodeDispatch p.1 n.1]
    | .running => [.chunkStaging p.1 n.1, .chunkCommit p.1 n.1]
    | .draining => [.nodeDrainEnd p.1 n.1]
    | _ => [])

/-- The next steps of a table copy. -/
def copyMoves (p : (Nat × BitVec 9) × TableCopy) : List Instr :=
  (if p.2.descq.isEmpty then [] else [.descriptorUpdateApply p.1.2]) ++
  (if p.2.berthq.isEmpty then [] else [.berthTableUpdateApply p.1.2])

/-- Every step that something in the state has ready. -/
def readyEvs (s : State) : List Instr :=
  s.reqs.flatMap reqMove ++ s.combineMoves ++ (s.drains.map fun d => .perform d.id) ++ s.msgs.flatMap msgMove ++
  (s.returns.map fun r => .rowReturn r.id) ++ (s.words.map fun w => .neighbourWordArrival w.id) ++ s.resvs.map resvMove ++
  (s.packets.map fun p => .migrationPacketArrival p.id) ++ (s.releases.map fun r => .windowStackRelease r.id) ++
  (s.probes.map fun p => if p.echo then .probeEcho p.id else .fenceProbe p.id) ++ s.cores.flatMap coreMoves ++
  s.clusters.flatMap clusterMoves ++ s.copies.flatMap copyMoves ++
  (s.dies.filterMap fun d => if d.2.held.isEmpty then none else some (.pageRequestEntry d.1)) ++
  (if s.keyNew.isSome then [.keyringChangeDone] else []) ++ s.pairs.map fun p => .pairCheckpoint p.1 true

/-- Commands that Waliasal has at hand, and the end of an invalidation. -/
def waliasalMoves (s : State) : List (State → Out) :=
  (s.ctxs.flatMap fun p => p.2.posted.map fun k => execCommandAcceptance p.1 k) ++
  (s.cmds.map fun x =>
    match x.opcode with
    | 1 => if x.held then execHeldLaunch else execLaunchCommand x.seq x.images
    | 2 => execCancelCommand x.seq
    | 3 => execLevelCommand x.seq
    | _ => execQueryCommand x.seq) ++
  (if s.inval.isSome then [execTranslationInvalidateDone] else [])

/-! ## A move -/

/-- A move: a cycle of a core, or a step of another agent. -/
def move (ex : Instr → State → Out) (m : Move) (s : State) : Out :=
  match m with
  | .core c => s.cycle ex c
  | .ev i => runStep ex i s

/-- One of the moves that are ready, by a free choice. -/
def pickMove (ex : Instr → State → Out) (s : State) : Out :=
  let l : List (State → Out) :=
    (s.cores.map fun p => move ex (.core p.1)) ++ (s.cores.map fun p s => .next (s.prefetch p.1)) ++ (s.readyEvs.map fun i => move ex (.ev i)) ++ s.waliasalMoves
  match l[Config.pick (s.fresh + 31) % l.length]? with
  | none => .next s
  | some f => f { s with fresh := s.fresh + 32 }

/-- The next move: the first one named, or a free one. Without power nothing moves but a power-on (R429). -/
def advanceMove (ex : Instr → State → Out) (s : State) : Out :=
  match s.turn with
  | [] => if s.off then .fault .poweredDown else s.pickMove ex
  | m :: r =>
    let t : State := { s with turn := r, fresh := s.fresh + 32 }
    match m with
    | .ev i => if s.off && (match i with | .powerOn .. => false | _ => true) then .fault .poweredDown else t.move ex (.ev i)
    | .core c => if s.off then .fault .poweredDown else t.move ex (.core c)

/-! ## An instruction placed where the machine fetches (log entry 3) -/

/-- The thread that runs a line at address 0: a code key over the line, PC at its first head. -/
def lineThread (uid : Nat) : Thread :=
  { Thread.empty with
    uid := uid, pc := 2
    k := Thread.empty.k.set 0 ⟨0x10000000000000 * 4, 64, true, .full⟩ }

/-- The line stands in the instruction cache of core 0, whose slot 0 holds a READY thread at its first head; the core is the one place
of partition 0, and its cycle is next. -/
def placeLine (s : State) (l : List Half) : State :=
  let x := s.core 0
  let t := lineThread s.serial
  let s := s.setCore 0 { x with
    slots := x.slots.set 0 { Slot.free with st := .ready, th := t, wait := .answered }
    icache := aset x.icache (0, 0) l }
  let s := s.setPart 0 { s.part 0 with base := hilbertOf 0, len := 1, places := [0], ranking := [0] }
  { s with turn := [.core 0], off := false, serial := s.serial + 1 }

end State

end Sys2Proof.Machine
end

