-- ==== Sys2Proof/Machine/Step.lean ====
section
/-! DEFINITION. One step of the machine: the next move. -/
namespace Sys2Proof.Machine

def step (s : State) : Host.Outcome State Fault Refusal := s.advanceMove exec

/-- `s` with the instruction whose opcode-table bits are `w` placed where the next step fetches. -/
def State.withFetchWord (s : State) (nbits w : Nat) : State :=
  s.placeLine (lineOf (tableHead nbits w :: tableTails nbits w))

end Sys2Proof.Machine
end

