-- ==== Sys2Proof/Safety.lean ====
section
/-! DEFINITION. What counts as a safe run: no step of it stops, and device memory keeps its canonical form. -/
namespace Sys2Proof.Safety
open Machine

/-- The state after a number of steps, if none of them stopped. -/
def after : Nat → State → Option State
  | 0, s => some s
  | n + 1, s =>
    match step s with
    | .next t => after n t
    | _ => none

/-- A run of `n` steps that never stops and ends with device memory and every local store in canonical form. -/
def Safe (n : Nat) (s : State) : Prop :=
  ∃ t, after n s = some t ∧ t.mem.wf = true ∧ ∀ p ∈ t.cores, p.2.ls.wf = true

end Sys2Proof.Safety
end

