-- ==== Sys2Proof/WellFormed.lean ====
section
/-! DEFINITION. Which instructions have an encoding: the limits of R31, R37, R38, R54, R58, R59 and of the entries that
the types of Syntax.lean do not already state. -/
namespace Sys2Proof

/-- At most three hint halfwords (R98). -/
def wfHints (hs : List Half) : Bool := hs.length ≤ 3

/-- Position and length of a bit field (R54). -/
def wfField (pos : BitVec 6) (len : BitVec 7) : Bool := 1 ≤ len.toNat && pos.toNat + len.toNat ≤ 64

/-- Sign-extension only below 64 bits (R35). -/
def wfSx (z : Size) (sx : Bool) : Bool := !sx || z != .b64

/-- A source that must be absent. -/
def wfNone (b : Src) : Bool := b == ⟨0, false⟩

/-- TV2 modifiers of a row that rounds when `rounds t`, under an override (R37, R59). -/
def wfMods (rounds : ETy → Bool) (m : Mods) : Bool :=
  match m.ovr with
  | none => true
  | some t => (ovrCode (some t)).isSome && (typeFault t true (rounds t) m.sat (some m.rnd) 2).isNone

/-- TV2 modifiers of a row that does not round, under an override that the F code must suit (R37, R59). `satOk`: the entry
has `.sat` (R39). -/
def wfModsQ (satOk : Bool) (fOk : ETy → Bool) (m : ModsQ) : Bool :=
  (satOk || !m.sat) && match m.ovr with
  | none => true
  | some t => (ovrCode (some t)).isSome && (typeFault t (fOk t) false m.sat none 2).isNone

def Instr.wf : Instr → Bool
  | .nop _ hs => wfHints hs
  | .bfx _ _ _ pos len => wfField pos len
  | .bfi _ _ _ pos len => wfField pos len
  | .ld z sx _ _ _ => wfSx z sx
  | .ldIndexed z sx _ _ _ => wfSx z sx
  | .ldPostinc z sx _ d m => wfSx z sx && d != m.x.reg
  | .amo f _ _ _ _ b => f == .cas || wfNone b
  | .send _ n a _ => if n = 0 then wfNone a else a.reg.toNat + n.toNat ≤ 32
  | .recv d => d.toNat ≤ 24
  | .spawn _ _ _ _ a _ _ => a.reg.toNat ≤ 28
  | .hrds _ _ _ s => stepOk s
  | .hwrs _ _ s => stepOk s
  | .hfill _ _ s _ => stepOk s
  | .azero _ f c => 1 ≤ c.toNat && f.toNat + c.toNat ≤ 32
  | .vaddTv2 _ _ _ _ m | .vsubTv2 _ _ _ _ m | .vmulTv2 _ _ _ _ m => wfMods ETy.isFloat m
  | .vfma _ _ _ _ _ m => wfMods ETy.isFloat m
  | .vminmaxTv2 f _ _ _ m => wfModsQ false f.okFor m
  | .vcmpTv2 r _ _ _ m => wfModsQ false r.okFor m
  | .vsel _ _ _ _ m => wfModsQ false (fun _ => true) m
  | .vcvtTv2 s _ _ p m =>
    !(s.isFloat && (m.rnd == 5 || m.rnd == 6)) && wfMods (fun t => s.isFloat || t.isFloat) m &&
      (match m.ovr with | some t => partOk s t p.toNat | none => true)
  | .vredTv2 f _ _ m => wfModsQ true f.okFor m
  | .vpermTv2 _ _ _ _ m => wfModsQ false (fun _ => true) m
  | .vsfuTv2 _ _ _ m => wfModsQ false ETy.isFloat m
  | .vlogic f _ _ b => f != .not || wfNone b
  | .vlogicTv2 f _ _ b m => (f != .not || wfNone b) && wfModsQ false f.okFor m
  | .route p t2 _ _ _ _ _ => !(p == .next && t2)
  | _ => true

end Sys2Proof
end

