-- ==== Sys2Proof/Certificates/Slice0/Obligations.lean ====
section
/-! DEFINITION. What this row states about the machine, for the provers. The first part names the conditions and the results
that several statements share; each is written from the rules of spec/ with plain arithmetic, not with the meaning it is
about, wherever the rule gives a formula. -/
namespace Sys2Proof.Claims
open Sys2Proof Sys2Proof.Machine

/-! ## Words that the statements share -/

/-- Every register of the list is full (R34): nothing to wait for, no deferred fault, no row of another thread. -/
def Full (s : State) (ns : List Need) : Prop := ∀ n ∈ ns, s.refSt s.view n.ref = .full

/-- The bundle is one head, every register it names is full, and no hardware loop goes back at its end (R112). -/
structure Ready (s : State) (ns : List Need) : Prop where
  single : s.pair = none
  full   : Full s ns
  noLoop : (loopStep s.th s.cur.width).2.2 = none

/-- The bundle has completed (R29, R112): the next PC, the loop counts, the count of bundles, nothing else. -/
def done (s : State) : State := s.advance s.cur.hcount s.cur.width

/-- `S(r)` of a source field. -/
abbrev val (s : State) (a : Src) : Word := s.th.sv a.reg

/-- A bundle that writes `w` to the scalar register `d` (a write to `s0` is discarded, R38), and nothing else. -/
def wrote (s : State) (d : SReg) (w : Word) : State := done (s.setTh (s.th.setS d w))

/-- Registers of `d := A op B`. -/
def need2 (d : SReg) (a b : Src) : List Need := [sN d, a.need, b.need]
/-- Registers of `d := op A`. -/
def need1 (d : SReg) (a : Src) : List Need := [sN d, a.need]

/-- A number clamped to an interval. -/
def clamp (lo hi x : Int) : Int := max lo (min hi x)

/-- R127: the relation of a compare. -/
def holds (r : Rel) (x y : Word) : Bool :=
  match r with
  | .eq => x == y
  | .ne => x != y
  | .lt => x.slt y
  | .ge => y.sle x
  | .ltu => x.ult y
  | .geu => y.ule x
  | .tst => x &&& y != 0

/-- The amount of a shift (R125). -/
def amount (s : State) : ShAmt → Nat
  | .reg b => (val s b).toNat % 64
  | .imm n => n.toNat

/-- R131: the bits pos to pos + len − 1. -/
def fieldMask (pos : BitVec 6) (len : BitVec 7) : Word := ((1#128 <<< len.toNat) - 1#128).setWidth 64 <<< pos.toNat

/-- Bit k of the carry-less product (R132). -/
def clmulBit (x y : Word) (k : Nat) : Bool :=
  (List.range 64).foldl (fun p i => p != (x.getLsbD i && decide (i ≤ k) && y.getLsbD (k - i))) false

/-! ## Encodings written out by their fields -/

/-- Head with opcode, tail count and D; P is 0 (R28). -/
def head (op : BitVec 7) (tl : BitVec 2) (d : BitVec 6) : HeadW := ⟨op, tl, false, d⟩

/-- Tails that begin with TR(A,B) of function `f` (R33), and with TR(A): B and WB zero (R38). -/
def tailsAB (a b : Src) (f : BitVec 4) (t2 t3 : Half) : Tails := ⟨packTR ⟨a.reg, b.reg, a.wait, b.wait, f⟩, t2, t3⟩
def tailsA (a : Src) (f : BitVec 4) (t2 t3 : Half) : Tails := ⟨packTR ⟨a.reg, 0, a.wait, false, f⟩, t2, t3⟩

end Sys2Proof.Claims

open Sys2Proof Sys2Proof.Machine Sys2Proof.Claims

/-! ## Integer instructions -/

/-- `ADD`, `SUB` and `ADDI` (R121) write the wrapped, clamped or 32-bit result and change nothing else. -/
def Sys2Proof.Claims.AddSubWriteTheirResult : Prop := ∀ (s : State) (d : SReg) (a b : Src) (imm : Half),
  (Ready s (need2 d a b) →
    exec (.add .wrap d a b) s = .next (wrote s d (val s a + val s b)) ∧
    exec (.add .satS d a b) s = .next (wrote s d (BitVec.ofInt 64
      (clamp (-2 ^ (63 : Nat)) (2 ^ (63 : Nat) - 1) ((val s a).toInt + (val s b).toInt)))) ∧
    exec (.add .satU d a b) s = .next (wrote s d (BitVec.ofNat 64 (min (2 ^ (64 : Nat) - 1) ((val s a).toNat + (val s b).toNat)))) ∧
    exec (.add .word d a b) s =
      .next (wrote s d (((val s a).setWidth 32 + (val s b).setWidth 32 : BitVec 32).signExtend 64)) ∧
    exec (.sub .wrap d a b) s = .next (wrote s d (val s a - val s b)) ∧
    exec (.sub .satS d a b) s = .next (wrote s d (BitVec.ofInt 64
      (clamp (-2 ^ (63 : Nat)) (2 ^ (63 : Nat) - 1) ((val s a).toInt - (val s b).toInt)))) ∧
    exec (.sub .satU d a b) s = .next (wrote s d (BitVec.ofNat 64 ((val s a).toNat - (val s b).toNat))) ∧
    exec (.sub .word d a b) s =
      .next (wrote s d (((val s a).setWidth 32 - (val s b).setWidth 32 : BitVec 32).signExtend 64))) ∧
  (Ready s (need1 d a) →
    exec (.addi .wrap d a imm) s = .next (wrote s d (val s a + imm.signExtend 64)) ∧
    exec (.addi .satS d a imm) s = .next (wrote s d (BitVec.ofInt 64
      (clamp (-2 ^ (63 : Nat)) (2 ^ (63 : Nat) - 1) ((val s a).toInt + imm.toInt)))) ∧
    exec (.addi .satU d a imm) s = .next (wrote s d (BitVec.ofInt 64
      (clamp 0 (2 ^ (64 : Nat) - 1) ((val s a).toNat + imm.toInt)))) ∧
    exec (.addi .word d a imm) s =
      .next (wrote s d (((val s a).setWidth 32 + imm.signExtend 32 : BitVec 32).signExtend 64)))

/-- `MUL`, `MULH`, `DIV` and `REM` (R122, R123), the corners of division included. -/
def Sys2Proof.Claims.MulDivWriteTheirResult : Prop := ∀ (s : State) (d : SReg) (a b : Src), Ready s (need2 d a b) →
  exec (.mul d a b) s = .next (wrote s d (BitVec.ofInt 64 ((val s a).toInt * (val s b).toInt))) ∧
  BitVec.ofInt 64 ((val s a).toInt * (val s b).toInt) = BitVec.ofNat 64 ((val s a).toNat * (val s b).toNat) ∧
  exec (.mulh .ss d a b) s =
    .next (wrote s d (((val s a).signExtend 128 * (val s b).signExtend 128).extractLsb' 64 64)) ∧
  exec (.mulh .uu d a b) s =
    .next (wrote s d (((val s a).setWidth 128 * (val s b).setWidth 128).extractLsb' 64 64)) ∧
  exec (.mulh .su d a b) s =
    .next (wrote s d (((val s a).signExtend 128 * (val s b).setWidth 128).extractLsb' 64 64)) ∧
  exec (.div false d a b) s = .next (wrote s d (if val s b = 0 then -1 else (val s a).sdiv (val s b))) ∧
  exec (.div true d a b) s = .next (wrote s d (if val s b = 0 then -1 else val s a / val s b)) ∧
  exec (.rem false d a b) s = .next (wrote s d (if val s b = 0 then val s a else (val s a).srem (val s b))) ∧
  exec (.rem true d a b) s = .next (wrote s d (if val s b = 0 then val s a else val s a % val s b))

/-- The encodings of the integer arithmetic (R121–R123), and SUB 1 for every function code that is not theirs. -/
def Sys2Proof.Claims.ArithmeticIsEncoded : Prop :=
  (∀ (d : SReg) (a b : Src) (t2 t3 : Half) (imm : Half),
    let D := d.setWidth 6
    (∀ x ∈ ([(0, .wrap), (1, .satS), (2, .satU), (4, .word)] : List (BitVec 4 × AddF)),
      decodeHead (head 0x10 1 D) (tailsAB a b x.1 t2 t3) = .ok (.add x.2 d a b) ∧
      decodeHead (head 0x11 1 D) (tailsAB a b x.1 t2 t3) = .ok (.sub x.2 d a b) ∧
      decodeHead (head 0x12 2 D) (tailsA a x.1 imm t3) = .ok (.addi x.2 d a imm)) ∧
    decodeHead (head 0x13 1 D) (tailsAB a b 0 t2 t3) = .ok (.mul d a b) ∧
    (∀ x ∈ ([(0, .ss), (1, .uu), (2, .su)] : List (BitVec 4 × MulhF)),
      decodeHead (head 0x14 1 D) (tailsAB a b x.1 t2 t3) = .ok (.mulh x.2 d a b)) ∧
    (∀ u : Bool, let f : BitVec 4 := if u then 1 else 0
      decodeHead (head 0x15 1 D) (tailsAB a b f t2 t3) = .ok (.div u d a b) ∧
      decodeHead (head 0x16 1 D) (tailsAB a b f t2 t3) = .ok (.rem u d a b))) ∧
  (∀ (op : BitVec 7) (tl : BitVec 2) (e : BitVec 6) (a b : Src) (f : BitVec 4) (t2 t3 : Half),
    ((op = 0x10 ∨ op = 0x11 ∨ op = 0x12) ∧ (f = 3 ∨ 5 ≤ f.toNat)) ∨ (op = 0x13 ∧ f ≠ 0) ∨ (op = 0x14 ∧ 3 ≤ f.toNat) ∨
      ((op = 0x15 ∨ op = 0x16) ∧ 2 ≤ f.toNat) →
    decodeHead (head op tl e) (tailsAB a b f t2 t3) = .error ⟨1, 1⟩)

/-- The integer arithmetic (R121–R123): sums, differences, products, quotients and remainders, with every clamp, corner and
function code; the low half of the product is that of both readings of the sources. -/
def Obligations.IntegerArithmeticWritesItsResult : Prop :=
  Sys2Proof.Claims.AddSubWriteTheirResult ∧ Sys2Proof.Claims.MulDivWriteTheirResult ∧ Sys2Proof.Claims.ArithmeticIsEncoded


/-- The bitwise instructions (R124): their results, and SUB 1 for any other function code. -/
def Sys2Proof.Claims.BitwiseWriteTheirResult : Prop :=
  (∀ (s : State) (d : SReg) (a b : Src), Ready s (need2 d a b) →
    exec (.and d a b) s = .next (wrote s d (val s a &&& val s b)) ∧
    exec (.or d a b) s = .next (wrote s d (val s a ||| val s b)) ∧
    exec (.xor d a b) s = .next (wrote s d (val s a ^^^ val s b)) ∧
    exec (.andn d a b) s = .next (wrote s d (val s a &&& ~~~val s b))) ∧
  (∀ (op : BitVec 7) (tl : BitVec 2) (d : BitVec 6) (a b : BitVec 5) (wa wb : Bool) (f : BitVec 4) (t2 t3 : Half),
    op = 0x17 ∨ op = 0x18 ∨ op = 0x19 ∨ op = 0x1A → f ≠ 0 →
    decodeHead (head op tl d) ⟨packTR ⟨a, b, wa, wb, f⟩, t2, t3⟩ = .error ⟨1, 1⟩) ∧
  (∀ (d : SReg) (a b : Src) (t2 t3 : Half),
    let w : Tails := ⟨packTR ⟨a.reg, b.reg, a.wait, b.wait, 0⟩, t2, t3⟩
    decodeHead (head 0x17 1 (d.setWidth 6)) w = .ok (.and d a b) ∧ decodeHead (head 0x18 1 (d.setWidth 6)) w = .ok (.or d a b) ∧
    decodeHead (head 0x19 1 (d.setWidth 6)) w = .ok (.xor d a b) ∧ decodeHead (head 0x1A 1 (d.setWidth 6)) w = .ok (.andn d a b))

/-- The shifts and the rotation (R125): the amounts of F 0, 1 and 2, the results, and the codes that are refused. -/
def Sys2Proof.Claims.ShiftsWriteTheirResult : Prop :=
  (∀ (s : State) (d : SReg) (a : Src) (m : ShAmt), Ready s ([sN d, a.need] ++ m.needs) →
    exec (.shl d a m) s = .next (wrote s d (val s a <<< amount s m)) ∧
    exec (.shr d a m) s = .next (wrote s d (val s a >>> amount s m)) ∧
    exec (.sar d a m) s = .next (wrote s d ((val s a).sshiftRight (amount s m))) ∧
    exec (.rotr d a m) s = .next (wrote s d ((val s a).rotateRight (amount s m)))) ∧
  (∀ x ∈ ([(0x1B, Instr.shl), (0x1C, Instr.shr), (0x1D, Instr.sar), (0x1E, Instr.rotr)] :
      List (BitVec 7 × (SReg → Src → ShAmt → Instr))),
    ∀ (tl : BitVec 2) (e : BitVec 6) (d : SReg) (a b : Src) (f : BitVec 4) (t2 t3 : Half),
    let w : Tails := ⟨packTR ⟨a.reg, b.reg, a.wait, b.wait, f⟩, t2, t3⟩
    (f = 0 → decodeHead (head x.1 1 (d.setWidth 6)) w = .ok (x.2 d a (.reg b))) ∧
    (f = 1 → b.wait = false → decodeHead (head x.1 1 (d.setWidth 6)) w = .ok (x.2 d a (.imm (b.reg.setWidth 6)))) ∧
    (f = 2 → b.wait = false → decodeHead (head x.1 1 (d.setWidth 6)) w = .ok (x.2 d a (.imm (b.reg.setWidth 6 + 32)))) ∧
    (f = 1 ∨ f = 2 → b.wait = true → decodeHead (head x.1 1 (d.setWidth 6)) w = .error ⟨5, 1⟩) ∧
    (3 ≤ f.toNat → decodeHead (head x.1 tl e) w = .error ⟨1, 1⟩))

/-- The bitwise instructions and the shifts (R124, R125). -/
def Obligations.BitwiseAndShiftsWriteTheirResult : Prop :=
  Sys2Proof.Claims.BitwiseWriteTheirResult ∧ Sys2Proof.Claims.ShiftsWriteTheirResult


/-- `MIN` and `MAX` (R126): the lesser or greater, signed or unsigned, and SUB 1 for any other function code. -/
def Sys2Proof.Claims.MinMaxWriteTheirResult : Prop :=
  (∀ (s : State) (d : SReg) (a b : Src), Ready s (need2 d a b) →
    exec (.min false d a b) s = .next (wrote s d (if (val s b).slt (val s a) then val s b else val s a)) ∧
    exec (.max false d a b) s = .next (wrote s d (if (val s a).slt (val s b) then val s b else val s a)) ∧
    exec (.min true d a b) s = .next (wrote s d (if (val s b).ult (val s a) then val s b else val s a)) ∧
    exec (.max true d a b) s = .next (wrote s d (if (val s a).ult (val s b) then val s b else val s a))) ∧
  (∀ (op : BitVec 7) (tl : BitVec 2) (d : BitVec 6) (a b : BitVec 5) (wa wb : Bool) (f : BitVec 4) (t2 t3 : Half),
    op = 0x1F ∨ op = 0x20 → 2 ≤ f.toNat →
    decodeHead (head op tl d) ⟨packTR ⟨a, b, wa, wb, f⟩, t2, t3⟩ = .error ⟨1, 1⟩) ∧
  (∀ (u : Bool) (d : SReg) (a b : Src) (t2 t3 : Half),
    let w : Tails := ⟨packTR ⟨a.reg, b.reg, a.wait, b.wait, if u then 1 else 0⟩, t2, t3⟩
    decodeHead (head 0x1F 1 (d.setWidth 6)) w = .ok (.min u d a b) ∧ decodeHead (head 0x20 1 (d.setWidth 6)) w = .ok (.max u d a b))

/-- The encodings of the compares (R127), of `SEL` (R128) and of `MOVC` (R133), and the codes that are refused. -/
def Sys2Proof.Claims.ConditionFormsAreEncoded : Prop :=
  (∀ (d : SReg) (c : BitVec 3) (n : BitVec 4) (a b : Src) (t2 t3 : Half) (imm : Half),
    (∀ x ∈ ([(0, .eq), (1, .ne), (2, .lt), (3, .ge), (4, .ltu), (5, .geu), (6, .tst)] : List (BitVec 4 × Rel)),
      decodeHead (head 0x21 1 (c.setWidth 6)) (tailsAB a b x.1 t2 t3) = .ok (.cmp x.2 c a b) ∧
      decodeHead (head 0x22 2 (c.setWidth 6)) (tailsA a x.1 imm t3) = .ok (.cmpi x.2 c a imm) ∧
      ∀ e : BitVec 6, 8 ≤ e.toNat → decodeHead (head 0x21 1 e) (tailsAB a b x.1 t2 t3) = .error ⟨5, 0⟩ ∧
        decodeHead (head 0x22 2 e) (tailsA a x.1 imm t3) = .error ⟨5, 0⟩) ∧
    decodeHead (head 0x23 1 (d.setWidth 6)) (tailsAB a b n t2 t3) = .ok (.sel d a b n) ∧
    decodeHead (head 0x2B 1 (d.setWidth 6)) (tailsA ⟨0, false⟩ 0 t2 t3) = .ok (.movc d) ∧
    decodeHead (head 0x2B 1 0) (tailsA a 1 t2 t3) = .ok (.movcWr a)) ∧
  (∀ (op : BitVec 7) (tl : BitVec 2) (e : BitVec 6) (a b : Src) (f : BitVec 4) (t2 t3 : Half),
    ((op = 0x21 ∨ op = 0x22) ∧ 7 ≤ f.toNat) ∨ (op = 0x2B ∧ 2 ≤ f.toNat) →
    decodeHead (head op tl e) (tailsAB a b f t2 t3) = .error ⟨1, 1⟩)

/-- What a compare, `SEL` and the two forms of `MOVC` write (R97, R127, R128, R133). -/
def Sys2Proof.Claims.ConditionFormsWriteTheirResult : Prop :=
  ∀ (s : State) (r : Rel) (c : BitVec 3) (d : SReg) (a b : Src) (imm : Half) (n : CReg),
  (Ready s [a.need, b.need] →
    exec (.cmp r c a b) s = .next (done (s.setTh (s.th.setC c (holds r (val s a) (val s b)))))) ∧
  (Ready s [a.need] →
    exec (.cmpi r c a imm) s = .next (done (s.setTh (s.th.setC c (holds r (val s a) (imm.signExtend 64))))) ∧
    exec (.movcWr a) s = .next (done (s.setTh { s.th with c := (val s a).setWidth 8 }))) ∧
  (Ready s (need2 d a b) →
    exec (.sel d a b n) s = .next (wrote s d (if s.view.cond n then val s a else val s b))) ∧
  (Ready s [sN d] → ∃ w : Word, exec (.movc d) s = .next (wrote s d w) ∧
    (∀ i, i < 64 → w.getLsbD i = (decide (i < 16) && s.view.cond (BitVec.ofNat 4 i))) ∧
    w.getLsbD 14 = false ∧ w.getLsbD 15 = true)

/-- `CMP`, `CMPI`, `SEL` and the two forms of `MOVC` (R97, R127, R128, R133): a compare writes the one condition
register it names; `MOVC` reads all sixteen and writes the eight that a thread owns. -/
def Obligations.ConditionsAreWrittenAndRead : Prop :=
  Sys2Proof.Claims.ConditionFormsWriteTheirResult ∧ Sys2Proof.Claims.ConditionFormsAreEncoded

/-- Immediates, counts, bit fields and the carry-less product (R129 to R132). -/
def Sys2Proof.Claims.BitInstructionsWriteTheirResult : Prop :=
  ∀ (s : State) (d : SReg) (a b : Src) (imm : Half) (k : BitVec 2) (pos : BitVec 6) (len : BitVec 7),
  (Ready s [sN d] → exec (.li d imm) s = .next (wrote s d (imm.signExtend 64))) ∧
  (Ready s (need1 d a) →
    exec (.lih k d a imm) s = .next (wrote s d
      ((val s a &&& ~~~(0xFFFF#64 <<< (16 * k.toNat))) ||| (imm.setWidth 64 <<< (16 * k.toNat)))) ∧
    (∃ n, n ≤ 64 ∧ exec (.clz false d a) s = .next (wrote s d (BitVec.ofNat 64 n)) ∧
      (∀ i, i < n → (val s a).getMsbD i = false) ∧ (n < 64 → (val s a).getMsbD n = true)) ∧
    (∃ n, n ≤ 64 ∧ exec (.clz true d a) s = .next (wrote s d (BitVec.ofNat 64 n)) ∧
      (∀ i, i < n → (val s a).getLsbD i = false) ∧ (n < 64 → (val s a).getLsbD n = true)) ∧
    exec (.popc d a) s =
      .next (wrote s d (BitVec.ofNat 64 (((List.range 64).map fun i => ((val s a).getLsbD i).toNat).sum))) ∧
    (wfField pos len = true →
      exec (.bfx false d a pos len) s = .next (wrote s d (((val s a).extractLsb' pos.toNat len.toNat).setWidth 64)) ∧
      exec (.bfx true d a pos len) s = .next (wrote s d (((val s a).extractLsb' pos.toNat len.toNat).signExtend 64)))) ∧
  (Ready s (need2 d a b) →
    (wfField pos len = true → exec (.bfi d a b pos len) s = .next (wrote s d
      ((val s a &&& ~~~fieldMask pos len) ||| (val s b <<< pos.toNat &&& fieldMask pos len)))) ∧
    (∃ w : Word, exec (.clmul false d a b) s = .next (wrote s d w) ∧
      ∀ i, i < 64 → w.getLsbD i = clmulBit (val s a) (val s b) i) ∧
    (∃ w : Word, exec (.clmul true d a b) s = .next (wrote s d w) ∧
      ∀ i, i < 64 → w.getLsbD i = clmulBit (val s a) (val s b) (i + 64)))

/-- The encodings of R129 to R132, and the codes that are refused. -/
def Sys2Proof.Claims.BitInstructionsAreEncoded : Prop :=
  (∀ (d : SReg) (a b : Src) (t2 t3 : Half) (imm : Half) (k : BitVec 2) (pos : BitVec 6) (len : BitVec 7),
    let D := d.setWidth 6
    let ti : Half := (0#3 ++ len) ++ pos
    decodeHead (head 0x24 1 D) ⟨imm, t2, t3⟩ = .ok (.li d imm) ∧
    decodeHead (head 0x25 2 D) (tailsA a (k.setWidth 4) imm t3) = .ok (.lih k d a imm) ∧
    decodeHead (head 0x27 1 D) (tailsA a 0 t2 t3) = .ok (.popc d a) ∧
    (wfField pos len = true → decodeHead (head 0x29 2 D) (tailsAB a b 0 ti t3) = .ok (.bfi d a b pos len)) ∧
    (∀ u : Bool, let f : BitVec 4 := if u then 1 else 0
      decodeHead (head 0x26 1 D) (tailsA a f t2 t3) = .ok (.clz u d a) ∧
      (wfField pos len = true → decodeHead (head 0x28 2 D) (tailsA a f ti t3) = .ok (.bfx u d a pos len)) ∧
      decodeHead (head 0x2A 1 D) (tailsAB a b f t2 t3) = .ok (.clmul u d a b))) ∧
  (∀ (op : BitVec 7) (tl : BitVec 2) (e : BitVec 6) (a b : Src) (f : BitVec 4) (t2 t3 : Half),
    (op = 0x25 ∧ 4 ≤ f.toNat) ∨ ((op = 0x26 ∨ op = 0x28 ∨ op = 0x2A) ∧ 2 ≤ f.toNat) ∨ ((op = 0x27 ∨ op = 0x29) ∧ f ≠ 0) →
    decodeHead (head op tl e) (tailsAB a b f t2 t3) = .error ⟨1, 1⟩) ∧
  (∀ (d : SReg) (a b : Src) (u : Bool) (ti t3 : Half),
    wfField (ti.setWidth 6) (ti.extractLsb' 6 7) = false ∨ 2 ^ (13 : Nat) ≤ ti.toNat →
    decodeHead (head 0x28 2 (d.setWidth 6)) (tailsA a (if u then 1 else 0) ti t3) = .error ⟨5, 2⟩ ∧
    decodeHead (head 0x29 2 (d.setWidth 6)) (tailsAB a b 0 ti t3) = .error ⟨5, 2⟩)

/-- Minimum and maximum (R126), immediates (R129), and the instructions over bits and fields of a register (R130–R132), with
their encodings. -/
def Obligations.MinMaxAndBitFieldsWriteTheirResult : Prop :=
  Sys2Proof.Claims.MinMaxWriteTheirResult ∧ Sys2Proof.Claims.BitInstructionsWriteTheirResult ∧
  Sys2Proof.Claims.BitInstructionsAreEncoded


namespace Sys2Proof.Claims

/-- Control passes to `t` (R32): the PC, the count of bundles, nothing of the loop registers. -/
def went (s : State) (t : Nat) : State := s.transfer t false

/-- The target of a branch immediate (R32), as a number. -/
def IsTarget (s : State) (b : BTarget) (t : Nat) : Prop :=
  (t : Int) = (s.th.pc : Int) - s.th.pc % 64 + 64 * b.delta.toInt + 2 * b.index.toNat

/-- The transfer to `t` fails (R32), with this SUB: the index is 0 or above the head count of the target line, or the head is the
second of its bundle; and the trap is raised at the head that executes. A line that cannot be read fails at the target head (R101). -/
def BadTarget (s : State) (t sub : Nat) : Prop :=
  (sub = 10 ∧ (t / 2 % 32 = 0 ∨ ∃ l, s.lineAt s.cur.core s.me (t / 64 * 64) = .ok l ∧ lineCount l < t / 2 % 32)) ∨
  (sub = 11 ∧ ∃ l, s.lineAt s.cur.core s.me (t / 64 * 64) = .ok l ∧ 0 < t / 2 % 32 ∧ t / 2 % 32 ≤ lineCount l ∧
    startsBundle l (t / 2 % 32) = false)
def targetFails (s : State) (t sub : Nat) : State :=
  s.takeTrap ⟨0x01, BitVec.ofNat 64 (s.cur.hcount % 32 * 2 ^ (11 : Nat) + s.th.pc / 2 % 32 * 2 ^ (6 : Nat) + sub), BitVec.ofNat 64 t, 0⟩

/-- A register value that `JMP` accepts (R101): even, no bit above 51, its head in its line. -/
def GoodPC (s : State) (w : Word) : Prop :=
  w.getLsbD 0 = false ∧ w.toNat < 2 ^ (52 : Nat) ∧ s.targetSub w.toNat = none

/-- Causes of class user (R143). -/
def userCauses : List Nat := [0x03, 0x04, 0x06, 0x07, 0x08, 0x0C, 0x0D, 0x0E, 0x0F, 0x12, 0x13]

/-- R142: the trap goes to the user handler. -/
def ToUser (t : Thread) (i : TrapInfo) : Prop :=
  i.cause ∈ userCauses ∧ t.level = .user ∧ t.tvec ≠ 0 ∧ t.ecause.getLsbD 61 = false
/-- The cause's owner names the monitor: a late owner fault of the shared tables or of the key ring. -/
def OwnerMonitor (i : TrapInfo) : Prop :=
  i.cause = 0x0A ∧ (i.info.toNat / 256 % 4 = 1 ∨ i.info.toNat / 256 % 4 = 2)
/-- R142: the supervisor stands aside. -/
def PastSupervisor (t : Thread) (i : TrapInfo) : Prop :=
  t.level = .mon ∨ t.scause.getLsbD 61 = true ∨ OwnerMonitor i

/-- The cause register that trap entry writes at a level above user (R145, R147): ACTIVE, the level the trap came from,
FLAGS and CODE. -/
def causeReg (i : TrapInfo) (ppriv : Nat) : Word :=
  BitVec.ofNat 64 (2 ^ (61 : Nat) + ppriv * 2 ^ (59 : Nat) + i.fl.toNat * 2 ^ (8 : Nat) + i.cause % 256)
def pprivOf : Level → Nat
  | .user => 0
  | .sup => 1
  | .mon => 2

/-- What trap entry at a level saves (R147); the PC is not moved yet. -/
def savedAt (t : Thread) (x : Level) (i : TrapInfo) : Thread :=
  match x with
  | .user => { t with epc := BitVec.ofNat 64 t.pc, ecause := causeReg i 0, einfo := i.info, einfo2 := i.info2 }
  | .sup => { t with sepc := BitVec.ofNat 64 t.pc, scause := causeReg i (pprivOf t.level), sinfo := i.info,
                     sinfo2 := i.info2, level := .sup }
  | .mon => { t with mepc := BitVec.ofNat 64 t.pc, mcause := causeReg i (pprivOf t.level), minfo := i.info,
                     minfo2 := i.info2, level := .mon }

/-- The vector of a level. -/
def vectorAt (s : State) : Level → Word
  | .user => s.th.tvec
  | .sup => s.here.svec
  | .mon => s.here.mvec

/-- Trap entry at a level whose registers are saved. `trapAt` and `serial` are the model's own counters. -/
def entered (s : State) (x : Level) (i : TrapInfo) : State :=
  (s.setMe { s.me with
    refusal := none
    th := { savedAt s.th x i with fpMask := false, trapAt := s.th.trapAt.set x.idx s.serial } }).bump

/-- The vector passes the check of R101. -/
def VectorOk (s : State) (x : Level) (i : TrapInfo) : Prop := (entered s x i).targetSub (vectorAt s x).toNat = none

/-- Trap entry to its end. -/
def trapped (s : State) (x : Level) (i : TrapInfo) : State :=
  (entered s x i).setTh { (entered s x i).th with pc := (vectorAt s x).toNat, line := none }

/-- Control registers of a thread that `CSRR` reads as they stand (R150), by number. -/
def threadRegs (t : Thread) : List (BitVec 12 × Word) :=
  [(0x000, t.fsr), (0x002, t.self), (0x003, t.bita), (0x004, t.lc0), (0x005, t.lc1), (0x006, t.tvec), (0x007, t.epc),
   (0x008, t.ecause), (0x009, t.einfo), (0x00A, t.einfo2), (0x00B, t.wsp), (0x00C, t.tileb), (0x00D, t.tmask),
   (0x00E, t.hclaim), (0x00F, t.shcnt), (0x010, t.tagf), (0x011, t.le0), (0x012, t.le1)]
def supRegs (s : State) : List (BitVec 12 × Word) :=
  [(0x100, s.here.svec), (0x101, s.th.sepc), (0x102, s.th.scause), (0x103, s.th.sinfo), (0x104, s.here.aown[0]),
   (0x105, s.here.aown[1]), (0x106, s.here.aown[2]), (0x107, s.here.aown[3]), (0x108, s.here.qown),
   (0x109, s.here.qweight), (0x10A, s.here.region), (0x10C, s.here.pxvec), (0x111, s.here.lvlctl), (0x113, s.th.sinfo2),
   (0x114, s.here.mown)]
def monRegs (s : State) : List (BitVec 12 × Word) :=
  [(0x200, s.here.mvec), (0x201, s.th.mepc), (0x202, s.th.mcause), (0x203, s.th.minfo), (0x204, s.th.minfo2),
   (0x205, s.krcmd), (0x206, s.here.world), (0x208, s.lvrctl)]

/-- Bits `hi` to `lo` of `new` over `old`. -/
def mix (old new : Word) (hi lo : Nat) : Word :=
  let m : Word := BitVec.ofNat 64 ((2 ^ (hi + 1 - lo) - 1) * 2 ^ lo)
  (old &&& ~~~m) ||| (new &&& m)

/-- Control registers of a thread that `CSRW` writes, with the writable bits (R140, R145, R146, R150, R163). -/
def threadWrites (t : Thread) (w : Word) : List (BitVec 12 × Thread) :=
  [(0x003, { t with bita := mix 0 w 54 0 }), (0x004, { t with lc0 := mix 0 w 31 0 }), (0x005, { t with lc1 := mix 0 w 31 0 }),
   (0x006, { t with tvec := mix 0 w 51 1 }), (0x007, { t with epc := mix 0 w 51 1 }),
   (0x008, { t with ecause := mix t.ecause w 62 61 }), (0x009, { t with einfo := w }), (0x00A, { t with einfo2 := w }),
   (0x00F, { t with shcnt := w }), (0x010, { t with tagf := w }), (0x011, { t with le0 := w }), (0x012, { t with le1 := w })]
/-- The privileged ones; PPRIV takes any value but 3. -/
def causeMix (old w : Word) : Word :=
  let x := mix old w 62 61
  if w.toNat / 2 ^ (59 : Nat) % 4 = 3 then x else mix x w 60 59
def supWrites (t : Thread) (w : Word) : List (BitVec 12 × Thread) :=
  [(0x101, { t with sepc := mix 0 w 51 1 }), (0x102, { t with scause := causeMix t.scause w }), (0x103, { t with sinfo := w }),
   (0x113, { t with sinfo2 := w })]
def monWrites (t : Thread) (w : Word) : List (BitVec 12 × Thread) :=
  [(0x201, { t with mepc := mix 0 w 51 1 }), (0x202, { t with mcause := causeMix t.mcause w }), (0x203, { t with minfo := w }),
   (0x204, { t with minfo2 := w })]

/-- A register from its fields: lowest bit and value of each. -/
def layout (l : List (Nat × Nat)) : Word := BitVec.ofNat 64 ((l.map fun f => f.2 * 2 ^ f.1).sum)

/-- State codes of a slot (R67) and of a level entry (R79). -/
def slotCode : SlotSt → Nat
  | .free => 0
  | .loading => 1
  | .ready => 2
  | .parked => 3
  | .draining => 4
  | .held => 5
  | .disabled => 6
  | .heldParked => 7
def entryCode : LvSt → Nat
  | .free => 0
  | .opened => 1
  | .sealed => 2
  | .done => 3

/-- R79: the level entry that a value of `LVLCTL` names. -/
def entryOf (s : State) (w : Word) : EntryId :=
  ⟨s.partHere, lvlOfNum (w.toNat / 16 % 4), w.toNat / 256 % 4096⟩

/-- `LVLDATA` (R79) of the entry that is selected. -/
def lvldataOf (s : State) : Word :=
  let x := s.lv (entryOf s s.here.lvlctl)
  layout [(62, entryCode x.st), (61, s.here.lvlerr.toNat), (60, x.canc.toNat), (56, x.gen.toNat), (47, x.tenant.toNat),
    (35, x.parent % 4096), (0, x.count % 2 ^ (32 : Nat))]

/-- `HOWNt` (R319). HELD: a task node or an array instruction holds the track (R324, R325). -/
def hownOf (k : Track) : Word :=
  layout [(63, k.valid.toNat), (62, k.xfer.toNat), (61, if k.nodes = [] ∧ k.arrays = 0 then 0 else 1), (60, k.scrub.toNat),
    (59, k.lost.toNat), (58, k.resid.toNat), (55, k.tag.toNat), (47, k.pos), (32, k.tenant.toNat), (16, k.errs.toNat),
    (0, k.launch.toNat)]

/-- Registers of system software that are put together when they are read (R69, R79, R402), for a core of partition `p`. -/
def builtRegs (s : State) (p : Nat) : List (BitVec 12 × Word) :=
  [(0x10D, layout [(16, p), (0, (s.part p).base)]), (0x10E, BitVec.ofNat 64 (s.part p).len),
   (0x10F, layout [(32, s.stepping % 256), (16, (s.part p).places.length), (0, 8192 - s.disabled.length)]),
   (0x110, layout ((List.finRange 16).map fun n => (4 * n.val, slotCode (s.here.slots[n]).st))), (0x112, lvldataOf s)]

/-- Control registers of the core (R79, R88, R90, R146, R376). -/
def coreWrites (x : Core) (w : Word) : List (BitVec 12 × Core) :=
  [(0x013, { x with rlate := w.setWidth 32 }), (0x100, { x with svec := mix 0 w 51 1 }),
   (0x109, { x with qweight := mix 0 w 31 0 }), (0x10C, { x with pxvec := mix 0 w 51 1 }),
   (0x10A, { x with region := mix (mix (mix 0 w 63 41) w 37 29) w 28 0 }), (0x200, { x with mvec := mix 0 w 51 1 })]
/-- Numbers whose register ignores a write. -/
def readOnly : List (BitVec 12) :=
  [0x001, 0x002, 0x00C, 0x00D, 0x00E, 0x10D, 0x10E, 0x10F, 0x110, 0x112, 0x207]

/-- No loop goes back at the end of a bundle after which the thread is `t`. -/
def NoLoop (s : State) (t : Thread) : Prop := (loopStep t s.cur.width).2.2 = none

end Sys2Proof.Claims

open Sys2Proof Sys2Proof.Machine Sys2Proof.Claims

/-! ## Control transfer -/

/-- `NOP`, `BR`, `BC` and `JMP` (R98 to R101): the next PC, and nothing else but the count of bundles. -/
def Sys2Proof.Claims.BranchesMoveThePC : Prop :=
  ∀ (s : State) (d : BitVec 6) (hs : List Half) (n : Bool) (c : CReg) (b : BTarget) (r : SReg) (t : Nat),
  (Ready s [] → exec (.nop d hs) s = .next (done s) ∧
    (s.view.cond c = n → exec (.bc n c b) s = .next (done s))) ∧
  (s.pair = none → IsTarget s b t → s.targetSub t = none →
    exec (.br b) s = .next (went s t) ∧ (s.view.cond c ≠ n → exec (.bc n c b) s = .next (went s t))) ∧
  (s.pair = none → Full s [sN r] → GoodPC s (s.th.sv r) → exec (.jmp r) s = .next (went s (s.th.sv r).toNat))

/-- What `BR`, `BC` and `JMP` do with a target that fails its check (R32, R99 to R101), the checks of `JMP` in order. -/
def Sys2Proof.Claims.BranchTargetsAreChecked : Prop :=
  ∀ (s : State) (n : Bool) (c : CReg) (b : BTarget) (r : SReg) (t sub : Nat), s.pair = none →
  (IsTarget s b t → BadTarget s t sub →
    exec (.br b) s = .next (targetFails s t sub) ∧ (s.view.cond c ≠ n → exec (.bc n c b) s = .next (targetFails s t sub))) ∧
  (Full s [sN r] → let w := s.th.sv r
    (w.getLsbD 0 = true → ∃ i : TrapInfo, i.cause = 0x06 ∧ i.info2 = w ∧ exec (.jmp r) s = .next (s.takeTrap i)) ∧
    (w.getLsbD 0 = false → 2 ^ (52 : Nat) ≤ w.toNat →
      ∃ i : TrapInfo, i.cause = 0x05 ∧ i.info2 = w ∧ exec (.jmp r) s = .next (s.takeTrap i)) ∧
    (w.getLsbD 0 = false → w.toNat < 2 ^ (52 : Nat) → BadTarget s w.toNat sub → exec (.jmp r) s = .next (targetFails s w.toNat sub)) ∧
    (∀ x, w.toNat / 2 % 32 ≠ 0 → s.lineAt s.cur.core s.me (w.toNat / 64 * 64) = x → (∀ l, x ≠ .ok l) → s.targetSub w.toNat = none))

/-- The encodings of `NOP`, `BR`, `BC` and `JMP` (R98 to R101): `NOP` with any D and any tails. -/
def Sys2Proof.Claims.BranchesAreEncoded : Prop :=
  ∀ (e : BitVec 6) (n : Bool) (c : CReg) (b : BTarget) (r : SReg) (t1 t2 t3 : Half),
  let ti : Half := b.delta ++ b.index
  (∀ tl : BitVec 2, decodeHead (head 0x00 tl e) ⟨t1, t2, t3⟩ = .ok (.nop e ([t1, t2, t3].take tl.toNat))) ∧
  decodeHead (head 0x01 1 0) ⟨ti, t2, t3⟩ = .ok (.br b) ∧
  decodeHead (head 0x02 1 ((if n then 1#1 else 0#1) ++ 0#1 ++ c)) ⟨ti, t2, t3⟩ = .ok (.bc n c b) ∧
  (e.getLsbD 4 = true → decodeHead (head 0x02 1 e) ⟨ti, t2, t3⟩ = .error ⟨5, 0⟩) ∧
  decodeHead (head 0x03 0 (r.setWidth 6)) ⟨t1, t2, t3⟩ = .ok (.jmp r)

/-- `CALLW`, `CALLWX` and `RETW` on resident windows (R102, R105, R106): the callee sees the caller's `s24`–`s31` as
`s8`–`s15`, `s15` holds the return PC, `s16`–`s31` are zero; the return gives the caller its window back and keeps the
callee's `s8`–`s15` as `s24`–`s31`. -/
def Obligations.WindowsSlide : Prop :=
  ∀ (s : State) (b : BTarget) (r : SReg) (t : Nat), s.pair = none → s.th.shadow = none →
  (Full s [sN r, sN 31] → wspDepth s.th.wsp ≠ 1023 →
    (s.th.callers.length < 3 ∨ (wspDepth s.th.wsp - s.th.callers.length : Nat) < wspPtr s.th.wsp - wspBase s.th.wsp) →
    IsTarget s b t → s.targetSub t = none → GoodPC s (s.th.sv r) →
    ∃ u v : State, exec (.callw b) s = .next u ∧ exec (.callwx r) s = .next v ∧
      u.th.pc = t ∧ v.th.pc = (s.th.sv r).toNat ∧
      (∀ w ∈ [u, v],
        (∀ q : SReg, q.toNat < 8 → w.th.sv q = s.th.sv q) ∧
        (∀ q : SReg, 8 ≤ q.toNat → q.toNat < 15 → w.th.sv q = s.th.sv (q + 16)) ∧
        w.th.sv 15 = BitVec.ofNat 64 (nextPc s.th.pc s.cur.hcount s.cur.width) ∧
        (∀ q : SReg, 16 ≤ q.toNat → w.th.sv q = 0) ∧
        wspDepth w.th.wsp = wspDepth s.th.wsp + 1 ∧ w.th.callers.length = min 3 (s.th.callers.length + 1) ∧
        w.mem = s.mem ∧ w.th.c = s.th.c ∧ w.th.k = s.th.k ∧ w.th.d = s.th.d ∧ w.th.fsr = s.th.fsr)) ∧
  (∀ (w : Vector Cell 16) (l : List (Vector Cell 16)), s.th.callers = w :: l → Full s [sN 15] → wspDepth s.th.wsp ≠ 0 →
    GoodPC s (s.th.sv 15) →
    ∃ u, exec .retw s = .next u ∧ u.th.pc = (s.th.sv 15).toNat ∧
      (∀ q : SReg, q.toNat < 8 → u.th.sv q = s.th.sv q) ∧
      (∀ q : Fin 16, u.th.s[q.val + 8] = w[q]) ∧
      (∀ q : SReg, 24 ≤ q.toNat → u.th.sv q = s.th.sv (q - 16)) ∧
      wspDepth u.th.wsp = wspDepth s.th.wsp - 1 ∧ u.th.callers = l ∧
      u.mem = s.mem ∧ u.th.c = s.th.c ∧ u.th.k = s.th.k ∧ u.th.d = s.th.d ∧ u.th.fsr = s.th.fsr)

/-- `LOOP` with free level 0 starts a body there (R110, R111): the count, and bounds whose start is the next bundle and
whose end is the named head; with a count of 0 control passes to the bundle after the end head. -/
def Sys2Proof.Claims.LoopStartsItsBody : Prop :=
  ∀ (s : State) (r : SReg) (n : Half) (b : BTarget) (e : Nat) (l : List Half), s.pair = none → s.th.shadow = none →
  Full s [sN r] → IsTarget s b e → s.lineAt s.cur.core s.me (e / 64 * 64) = .ok l →
  e / 2 % 32 ≠ 0 → e / 2 % 32 ≤ lineCount l → e < 2 ^ (52 : Nat) → s.nextPC ≤ e → e / 64 - s.nextPC / 64 ≤ 255 →
  s.th.pc % 2 = 0 → s.th.lc0 = 0 → s.th.lc1 = 0 →
  ∀ (i : Instr) (k : Nat), (i = .loop r b ∧ k = (s.th.sv r).toNat % 2 ^ (32 : Nat)) ∨ (i = .loopImm n b ∧ k = n.toNat) →
    (k = 0 → exec i s = .next (went s (nextPc e (lineCount l) (if (lineHead l (e / 2 % 32)).p then 2 else 1)))) ∧
    (k ≠ 0 → ∃ le : Word,
      (let t := { s.th with lc0 := BitVec.ofNat 64 k, le0 := le }
       NoLoop s t → exec i s = .next (done (s.setTh t))) ∧
      loopStart le = s.nextPC ∧ le.toNat % 2 ^ (51 : Nat) * 2 = e / 2 * 2)

/-- The loop step (R112) at the end of a bundle that holds the end head of the one active level: the count drops by 1,
and control goes back to the start while it is not 0. -/
def Sys2Proof.Claims.LoopStepCounts : Prop :=
  ∀ (s : State), s.th.lc1 = 0 → s.th.lc0 ≠ 0 → s.th.le0.toNat % 2 ^ (51 : Nat) * 2 = s.th.pc →
    (done s).th.lc0 = s.th.lc0 - 1 ∧ (done s).th.lc1 = 0 ∧ (done s).th.le0 = s.th.le0 ∧
    (done s).th.pc = (if s.th.lc0 = 1 then nextPc s.th.pc s.cur.hcount s.cur.width else loopStart s.th.le0)

/-- A hardware loop: what `LOOP` sets up, and what every bundle end does with it (R110 to R112). -/
def Obligations.LoopStartsItsBodyAndCounts : Prop :=
  Sys2Proof.Claims.LoopStartsItsBody ∧ Sys2Proof.Claims.LoopStepCounts


/-- The next PC of a bundle that ends no loop (R29): after the line's last head, head 1 of the next line, else PC + 2
after one head and PC + 4 after a pair; nothing of the thread but PC and fetch buffer moves. -/
def Sys2Proof.Claims.NextPCFollowsTheBundle : Prop :=
  ∀ (s : State) (line h : Nat), s.th.lc0 = 0 → s.th.lc1 = 0 → s.th.pc = 64 * line + 2 * h → 1 ≤ h → h ≤ s.cur.hcount →
    s.cur.hcount ≤ 31 → (s.cur.width = 1 ∨ (s.cur.width = 2 ∧ h < s.cur.hcount)) →
    (done s).th = { s.th with
      pc := if h + s.cur.width > s.cur.hcount then 64 * line + 64 + 2 else s.th.pc + 2 * s.cur.width
      line := (done s).th.line
      fpMask := false }

/-- Control transfer to immediate and register targets with its checks, and the PC after a bundle that transfers nowhere (R29,
R32, R98 to R101). -/
def Obligations.BranchesAndBundlesMoveThePC : Prop :=
  Sys2Proof.Claims.BranchesMoveThePC ∧ Sys2Proof.Claims.BranchTargetsAreChecked ∧ Sys2Proof.Claims.BranchesAreEncoded ∧
  Sys2Proof.Claims.NextPCFollowsTheBundle

/-- `PARK`, `YIELD` and `HALT` (R113 to R115). -/
def Obligations.WaitingAndRetiring : Prop :=
  ∀ (s : State) (c : CReg),
  (Ready s [] →
    (s.view.cond c = true → exec (.park c) s = .next (done s)) ∧
    exec .yield s = .next (done (s.setMe { s.me with last := some (s.here.cycle + 8) }))) ∧
  (s.pair = none → s.view.cond c = false → ∃ t, exec (.park c) s = .next t ∧ t.me.st = .parked ∧
    t.me.wait = .cond c ∧ t.th = s.th ∧ t.mem = s.mem) ∧
  (s.pair = none → s.th.dstore = none → ∃ t, exec .halt s = .next t ∧ t.me.st = .draining ∧ t.me.drain = .retire ∧
    t.th.tileb = 0 ∧ t.th.callers = [] ∧ t.mem = s.mem ∧
    ∀ c n, (c, n) ≠ (s.cur.core, s.cur.slot) → t.slotAt c n = s.slotAt c n)

/-! ## Traps and returns -/

/-- Taking a trap (R142, R143, R147): where it goes, what it saves, and what it leaves; a trap that finds the monitor's
handler active freezes the thread. -/
def Obligations.TrapEntrySavesAndVectors : Prop :=
  ∀ (s : State) (i : TrapInfo), s.th.shadow = none →
  (ToUser s.th i → VectorOk s .user i → s.th.tvec.toNat < 2 ^ (52 : Nat) → s.th.tvec.getLsbD 0 = false →
    s.takeTrap i = trapped s .user i) ∧
  (¬ ToUser s.th i → ¬ PastSupervisor s.th i → VectorOk s .sup i → s.here.svec.toNat < 2 ^ (52 : Nat) →
    s.here.svec.getLsbD 0 = false → s.takeTrap i = trapped s .sup i) ∧
  (¬ ToUser s.th i → PastSupervisor s.th i → s.th.mcause.getLsbD 61 = false → VectorOk s .mon i →
    s.here.mvec.toNat < 2 ^ (52 : Nat) → s.here.mvec.getLsbD 0 = false → s.takeTrap i = trapped s .mon i) ∧
  (¬ ToUser s.th i → PastSupervisor s.th i → s.th.mcause.getLsbD 61 = true →
    (s.takeTrap i).me.st = .parked ∧ (s.takeTrap i).me.wait = .frozen ∧ (s.takeTrap i).th = s.th ∧
    (s.takeTrap i).mem = s.mem ∧ (s.takeTrap i).freezes.length = s.freezes.length + 1)

/-- `TRAP` (R161) takes trap 0x16 with its immediate and the next PC, whichever level it runs at, and in a pair as well: the other
head, here an addition, then has no effect. It goes to the supervisor's handler, or past it to the monitor's (R142): the level's
registers hold the PC of the `TRAP`, the cause with the level it came from, the immediate and the next PC, and the PC is at the
handler (R147). A `TRAP` while the monitor's handler is active freezes the thread. -/
def Obligations.TrapInstructionEntersHandler : Prop :=
  ∀ (s : State) (n : Half) (t2 t3 : Half), decodeHead (head 0x0B 1 0) ⟨n, t2, t3⟩ = .ok (.trap n) ∧
    (s.pair = none → exec (.trap n) s = .next (s.takeTrap ⟨0x16, n.setWidth 64, BitVec.ofNat 64 s.nextPC, 0⟩)) ∧
    (s.pair = none → s.th.shadow = none →
      let i : TrapInfo := ⟨0x16, n.setWidth 64, BitVec.ofNat 64 s.nextPC, 0⟩
      (¬ PastSupervisor s.th i → VectorOk s .sup i → s.here.svec.toNat < 2 ^ (52 : Nat) → s.here.svec.getLsbD 0 = false →
        ∃ t, exec (.trap n) s = .next t ∧ t = trapped s .sup i ∧ t.th.pc = s.here.svec.toNat ∧ t.th.level = .sup ∧
          t.th.sepc = BitVec.ofNat 64 s.th.pc ∧
          t.th.scause = BitVec.ofNat 64 (2 ^ (61 : Nat) + pprivOf s.th.level * 2 ^ (59 : Nat) + 0x16) ∧
          t.th.sinfo = n.setWidth 64 ∧ t.th.sinfo2 = BitVec.ofNat 64 s.nextPC ∧ t.th.s = s.th.s ∧ t.mem = s.mem) ∧
      (PastSupervisor s.th i → s.th.mcause.getLsbD 61 = false → VectorOk s .mon i → s.here.mvec.toNat < 2 ^ (52 : Nat) →
        s.here.mvec.getLsbD 0 = false →
        ∃ t, exec (.trap n) s = .next t ∧ t = trapped s .mon i ∧ t.th.pc = s.here.mvec.toNat ∧ t.th.level = .mon ∧
          t.th.mepc = BitVec.ofNat 64 s.th.pc ∧
          t.th.mcause = BitVec.ofNat 64 (2 ^ (61 : Nat) + pprivOf s.th.level * 2 ^ (59 : Nat) + 0x16) ∧
          t.th.minfo = n.setWidth 64 ∧ t.th.minfo2 = BitVec.ofNat 64 s.nextPC ∧ t.th.s = s.th.s ∧ t.mem = s.mem) ∧
      (PastSupervisor s.th i → s.th.mcause.getLsbD 61 = true →
        ∃ t, exec (.trap n) s = .next t ∧ t.me.st = .parked ∧ t.me.wait = .frozen ∧ t.th = s.th ∧ t.mem = s.mem)) ∧
    (s.pair = none → ∀ (f : AddF) (d : SReg) (a b : Src), Full s (need2 d a b) →
      runPair exec (.add f d a b) (.trap n) false s = s.takeTrap ⟨0x16, n.setWidth 64, BitVec.ofNat 64 s.nextPC, 0⟩ ∧
      runPair exec (.trap n) (.add f d a b) false s = s.takeTrap ⟨0x16, n.setWidth 64, BitVec.ofNat 64 s.nextPC, 0⟩)

/-- `ERET` (R162) at each level: it goes to the return PC, or after a deferred fault to the information-2 PC, restores
the level, and clears ACTIVE and MASK. -/
def Obligations.EretReturns : Prop :=
  ∀ (s : State), s.pair = none →
  (s.th.level = .user →
    let t := if s.th.ecause.getLsbD 63 then s.th.einfo2 else s.th.epc
    GoodPC s t → exec .eret s = .next ((s.setTh { s.th with ecause := mix s.th.ecause 0 62 61 }).transfer t.toNat
      (s.th.ecause.getLsbD 62))) ∧
  (s.th.level = .sup → s.th.scause.toNat / 2 ^ (59 : Nat) % 4 ≠ 3 →
    let t := if s.th.scause.getLsbD 63 then s.th.sinfo2 else s.th.sepc
    GoodPC s t → ∃ u, exec .eret s = .next (u.transfer t.toNat (s.th.scause.getLsbD 62)) ∧
      pprivOf u.th.level = s.th.scause.toNat / 2 ^ (59 : Nat) % 4 ∧
      u = s.setTh { s.th with scause := mix s.th.scause 0 62 61, level := u.th.level }) ∧
  (s.th.level = .mon → s.th.mcause.toNat / 2 ^ (59 : Nat) % 4 ≠ 3 →
    let t := if s.th.mcause.getLsbD 63 then s.th.minfo2 else s.th.mepc
    GoodPC s t → ∃ u, exec .eret s = .next (u.transfer t.toNat (s.th.mcause.getLsbD 62)) ∧
      pprivOf u.th.level = s.th.mcause.toNat / 2 ^ (59 : Nat) % 4 ∧
      u = s.setTh { s.th with mcause := mix s.th.mcause 0 62 61, level := u.th.level })

/-- A number that no control register has (R150). -/
def Sys2Proof.Claims.Unassigned (n : Nat) : Prop :=
  (0x014 ≤ n ∧ n < 0x100) ∨ (0x116 ≤ n ∧ n < 0x140) ∨ (0x180 ≤ n ∧ n < 0x200) ∨ 0x209 ≤ n

/-- A thread below the level an instruction needs takes trap 0x02 and has no other effect (R60, R61): control registers
by their numbers, assigned or not, every privileged instruction, and the instructions of a shadow handler outside one; an
unassigned number within reach is an encoding fault with SUB 5. -/
def Obligations.PrivilegeIsChecked : Prop :=
  ∀ (s : State) (n : BitVec 12) (d x : SReg) (a b : Src) (k : KReg) (go : Bool) (tl : TileId) (m : MemI) (mx : MemX), s.pair = none →
  (Unassigned n.toNat → (0x100 ≤ n.toNat → s.th.level ≠ .user) → (0x200 ≤ n.toNat → s.th.level = .mon) →
    ∀ i ∈ [Instr.csrr d n, .csrw d n], ∃ t : TrapInfo, t.cause = 0x01 ∧ t.info.toNat % 16 = 5 ∧ t.info2 = 0 ∧
      exec i s = .next (s.takeTrap t)) ∧
  (s.th.level = .user → ∀ i ∈ [Instr.harvest d a b, .taskMigratePage d x a b go, .asave tl m, .asaveIndexed tl mx, .aload tl m,
      .aloadIndexed tl mx], exec i s = .next (s.takeTrap ⟨0x02, 1, 0, 0⟩)) ∧
  (s.th.level = .user → 0x100 ≤ n.toNat → n.toNat < 0x200 →
    exec (.csrr d n) s = .next (s.takeTrap ⟨0x02, 1, 0, 0⟩) ∧ exec (.csrw d n) s = .next (s.takeTrap ⟨0x02, 1, 0, 0⟩)) ∧
  (s.th.level ≠ .mon → 0x200 ≤ n.toNat →
    exec (.csrr d n) s = .next (s.takeTrap ⟨0x02, 2, 0, 0⟩) ∧ exec (.csrw d n) s = .next (s.takeTrap ⟨0x02, 2, 0, 0⟩)) ∧
  (s.th.level = .user →
    exec (.pair d a) s = .next (s.takeTrap ⟨0x02, 1, 0, 0⟩) ∧ exec (.pairOff d a) s = .next (s.takeTrap ⟨0x02, 1, 0, 0⟩) ∧
    exec (.pairSt d a) s = .next (s.takeTrap ⟨0x02, 1, 0, 0⟩)) ∧
  (s.th.shadow = none →
    exec (.xlw k a b) s = .next (s.takeTrap ⟨0x02, 3, 0, 0⟩) ∧ exec .xret s = .next (s.takeTrap ⟨0x02, 3, 0, 0⟩))

/-! ## Control registers -/

/-- `CSRR` writes the register's value (R150, R163) at every level that may read it. -/
def Sys2Proof.Claims.CsrrReadsTheRegister : Prop :=
  ∀ (s : State) (d : SReg), Ready s [sN d] →
  (∀ p ∈ threadRegs s.th, exec (.csrr d p.1) s = .next (wrote s d p.2)) ∧
  exec (.csrr d 0x001) s = .next (wrote s d (BitVec.ofNat 64 s.here.cycle)) ∧
  (s.th.level ≠ .user → ∀ p ∈ supRegs s, exec (.csrr d p.1) s = .next (wrote s d p.2)) ∧
  (s.th.level = .mon → ∀ p ∈ monRegs s, exec (.csrr d p.1) s = .next (wrote s d p.2)) ∧
  exec (.csrr d 0x013) s = .next (wrote s d (s.here.rlate.setWidth 64)) ∧
  (s.th.level = .mon → exec (.csrr d 0x207) s = .next (wrote s d (s.die (dieOf s.cur.core)).stpass)) ∧
  (s.th.level ≠ .user →
    (∀ p, s.partOf s.cur.core = some p → ∀ q ∈ builtRegs s p, exec (.csrr d q.1) s = .next (wrote s d q.2)) ∧
    (s.partOf s.cur.core = none → s.part 64 = Partition.reset →
      exec (.csrr d 0x10E) s = .next (wrote s d 0)) ∧
    (∀ t : TrackId, exec (.csrr d (BitVec.ofNat 12 (0x140 + t.toNat))) s = .next (wrote s d (hownOf (s.here.track t)))) ∧
    (let x := s.die (dieOf s.cur.core)
     x.fqstat.toNat % 2 ^ (9 : Nat) = 0 → x.pageq.length ≤ 256 →
       exec (.csrr d 0x10B) s = .next (wrote s d (mix x.fqstat (BitVec.ofNat 64 x.pageq.length) 8 0))) ∧
    (s.here.suspb.toNat % 2 ^ (19 : Nat) = 0 → s.here.susp.length ≤ 128 →
      exec (.csrr d 0x115) s = .next (wrote s d (mix s.here.suspb (BitVec.ofNat 64 s.here.susp.length) 7 0)))) ∧
  (∀ (n : BitVec 12) (w : Word), csrRead s.view s n.toNat = some w → (0x100 ≤ n.toNat → s.th.level ≠ .user) →
    (0x200 ≤ n.toNat → s.th.level = .mon) → exec (.csrr d n) s = .next (wrote s d w))

/-- `CSRW` writes the writable bits of the register and nothing else (R140, R145, R146, R150, R163). -/
def Sys2Proof.Claims.CsrwWritesTheWritableBits : Prop :=
  ∀ (s : State) (r : SReg), s.pair = none → Full s [sN r] →
  (∀ p ∈ threadWrites s.th (s.th.sv r), NoLoop s p.2 → exec (.csrw r p.1) s = .next (done (s.setTh p.2))) ∧
  (s.th.level ≠ .user → ∀ p ∈ supWrites s.th (s.th.sv r), NoLoop s p.2 →
    exec (.csrw r p.1) s = .next (done (s.setTh p.2))) ∧
  (s.th.level = .mon → ∀ p ∈ monWrites s.th (s.th.sv r), NoLoop s p.2 →
    exec (.csrw r p.1) s = .next (done (s.setTh p.2))) ∧
  (NoLoop s s.th → ∀ p ∈ coreWrites s.here (s.th.sv r), (0x100 ≤ p.1.toNat → s.th.level ≠ .user) →
    (0x200 ≤ p.1.toNat → s.th.level = .mon) → exec (.csrw r p.1) s = .next (done (s.setHere p.2))) ∧
  (NoLoop s s.th → ∀ n ∈ readOnly, (0x100 ≤ n.toNat → s.th.level ≠ .user) → (0x200 ≤ n.toNat → s.th.level = .mon) →
    exec (.csrw r n) s = .next (done s)) ∧
  (NoLoop s s.th → s.th.level ≠ .user →
    let x := s.die (dieOf s.cur.core)
    let f := mix x.fqstat (s.th.sv r) 48 35
    ∃ t, exec (.csrw r 0x10B) s = .next t ∧ t.th = (done s).th ∧ t.mem = s.mem ∧
      (t.die (dieOf s.cur.core)).fqstat = (if (s.th.sv r).getLsbD 63 then mix f 0 63 63 else f) ∧
      (t.die (dieOf s.cur.core)).pageq = x.pageq ∧ ∀ d, d ≠ dieOf s.cur.core → t.die d = s.die d)

/-- The special registers (R67, R69, R79, R150, R163, R177, R319, R402, R407, R413): `CSRR` reads each, `CSRW` writes the writable bits
of each, at every level that reaches its number. -/
def Obligations.SpecialRegistersAreReadAndWritten : Prop :=
  Sys2Proof.Claims.CsrrReadsTheRegister ∧ Sys2Proof.Claims.CsrwWritesTheWritableBits


namespace Sys2Proof.Claims

/-- The entry lies in its level (R76, R79), and the bundle holds a supervisor's write of `LVLCTL` with the command `c`. -/
structure LvlWrite (s : State) (r : SReg) (c : Nat) : Prop where
  ready : Ready s [sN r]
  sup : s.th.level ≠ .user
  size : (entryOf s (s.th.sv r)).idx < (entryOf s (s.th.sv r)).lvl.size
  cmd : (s.th.sv r).toNat % 8 = c

/-- A supervisor's or monitor's write of a register from a full scalar register. -/
def SupWrite (s : State) (r : SReg) : Prop := Ready s [sN r] ∧ s.th.level ≠ .user
def MonWrite (s : State) (r : SReg) : Prop := Ready s [sN r] ∧ s.th.level = .mon

/-- Everything of a thread but its launch-hierarchy effects stays: a bundle that writes no register of the thread. -/
def SameThread (s t : State) : Prop := t.th = (done s).th

/-- The graph that `SPAWN` names (R117): by number, or the spawner's own. -/
def spawnGraph (s : State) (q : Word) : EntryId :=
  if q.getLsbD 31 then s.graphOf s.th else ⟨s.partHere, .graph, q.toNat / 256 % 512⟩

/-- The operands of a `SPAWN` that starts a launch (R116, R117): a count of 1 to 2¹⁷ − 1, a range that lies in the
partition, no reserved bit, an open graph of the thread's tenant that is not cancelled, a free launch entry, and room in the
queues of the range's clusters. -/
structure SpawnOk (s : State) (cnt rng q : Word) : Prop where
  count : 0 < cnt.toNat ∧ cnt.toNat < 2 ^ (17 : Nat)
  cls : q.toNat / 2 ^ (32 : Nat) = 0 ∧ q.toNat / 2 ^ (17 : Nat) % 2 ^ (14 : Nat) = 0 ∧ q.toNat / 4 % 2 ^ (6 : Nat) = 0
  range : rng.toNat / 2 ^ (30 : Nat) = 0 ∧ rng.toNat / 2 ^ (13 : Nat) % 8 = 0 ∧ rng.toNat / 2 ^ (16 : Nat) ≠ 0 ∧
    rng.toNat % 2 ^ (13 : Nat) + rng.toNat / 2 ^ (16 : Nat) ≤ (s.placesOf s.cur.core).length
  tenant : (s.lv (spawnGraph s q)).tenant = s.th.tenant
  live : (s.lv (spawnGraph s q)).st = .opened ∨ (s.lv (spawnGraph s q)).st = .sealed
  going : s.cancelled 4 (spawnGraph s q) = false
  room : ∀ cl, (s.cluster cl).pending.length + rng.toNat / 2 ^ (16 : Nat) ≤ 256
  part : (spawnGraph s q).part = s.partHere

end Sys2Proof.Claims

open Sys2Proof Sys2Proof.Machine Sys2Proof.Claims

/-- The commands of `LVLCTL` (R77, R79): select leaves the tables; open makes a FREE or DONE entry OPEN with a count of 1
under a live parent, which counts it; seal takes the hold off; free frees a DONE entry. Where the
manual leaves room it rests on the model's choices (log entry 13). -/
def Obligations.LevelCommandsActOnTheEntry : Prop :=
  ∀ (s : State) (r : SReg),
  let w := s.th.sv r
  let e := entryOf s w
  (LvlWrite s r 0 → ∃ t, exec (.lvlctlSelect r) s = .next t ∧ t.here.lvlctl = w ∧ t.here.lvlerr = false ∧
    t.parts = s.parts ∧ SameThread s t) ∧
  (∀ p : EntryId, LvlWrite s r 1 → e.lvl.up = some p.lvl → p.part = e.part → p.idx = w.toNat / 2 ^ (20 : Nat) % 4096 →
    e.lvl ≠ .launch → p.idx < p.lvl.size → ((s.lv e).st = .free ∨ (s.lv e).st = .done) →
    ((s.lv p).st = .opened ∨ (s.lv p).st = .sealed) →
    ∃ t, exec (.lvlctlOpen r) s = .next t ∧ t.here.lvlctl = w ∧ t.here.lvlerr = false ∧
      t.lv e = { s.lv e with
        st := .opened, canc := false, tenant := BitVec.ofNat 9 (w.toNat / 2 ^ (32 : Nat)), parent := p.idx, count := 1 } ∧
      t.lv p = { s.lv p with count := (s.lv p).count + 1 } ∧
      (∀ x, x ≠ e → x ≠ p → t.lv x = s.lv x) ∧ SameThread s t) ∧
  (LvlWrite s r 1 → e.lvl = .job → ((s.lv e).st = .free ∨ (s.lv e).st = .done) →
    ∃ t, exec (.lvlctlOpen r) s = .next t ∧ t.here.lvlerr = false ∧
      t.lv e = { s.lv e with
        st := .opened, canc := false, tenant := BitVec.ofNat 9 (w.toNat / 2 ^ (32 : Nat)), parent := (t.lv e).parent,
        count := 1 } ∧
      (∀ x, x ≠ e → t.lv x = s.lv x) ∧ SameThread s t) ∧
  (LvlWrite s r 2 → (s.lv e).st = .opened → 2 ≤ (s.lv e).count →
    ∃ t, exec (.lvlctlSeal r) s = .next t ∧ t.here.lvlctl = w ∧ t.here.lvlerr = false ∧
      t.lv e = { s.lv e with st := .sealed, count := (s.lv e).count - 1 } ∧
      (∀ x, x ≠ e → t.lv x = s.lv x) ∧ SameThread s t) ∧
  (LvlWrite s r 2 → (s.lv e).st = .opened → (s.lv e).count = 1 →
    ∃ t, exec (.lvlctlSeal r) s = .next t ∧ t.here.lvlerr = false ∧ (t.lv e).st = .done ∧ (t.lv e).count = 0 ∧
      SameThread s t) ∧
  (LvlWrite s r 3 → (s.lv e).st = .done →
    ∃ t, exec (.lvlctlFree r) s = .next t ∧ t.here.lvlctl = w ∧ t.here.lvlerr = false ∧
      t.lv e = { s.lv e with st := .free } ∧ (∀ x, x ≠ e → t.lv x = s.lv x) ∧ SameThread s t)

/-- Writes of `FSR`, `WSP`, the ownership registers and the per-core registers of system software (R87, R103, R140, R262,
R273, R319, R320, R405, R407). A window that has been spilled in part starts again after a write of `WSP`, and no line that was
fetched before a write of `WORLD` is used after it. -/
def Obligations.OwnerAndStatusWrites : Prop :=
  ∀ (s : State) (r : SReg) (n : TileId) (k : TrackId),
  let w := s.th.sv r
  (s.pair = none → Full s [sN r] →
    (let f := mix (mix 0 w 9 0) w 13 13
     let t := { s.th with fsr := if 4 < w.toNat / 2 ^ (10 : Nat) % 8 then mix f s.th.fsr 12 10 else mix f w 12 10 }
     NoLoop s t → exec (.fsrWrite r) s = .next (done (s.setTh t))) ∧
    (0x780 ≤ wspBase w → wspBase w ≤ wspPtr w → wspPtr w ≤ wspLimit w → wspLimit w ≤ 2048 →
      NoLoop s s.th → exec (.wspWrite r) s = .next (done (s.setTh { s.th with
        wsp := mix (mix s.th.wsp w 50 27) w 16 5, spill := 0 }))) ∧
    (wspPtr w < wspBase w → exec (.wspWrite r) s = .next (s.takeTrap ⟨0x05, 10, w, 0⟩))) ∧
  (SupWrite s r →
    exec (.aownWrite n r) s = .next (done (s.setHere { s.here with
      aown := s.here.aown.set n.toNat (mix (mix (mix 0 w 63 62) w 40 32) w 15 0) })) ∧
    (let o := mix (mix (mix 0 w 63 63) w 40 32) w 15 0
     (o = s.here.mown → exec (.mownWrite r) s = .next (done s)) ∧
     (o ≠ s.here.mown → s.here.arrayq = [] → exec (.mownWrite r) s = .next (done (s.setHere { s.here with
       mown := o, stat := Plane.reset, shad := Plane.reset, cfgk := 0, cfgn := 0, failed := none })))) ∧
    ((s.here.track k).emptyFor false = false →
      (w.getLsbD 60 = false → ∃ t, exec (.hownWrite k r) s = .next t ∧ SameThread s t ∧
        t.here.track k = { s.here.track k with
          valid := w.getLsbD 63, xfer := w.getLsbD 62, tag := w.extractLsb' 55 3, tenant := w.extractLsb' 32 9,
          launch := w.extractLsb' 0 16, resid := (s.here.track k).resid || w.getLsbD 63 } ∧
        ∀ j, j ≠ k → t.here.track j = s.here.track j) ∧
      (w.getLsbD 60 = true → ∃ t, exec (.hownScrub k r) s = .next t ∧ (t.here.track k).scrub = true ∧
        (t.here.track k).pos = 0 ∧ (t.here.track k).move ≠ .idle ∧ (t.here.track k).valid = w.getLsbD 63 ∧
        ∀ j, j ≠ k → t.here.track j = s.here.track j)) ∧
    (∃ t, exec (.qownWrite r) s = .next t ∧ SameThread s t ∧ t.here.qown = mix 0 w 39 0) ∧
    (s.here.susp = [] → exec (.suspbWrite r) s = .next (done (s.setHere { s.here with
      suspb := mix (mix 0 w 63 63) w 51 19 })))) ∧
  (MonWrite s r → (∀ m : SlotId, (s.here.slots[m]).st = .free ∨ (s.here.slots[m]).st = .disabled ∨ m = s.cur.slot) →
    exec (.worldWrite r) s = .next (done
      (let u := s.setTh { s.th with line := none }
       u.setHere { u.here with world := mix 0 w 0 0, icache := [] })))

/-- The key ring (R404): a draw gives a slot a generation it did not hold, a discard empties it, both once every
controller has taken the change up; and the recorder's modes (R415). Where the
manual leaves room it rests on the model's choices (log entry 59). -/
def Obligations.KeyringAndRecorder : Prop :=
  ∀ (s : State) (n : BitVec 9),
  (s.krcmd.getLsbD 63 = false →
    (∃ t g, exec (.keyringDraw n) s = .next t ∧ t.keyNew = some (n, some g) ∧ agetD s.keyring n (some 0) ≠ some g ∧
      t.krcmd = BitVec.ofNat 64 (2 ^ (63 : Nat) + n.toNat * 2 ^ (16 : Nat) + 1) ∧ t.keyring = s.keyring ∧ t.mem = s.mem) ∧
    (∃ t, exec (.keyringDiscard n) s = .next t ∧ t.keyNew = some (n, none) ∧
      t.krcmd = BitVec.ofNat 64 (2 ^ (63 : Nat) + n.toNat * 2 ^ (16 : Nat) + 2) ∧ t.keyring = s.keyring ∧ t.mem = s.mem)) ∧
  (∀ g, s.keyNew = some (n, g) → ∃ t, exec .keyringChangeDone s = .next t ∧ agetD t.keyring n (some 0) = g ∧
    t.keyNew = none ∧ t.krcmd.getLsbD 63 = false ∧ t.mem = s.mem ∧
    ∀ m, m ≠ n → agetD t.keyring m (some 0) = agetD s.keyring m (some 0)) ∧
  (s.lvrctl.getLsbD 63 = false →
    (∃ t, exec .lvrRecord s = .next t ∧ t.lvr = [] ∧ t.lvrctl = mix (mix s.lvrctl 0 62 61) (-1) 63 63) ∧
    (∃ t, exec .lvrReplay s = .next t ∧ t.lvr = s.lvr ∧ t.lvrctl = mix (mix s.lvrctl 0 61 61) (-1) 63 62))

/-! ## The launch hierarchy -/

/-- `SPAWN` (R78, R85, R86, R117): a launch entry SEALED with the count under its graph, which counts it; the launch id in
the destination; one pending entry for every place that gets threads, holding entry PC, arguments, class and keys. -/
def Obligations.SpawnMakesALaunch : Prop :=
  ∀ (s : State) (d : SReg) (spread : Bool) (cnt rng args q : Src) (b : BTarget) (go i : Nat),
  s.pair = none → s.th.shadow = none → NoLoop s s.th →
  Full s ([sN d, cnt.need, rng.need] ++ (argRegs args.reg).map (fun r => ⟨.s r, args.wait⟩) ++ [q.need] ++
    (List.range 8).map fun j => kN (BitVec.ofNat 3 j)) →
  IsTarget s b go → s.targetSub go = none → SpawnOk s (val s cnt) (val s rng) (val s q) →
  s.freeLaunch s.partHere = some i →
  ∃ t, exec (.spawn d spread cnt rng args q b) s = .next t ∧
    (let g := spawnGraph s (val s q)
     let e : EntryId := ⟨g.part, .launch, i⟩
     let gen := (s.lv e).gen + 1
     let l : Launch :=
       { part := g.part, id := BitVec.ofNat 16 (gen.toNat * 4096 + i), tenant := s.th.tenant
         first := (val s rng).toNat % 2 ^ (13 : Nat), places := (val s rng).toNat / 2 ^ (16 : Nat), n := (val s cnt).toNat, spread := spread
         pc := go, args := [s.th.sv args.reg, s.th.sv (args.reg + 1), s.th.sv (args.reg + 2), s.th.sv (args.reg + 3)]
         q := (val s q).setWidth 2, keys := s.th.k, tvec := s.th.tvec, level := s.th.level
         gate := if s.isCoupled s.cur.core then some s.cur.core else none }
     t.th = (wrote s d (BitVec.ofNat 64 (gen.toNat * 4096 + i))).th ∧
     t.lv e = ⟨.sealed, false, gen, s.th.tenant, g.idx, (val s cnt).toNat, none⟩ ∧
     t.lv g = { s.lv g with count := (s.lv g).count + 1 } ∧
     (∀ rel, rel < l.places → l.countAt rel ≠ 0 →
       ∃ p ∈ (t.cluster (clusterOf (s.launchCore l rel))).pending, p = ⟨l, rel, 0⟩))

/-- How a launch's threads are laid over its places (R85): thread j stands at place first + ((j div 16) mod p) under fill and at place
first + (j mod p) under spread, so every index from 0 to n − 1 stands at exactly one place, once. -/
def Obligations.LaunchIndicesCoverThePlaces : Prop :=
  ∀ (l : Launch), 0 < l.places →
  (∀ rel k, rel < l.places → k < l.countAt rel →
    rel = (if l.spread then l.nthIndex rel k % l.places else l.nthIndex rel k / 16 % l.places)) ∧
  (∀ rel k k', rel < l.places → k < k' → k' < l.countAt rel → l.nthIndex rel k < l.nthIndex rel k') ∧
  (∀ rel k, rel < l.places → k < l.countAt rel → l.nthIndex rel k < l.n) ∧
  (∀ x, x < l.n → ∃ rel k, rel < l.places ∧ k < l.countAt rel ∧ l.nthIndex rel k = x ∧
    ∀ rel' k', rel' < l.places → k' < l.countAt rel' → l.nthIndex rel' k' = x → rel' = rel ∧ k' = k)

/-- `JOIN` (R80, R119) waits for a live entry and completes at once on one that is done; `CANCEL` (R82, R120) sets CANC and
seals the entry. -/
def Obligations.JoinWaitsAndCancelMarks : Prop :=
  ∀ (s : State) (l : Lvl) (a : Src), Ready s [a.need] → (val s a).toNat < 2 ^ lvlBits l →
  (s.named l (val s a) = none → exec (.join l a) s = .next (done s) ∧ exec (.cancel l a) s = .next (done s)) ∧
  (∀ e, s.named l (val s a) = some e →
    ((s.lv e).tenant = s.th.tenant →
      exec (.join l a) s = .next ((done s).park (.entry e)) ∧
      ∃ t, exec (.cancel l a) s = .next t ∧ (t.lv e).canc = true ∧ (t.lv e).st ≠ .opened ∧
        (s.me.st = .ready → s.below s.cur.core s.th e = true → t.me.st = .draining)) ∧
    ((s.lv e).tenant ≠ s.th.tenant →
      exec (.join l a) s = .next (s.takeTrap ⟨0x02, BitVec.ofNat 64 l.num, 0, 0⟩) ∧
      exec (.cancel l a) s = .next (s.takeTrap ⟨0x02, BitVec.ofNat 64 l.num, 0, 0⟩)))

namespace Sys2Proof.Claims

/-- An operand in a precision (R134): all 64 bits, or bits [31:0] alone. -/
def operand (p : Prec) (x : Word) : Nat := match p with | .d => x.toNat | .s => x.toNat % 2 ^ (32 : Nat)

/-- The rounding mode of a field: its own, or the one `FSR`[12:10] holds, of which codes above 4 are never stored (R36,
R140). -/
def modeOf (r : Rnd) (fsr : Word) : RMode :=
  match r with
  | .fixed m => m
  | .dyn => match fsr.toNat / 2 ^ (10 : Nat) % 8 with | 0 => .rne | 1 => .rtz | 2 => .rdn | 3 => .rup | 4 => .rna | _ => .rne

/-- Rounding mode, OSAT and UFE of the thread (R135, R136, R140, R149). -/
def envOf (s : State) (r : Rnd) : FEnv :=
  ⟨modeOf r s.th.fsr, s.th.fsr.getLsbD 13, s.th.fsr.getLsbD 6 && !s.th.fpMask⟩

/-- Do exceptions trap (R139)? Bit i of `FSR`[9:5] enables exception i. -/
def FpTraps (s : State) (fl : Flags) : Prop := fl &&& s.th.fsr.extractLsb' 5 5 ≠ 0 ∧ s.th.fpMask = false

/-- The untrapped outcome of R139: the result is written, the exceptions are ORed into `FSR`[4:0]. -/
def fpWrote (s : State) (d : SReg) (r : FRes) : State :=
  done (s.setTh { s.th.setS d (BitVec.ofNat 64 r.val) with fsr := s.th.fsr ||| r.fl.setWidth 64 })

/-- The scalar floating-point instructions of two or more operands with their results, from the operations of R151 to R160. -/
def fpTwo (s : State) (p : Prec) (r : Rnd) (d : SReg) (a b : Src) : List (Instr × FRes) :=
  let f := precFmt p
  let x := operand p (val s a)
  let y := operand p (val s b)
  [(.fadd p r d a b, fAdd f (envOf s r) x y), (.fsub p r d a b, fSub f (envOf s r) x y),
   (.fmul p r d a b, fMul f (envOf s r) x y), (.fdiv p r d a b, fDiv f (envOf s r) x y)] ++
  ([MinMaxF.min, .max, .minnum, .maxnum].map fun k => (.fminmax k p d a b, fMinMax f k x y))

/-- Those of one operand. A conversion to a 32-bit signed integer arrives sign-extended (R95). -/
def fpOne (s : State) (p : Prec) (r : Rnd) (d : SReg) (a : Src) : List (Instr × FRes) :=
  let f := precFmt p
  let x := operand p (val s a)
  let i32 := fToInt f (modeOf r s.th.fsr) true 32 x
  [(.fsqrt p r d a, fSqrt f (envOf s r) x),
   (.fcvt .ff p r d a, fToF f (match p with | .d => fmtS | .s => fmtD) (envOf s r) x),
   (.fcvt .toI64 p r d a, fToInt f (modeOf r s.th.fsr) true 64 x),
   (.fcvt .toU64 p r d a, fToInt f (modeOf r s.th.fsr) false 64 x),
   (.fcvt .toI32 p r d a, ⟨((BitVec.ofNat 32 i32.val).signExtend 64).toNat, i32.fl⟩),
   (.fcvt .toU32 p r d a, fToInt f (modeOf r s.th.fsr) false 32 x),
   (.fcvt .ofI64 p r d a, intToF f (envOf s r) (val s a).toInt),
   (.fcvt .ofU64 p r d a, intToF f (envOf s r) (val s a).toNat),
   (.frint true p r d a, fRint f (modeOf r s.th.fsr) true x), (.frint false p r d a, fRint f (modeOf r s.th.fsr) false x)]

/-- m · 2^e ≤ n · 2^d. -/
def LeDy (m : Nat) (e : Int) (n : Nat) (d : Int) : Prop :=
  m * 2 ^ (e - min e d).toNat ≤ n * 2 ^ (d - min e d).toNat

/-- The midpoint of m · 2^e and n · 2^d, as a number and an exponent. -/
def midM (m : Nat) (e : Int) (n : Nat) (d : Int) : Nat := m * 2 ^ (e - min e d).toNat + n * 2 ^ (d - min e d).toNat
def midE (e d : Int) : Int := min e d - 1

/-- (−1)^s · m. -/
def signed (s : Bool) (m : Nat) : Int := if s then -(m : Int) else m

/-- The exact sum of (−1)^s · m · 2^e and (−1)^t · n · 2^d, in units of the smaller power (R135, R138): rounded once, with the sign of a
sum that is exactly zero. -/
def sumRounded (f : Fmt) (env : FEnv) (s : Bool) (m : Nat) (e : Int) (t : Bool) (n : Nat) (d : Int) : FRes :=
  let k := min e d
  let x : Int := signed s (m * 2 ^ (e - k).toNat) + signed t (n * 2 ^ (d - k).toNat)
  if x = 0 then ⟨f.signBit (if m = 0 ∧ n = 0 ∧ s = t then s else env.mode == .rdn), 0⟩
  else roundFin f env (decide (x < 0)) x.natAbs k

/-- The order and the equality of two decoded values, NaNs apart (R155, R156); zeros are equal. -/
def ValLt : FV → FV → Prop
  | .inf s, .inf t => s = true ∧ t = false
  | .inf s, .fin .. => s = true
  | .fin .., .inf t => t = false
  | .fin s m e, .fin t n d => signed s (m * 2 ^ (e - min e d).toNat) < signed t (n * 2 ^ (d - min e d).toNat)
  | _, _ => False
def ValEq : FV → FV → Prop
  | .inf s, .inf t => s = t
  | .fin s m e, .fin t n d => signed s (m * 2 ^ (e - min e d).toNat) = signed t (n * 2 ^ (d - min e d).toNat)
  | _, _ => False

/-- Modes that round a magnitude of sign `s` down, up, and to the nearest (R135). -/
def Down (mode : RMode) (s : Bool) : Prop := mode = .rtz ∨ (mode = .rdn ∧ s = false) ∨ (mode = .rup ∧ s = true)
def Up (mode : RMode) (s : Bool) : Prop := (mode = .rup ∧ s = false) ∨ (mode = .rdn ∧ s = true)
def Near (mode : RMode) : Prop := mode = .rne ∨ mode = .rna

/-- The exponent of the unit in the last place of the largest finite numbers. -/
def topExp (f : Fmt) : Int := f.qmin + (2 ^ f.eb - 3 : Nat)

/-- `r` is the exact magnitude v with sign `s` rounded once (R135, R136). v is given by what lies at or below and at or above it:
`lo m e` says m · 2^e ≤ v, `hi m e` says v ≤ m · 2^e. Overflow: v, rounded with an unbounded exponent, exceeds the largest finite
number; the default result. Otherwise the neighbour that the mode picks, ties to the even encoding or away from zero, NX when it
differs from v, UF when v is tiny. -/
def RoundedOnce (f : Fmt) (env : FEnv) (s : Bool) (lo hi : Nat → Int → Prop) (r : FRes) : Prop :=
  (r.fl &&& flOF ≠ 0 ↔
    (Down env.mode s ∧ lo (2 ^ f.p) (topExp f)) ∨ (Up env.mode s ∧ ¬ hi (2 ^ f.p - 1) (topExp f)) ∨
      (Near env.mode ∧ lo (2 ^ (f.p + 1) - 1) (topExp f - 1))) ∧
  (r.fl &&& flOF ≠ 0 → r.fl = flOF ||| flNX ∧ (Down env.mode s → r.val = f.signBit s + f.maxBits) ∧
    (¬ Down env.mode s → r.val = f.signBit s + f.infBits)) ∧
  (r.fl &&& flOF = 0 → r.fl &&& (flDZ ||| flNV) = 0 ∧
    (r.fl &&& flUF ≠ 0 ↔ (r.fl &&& flNX ≠ 0 ∨ env.ufe = true) ∧
      ((Down env.mode s ∧ ¬ lo (2 ^ (f.p - 1)) f.qmin) ∨ (Up env.mode s ∧ hi (2 ^ f.p - 1) (f.qmin - 1)) ∨
        (Near env.mode ∧ ¬ lo (2 ^ (f.p + 1) - 1) (f.qmin - 2)))) ∧
    ∃ (m : Nat) (e : Int), f.decode r.val = .fin s m e ∧ (r.fl &&& flNX = 0 ↔ lo m e ∧ hi m e) ∧
      ∀ (x n : Nat) (d : Int), x < 2 ^ f.width → f.decode x = .fin s n d →
        (Down env.mode s → lo m e ∧ (lo n d → LeDy n d m e)) ∧
        (Up env.mode s → hi m e ∧ (hi n d → LeDy m e n d)) ∧
        (Near env.mode →
          (¬ LeDy n d m e → hi (midM m e n d) (midE e d) ∧ (lo (midM m e n d) (midE e d) → env.mode = .rne ∧ r.val % 2 = 0)) ∧
          (¬ LeDy m e n d → lo (midM m e n d) (midE e d) ∧
            (hi (midM m e n d) (midE e d) → env.mode = .rna ∨ r.val % 2 = 0))))

/-- m · 2^e, with sign `s`, rounded to the integer magnitude n (R135). -/
def RoundedToInt (mode : RMode) (s : Bool) (m : Nat) (e : Int) (n : Nat) : Prop :=
  (Down mode s → LeDy n 0 m e ∧ ¬ LeDy (n + 1) 0 m e) ∧
  (Up mode s → LeDy m e n 0 ∧ (n ≠ 0 → ¬ LeDy m e (n - 1) 0)) ∧
  (Near mode → LeDy (2 * n - 1) (-1) m e ∧ LeDy m e (2 * n + 1) (-1) ∧
    (LeDy (2 * n + 1) (-1) m e → mode = .rne ∧ n % 2 = 0) ∧
    (n ≠ 0 → LeDy m e (2 * n - 1) (-1) → mode = .rna ∨ n % 2 = 0))

/-- The binary formats with infinities (R134, R235). -/
def ieee : List Fmt := [fmtD, fmtS, fmtBf, fmtH, fmtE5]

/-- An encoding that fits its format. -/
def Fits (f : Fmt) (a : Nat) : Prop := a < 2 ^ f.width

end Sys2Proof.Claims

open Sys2Proof Sys2Proof.Machine Sys2Proof.Claims

/-! ## Scalar floating point -/

/-- Scalar floating point (R139, R149, R151 to R160): without an enabled exception the result is written and the exceptions
are merged; with one, trap 0x07 reports the default result, the next PC and every exception, and nothing is written. -/
def Sys2Proof.Claims.FloatResultsAreWritten : Prop :=
  ∀ (s : State) (p : Prec) (r : Rnd) (d : SReg) (a b c : Src) (f : FmaF) (i : Instr) (v : FRes),
  ((Ready s (need2 d a b) ∧ (i, v) ∈ fpTwo s p r d a b) ∨ (Ready s (need1 d a) ∧ (i, v) ∈ fpOne s p r d a) ∨
    (Ready s [sN d, a.need, b.need, c.need] ∧ i = .fma f p r d a b c ∧
      v = fFma (precFmt p) (envOf s r) f (operand p (val s a)) (operand p (val s b)) (operand p (val s c)))) →
  (¬ FpTraps s v.fl → exec i s = .next (fpWrote s d v)) ∧
  (FpTraps s v.fl → exec i s = .next (s.takeTrap ⟨0x07, BitVec.ofNat 64 v.val, BitVec.ofNat 64 s.nextPC, v.fl⟩))

/-- What the operations compute on finite operands: the exact result rounded once (R135, R138, R152 to R154), in every format (R239);
division and square root of E4M3 round as its other operations do, but overflow by R240 alone. -/
def Sys2Proof.Claims.FiniteArithmeticIsExact : Prop :=
  ∀ (f : Fmt) (env : FEnv) (a b c : Nat) (s t u : Bool) (m n k : Nat) (e d x : Int), f ∈ fmtE4 :: ieee →
  f.decode a = .fin s m e → f.decode b = .fin t n d → f.decode c = .fin u k x →
  fAdd f env a b = sumRounded f env s m e t n d ∧ fSub f env a b = sumRounded f env s m e (!t) n d ∧
  fMul f env a b = roundFin f env (s != t) (m * n) (e + d) ∧
  fFma f env .pp a b c = sumRounded f env (s != t) (m * n) (e + d) u k x ∧
  fFma f env .pm a b c = sumRounded f env (s != t) (m * n) (e + d) (!u) k x ∧
  fFma f env .mp a b c = sumRounded f env (s == t) (m * n) (e + d) u k x ∧
  fFma f env .mm a b c = sumRounded f env (s == t) (m * n) (e + d) (!u) k x ∧
  (f ∈ ieee → m ≠ 0 → n ≠ 0 → RoundedOnce f env (s != t) (fun y i => LeDy (y * n) (i + d) m e) (fun y i => LeDy m e (y * n) (i + d))
    (fDiv f env a b)) ∧
  (f ∈ ieee → m ≠ 0 → s = false → RoundedOnce f env false (fun y i => LeDy (y * y) (2 * i) m e) (fun y i => LeDy m e (y * y) (2 * i))
    (fSqrt f env a))

/-- Minimum and maximum (R155): −0 below +0; a NaN operand gives the NaN of R137, or with `.minnum` and `.maxnum` the other
operand. -/
def Sys2Proof.Claims.MinMaxPicksAnOperand : Prop :=
  ∀ (f : Fmt) (a b : Nat), f ∈ ieee → a < 2 ^ f.width → b < 2 ^ f.width →
  let x := f.decode a
  let y := f.decode b
  let less : Prop := ValLt x y ∨ (ValEq x y ∧ x.sign = true ∧ y.sign = false)
  let nv : Flags := if x.isSNaN || y.isSNaN then flNV else 0
  (x.isNaN = false → y.isNaN = false → (∀ k ∈ [MinMaxF.min, .minnum], (less → fMinMax f k a b = ⟨a, 0⟩) ∧
      (¬ less → fMinMax f k a b = ⟨b, 0⟩)) ∧
    ∀ k ∈ [MinMaxF.max, .maxnum], (less → fMinMax f k a b = ⟨b, 0⟩) ∧ (¬ less → fMinMax f k a b = ⟨a, 0⟩)) ∧
  (∀ k ∈ [MinMaxF.min, .max, .minnum, .maxnum], x.isNaN = true → (y.isNaN = true ∨ k = .min ∨ k = .max) →
    fMinMax f k a b = ⟨a ||| f.quietBit, nv⟩) ∧
  (∀ k ∈ [MinMaxF.min, .max], x.isNaN = false → y.isNaN = true → fMinMax f k a b = ⟨b ||| f.quietBit, nv⟩) ∧
  (∀ k ∈ [MinMaxF.minnum, .maxnum], (x.isNaN = true → y.isNaN = false → fMinMax f k a b = ⟨b, nv⟩) ∧
    (x.isNaN = false → y.isNaN = true → fMinMax f k a b = ⟨a, nv⟩))

/-- Conversions and rounding to an integral value (R157, R160). `w`, `sg`: width of the integer type, is it signed. -/
def Sys2Proof.Claims.ConversionsRound : Prop :=
  ∀ (f g : Fmt) (env : FEnv) (a w : Nat) (sg : Bool) (i : Int), f ∈ fmtE4 :: ieee → g ∈ fmtE4 :: ieee →
  w ∈ [4, 8, 16, 32, 64] →
  let hi : Nat := if sg then 2 ^ (w - 1) - 1 else 2 ^ w - 1
  let lo : Nat := if sg then 2 ^ (w - 1) else 0
  let r := fToInt f env.mode sg w a
  (i = 0 → intToF g env i = ⟨0, 0⟩) ∧ (i ≠ 0 → intToF g env i = roundFin g env (decide (i < 0)) i.natAbs 0) ∧
  ((f.decode a).isNaN = true → r = ⟨hi, flNV⟩) ∧
  (f.decode a = .inf false → r = ⟨hi, flNV⟩) ∧ (f.decode a = .inf true → r = ⟨lo, flNV⟩) ∧
  (∀ s m e, f.decode a = .fin s m e →
    fToF f g env a = roundFin g env s m e ∧
    ∃ n, RoundedToInt env.mode s m e n ∧
      ((hi : Int) < signed s n → r = ⟨hi, flNV⟩) ∧
      (signed s n < (if sg then -(lo : Int) else 0) → r = ⟨lo, flNV⟩) ∧
      (signed s n ≤ hi → (if sg then -(lo : Int) else 0) ≤ signed s n →
        r.val = (BitVec.ofInt w (signed s n)).toNat ∧ (r.fl = 0 ∨ r.fl = flNX) ∧ (r.fl = 0 ↔ LeDy n 0 m e ∧ LeDy m e n 0)) ∧
      (f ∈ [fmtD, fmtS] → ∀ x : Bool, ∃ m' e', f.decode (fRint f env.mode x a).val = .fin s m' e' ∧ LeDy n 0 m' e' ∧ LeDy m' e' n 0 ∧
        ((fRint f env.mode x a).fl = 0 ∨ (fRint f env.mode x a).fl = flNX) ∧
        ((fRint f env.mode x a).fl = flNX ↔ x = true ∧ ¬ (LeDy n 0 m e ∧ LeDy m e n 0))))

/-- The scalar floating-point instructions (R135, R138, R139, R149, R151 to R155, R157, R160): what they write, and what their results are. -/
def Obligations.FloatWritesOrTraps : Prop :=
  Sys2Proof.Claims.FloatResultsAreWritten ∧ Sys2Proof.Claims.FiniteArithmeticIsExact ∧
  Sys2Proof.Claims.MinMaxPicksAnOperand ∧ Sys2Proof.Claims.ConversionsRound

/-- `FCMP`, `FCLASS` and `FSGN` (R156, R158, R159). -/
def Obligations.FloatComparesAndSigns : Prop :=
  ∀ (s : State) (p : Prec) (d : SReg) (c : BitVec 3) (a b : Src) (k : FCmpF) (g : SgnF),
  let f := precFmt p
  let x := operand p (val s a)
  let y := operand p (val s b)
  (Ready s [a.need, b.need] →
    let r := fCompare f k x y
    let u := f.decode x
    let v := f.decode y
    let un := u.isNaN || v.isNaN
    (r.1 = true ↔ match k with
      | .eq => ValEq u v
      | .lt => ValLt u v
      | .ltq => ValLt u v
      | .le => ValLt u v ∨ ValEq u v
      | .leq => ValLt u v ∨ ValEq u v
      | .un => un = true) ∧
    r.2 = (if u.isSNaN || v.isSNaN || ((k == .lt || k == .le) && un) then flNV else 0) ∧
    (¬ FpTraps s r.2 → exec (.fcmp k p c a b) s =
      .next (done (s.setTh { s.th.setC c r.1 with fsr := s.th.fsr ||| r.2.setWidth 64 }))) ∧
    (FpTraps s r.2 → exec (.fcmp k p c a b) s =
      .next (s.takeTrap ⟨0x07, if r.1 then 1 else 0, BitVec.ofNat 64 s.nextPC, r.2⟩))) ∧
  (Ready s (need1 d a) → ∃ w : Word, exec (.fclass p d a) s = .next (wrote s d w) ∧
    (match f.decode x with
     | .inf true => w = 1
     | .fin true m _ => w = if m = 0 then 8 else if m < 2 ^ (f.p - 1) then 4 else 2
     | .fin false m _ => w = if m = 0 then 16 else if m < 2 ^ (f.p - 1) then 32 else 64
     | .inf false => w = 128
     | .nan _ _ q => w = if q then 512 else 256)) ∧
  (Ready s (need2 d a b) → ∃ w : Word, exec (.fsgn g p d a b) s = .next (wrote s d w) ∧
    let top := f.width - 1
    (∀ i, i < top → w.getLsbD i = (val s a).getLsbD i) ∧
    (w.getLsbD top = match g with
      | .cp => (val s b).getLsbD top
      | .cpn => !(val s b).getLsbD top
      | .xor => (val s a).getLsbD top != (val s b).getLsbD top) ∧
    (∀ i, f.width ≤ i → w.getLsbD i = false))

/-- One rounding (R135, R136): the representable number that the mode picks, ties to even or away from zero; the overflow result of the
mode; inexact, underflow and overflow. -/
def Obligations.RoundingPicksTheNeighbour : Prop :=
  ∀ (f : Fmt) (env : FEnv) (s : Bool) (m : Nat) (e : Int), f ∈ ieee → m ≠ 0 →
  RoundedOnce f env s (fun y i => LeDy y i m e) (fun y i => LeDy m e y i) (roundFin f env s m e)

/-- NaN operands (R137): the first NaN among the operands, quieted, with NV when one of them signals. -/
def Sys2Proof.Claims.NaNsPropagate : Prop :=
  ∀ (f : Fmt) (env : FEnv) (a b : Nat), f ∈ ieee → Fits f a → Fits f b →
  ∀ op ∈ [fAdd, fSub, fMul, fDiv],
    ((f.decode a).isNaN = true → (op f env a b).val = (a ||| f.quietBit)) ∧
    ((f.decode a).isNaN = false → (f.decode b).isNaN = true → (op f env a b).val = (b ||| f.quietBit)) ∧
    ((f.decode a).isNaN = true ∨ (f.decode b).isNaN = true →
      (op f env a b).fl = if (f.decode a).isSNaN || (f.decode b).isSNaN then flNV else 0)

/-- Infinities and zeros (R137, R138): the invalid operations give the default NaN with NV; a nonzero number over zero is an
infinity with DZ; an exact zero sum is +0 but under RDN. -/
def Sys2Proof.Claims.InfinitiesAndZeros : Prop :=
  ∀ (f : Fmt) (env : FEnv) (a b : Nat), f ∈ ieee → Fits f a → Fits f b →
  let inf (s : Bool) : Nat := f.signBit s + f.infBits
  let bad : FRes := ⟨f.defNaN, flNV⟩
  (∀ s t, f.decode a = .inf s → f.decode b = .inf t →
    fAdd f env a b = (if s = t then ⟨a, 0⟩ else bad) ∧ fSub f env a b = (if s = t then bad else ⟨a, 0⟩) ∧
    fMul f env a b = ⟨inf (s != t), 0⟩ ∧ fDiv f env a b = bad) ∧
  (∀ s t m e, f.decode a = .inf s → f.decode b = .fin t m e →
    fAdd f env a b = ⟨a, 0⟩ ∧ fSub f env a b = ⟨a, 0⟩ ∧ fDiv f env a b = ⟨inf (s != t), 0⟩ ∧
    fMul f env a b = (if m = 0 then bad else ⟨inf (s != t), 0⟩)) ∧
  (∀ s t m e, f.decode a = .fin s m e → f.decode b = .inf t → fDiv f env a b = ⟨f.signBit (s != t), 0⟩) ∧
  (∀ s t m e d, f.decode a = .fin s m e → f.decode b = .fin t 0 d →
    fDiv f env a b = (if m = 0 then bad else ⟨inf (s != t), flDZ⟩)) ∧
  (∀ s m e, f.decode a = .fin s m e → f.decode b = .fin (!s) m e →
    fAdd f env a b = ⟨f.signBit (env.mode == .rdn), 0⟩) ∧
  (∀ s m e, f.decode a = .fin s m e → (m = 0 → fSqrt f env a = ⟨a, 0⟩) ∧ (m ≠ 0 → s = true → fSqrt f env a = bad))

/-- Floats at the special values (R136, R137). -/
def Obligations.NaNsInfinitiesAndZeros : Prop :=
  Sys2Proof.Claims.NaNsPropagate ∧ Sys2Proof.Claims.InfinitiesAndZeros


namespace Sys2Proof.Claims

/-! ## Memory operands and local accesses -/

/-- The forms of a memory operand (R35): key and immediate, key, X and immediate, key and X. `xs`: what X needs. -/
def Form (s : State) (mkI : MemI → Instr) (mkX : MemX → Instr) (i : Instr) (key : KReg) (off : Word) (xs : List Need) : Prop :=
  (∃ imm, i = mkI (.base key imm) ∧ off = imm.signExtend 64 ∧ xs = []) ∨
  (∃ x imm, i = mkI (.index key x imm) ∧ off = val s x + imm.signExtend 64 ∧ xs = [x.need]) ∨
  (∃ x, i = mkX ⟨key, x⟩ ∧ off = val s x ∧ xs = [x.need])

/-- A key that admits an access of `n` bytes at an offset (R168). -/
structure Admits (s : State) (key : KReg) (off : Word) (n : Nat) (rights : List Right) : Prop where
  tag : (s.th.k[key.toFin]).tag = true
  tenant : s.th.level = .user → (s.th.k[key.toFin]).tenant = s.th.tenant
  rights : ∀ r ∈ rights, (s.th.k[key.toFin]).has r = true
  bounds : off.toInt ≥ 0 ∧ off.toNat + n ≤ (s.th.k[key.toFin]).len

/-- The access lies at byte `a` of the issuing core's own local store: a local-store key (R164, R166), whose place is the
core's. -/
structure OwnStore (s : State) (key : KReg) (off : Word) (n align : Nat) (rights : List Right) (a : Nat) : Prop where
  admits : Admits s key off n rights
  kind : (s.th.k[key.toFin]).kind = 1
  addr : a = ((s.th.k[key.toFin]).w0.toNat % 2 ^ (31 : Nat) + off.toNat) % 2 ^ (18 : Nat)
  fits : a + n ≤ 2 ^ (18 : Nat) ∧ a % align = 0
  place : s.placeCore s.cur.core (((s.th.k[key.toFin]).w0.toNat % 2 ^ (31 : Nat) + off.toNat) / 2 ^ (18 : Nat)) = some s.cur.core

/-- Nothing is outstanding: no request, no drain, no coupled pair, no recorder, no held head, no swap of the thread's in the array queue. -/
structure Quiet (s : State) : Prop where
  reqs : s.reqs = []
  drains : s.drains = []
  pairs : s.pairs = []
  record : s.lvrctl.getLsbD 63 = false
  held : s.me.held = none
  swap : ∀ e ∈ s.here.arrayq, e.uid = s.th.uid → e.op ≠ .mswap

/-- Instructions and steps run one after the other. -/
def Runs : List Instr → State → State → Prop
  | [], s, t => s = t
  | i :: l, s, t => ∃ u, exec i s = .next u ∧ Runs l u t

/-- An access is issued, performs at its home and is answered (R188): the thread is READY again, and device memory and every
other core are as before. -/
def Served (s : State) (i : Instr) (t : State) : Prop :=
  (∃ id, Runs [i, .perform id, .accessReply id] s t) ∧ t.me.st = .ready ∧ t.mem = s.mem ∧
    ∀ c, c ≠ s.cur.core → t.core c = s.core c

/-- Bytes of a local store as a number, lowest first. -/
def lsNat (s : State) (a n : Nat) : Nat := ofBytes (s.here.ls.read a n)

/-- The local store differs at most in the `n` bytes at `a`. -/
def OnlyBytes (s t : State) (a n : Nat) : Prop := ∀ x, (x < a ∨ a + n ≤ x) → t.here.ls.byte x = s.here.ls.byte x

/-- Full/empty states, tags and poison of the words outside `n` words from word `i` on stay as they were. -/
def OnlyMarks (s t : State) (i n : Nat) : Prop := ∀ x, (x < i ∨ i + n ≤ x) →
  t.here.ls.tag x = s.here.ls.tag x ∧ t.here.ls.bad x = s.here.ls.bad x ∧ t.here.ls.isFull x = s.here.ls.isFull x

/-- The bytes at `a` are the low bytes of a word. -/
def Stored (t : State) (a n : Nat) (w : Word) : Prop := ∀ j, j < n → t.here.ls.byte (a + j) = w.extractLsb' (8 * j) 8

/-- Bit `i` from byte `a` on. -/
def lsBit (s : State) (a i : Nat) : Bool := (s.here.ls.byte (a + i / 8)).getLsbD (i % 8)

/-- A value of `n` bytes, sign-extended or not (R196). -/
def extended (sx : Bool) (n x : Nat) : Word :=
  if sx then (BitVec.ofNat (8 * n) x).signExtend 64 else BitVec.ofNat 64 x

/-- What an atomic operation writes (R202). -/
def amoWrites (f : AmoF) (w : Nat) (old a b : BitVec w) : BitVec w :=
  match f with
  | .add => old + a
  | .swap => a
  | .cas => if old = b then a else old
  | .and => old &&& a
  | .or => old ||| a
  | .xor => old ^^^ a
  | .min => if a.slt old then a else old
  | .max => if old.slt a then a else old
  | .minu => if a.ult old then a else old
  | .maxu => if old.ult a then a else old

/-- The bound tile is the thread's own (R269, R274). -/
def OwnTile (s : State) (tl : TileId) : Prop :=
  s.th.bound = some tl ∧ (s.here.aown[tl.toFin]).getLsbD 62 = false ∧
    (s.th.level = .mon ∨ ownedBy s.here.aown[tl.toFin] s.th = true)

end Sys2Proof.Claims

open Sys2Proof Sys2Proof.Machine Sys2Proof.Claims

/-! ## Memory -/

/-- Loads in every addressing mode (R35, R188, R196), on the core's own local store: the register takes the bytes, lowest
first, extended as the form says; memory is unchanged; the post-increment form also adds the size to X. -/
def Sys2Proof.Claims.LoadsReadTheLocalStore : Prop :=
  ∀ (s : State) (z : Size) (sx : Bool) (d : SReg) (i : Instr) (key : KReg) (off : Word) (xs : List Need) (x : Src) (a : Nat),
  Quiet s → Ready s (sN d :: xs ++ [kN key]) → OwnStore s key off z.bytes z.bytes [.read] a →
  s.here.ls.bad (a / 8) = false →
  let v := extended sx z.bytes (lsNat s a z.bytes)
  (Form s (.ld z sx false d) (.ldIndexed z sx false d) i key off xs →
    ∃ t, Served s i t ∧ t.th = (wrote s d v).th ∧ t.here.ls = s.here.ls) ∧
  (x.reg ≠ d → off = val s x → xs = [x.need] →
    ∃ t, Served s (.ldPostinc z sx false d ⟨key, x⟩) t ∧ t.here.ls = s.here.ls ∧
      t.th = (done (s.setTh ((s.th.setS d v).setS x.reg (val s x + BitVec.ofNat 64 z.bytes)))).th)

/-- Stores in every addressing mode (R35, R170, R180, R188, R196), on the core's own local store: exactly the form's bytes
at the address change, to the low bytes of the source; the word's tag is cleared; no register changes but X of the
post-increment form. -/
def Sys2Proof.Claims.StoresWriteTheLocalStore : Prop :=
  ∀ (s : State) (z : Size) (d : SReg) (i : Instr) (key : KReg) (off : Word) (xs : List Need) (x : Src) (a : Nat),
  Quiet s → Ready s (sN d :: xs ++ [kN key]) → OwnStore s key off z.bytes z.bytes [.write] a → s.here.ls.wf = true →
  let wrote' (t : State) : Prop := Stored t a z.bytes (s.th.sv d) ∧ OnlyBytes s t a z.bytes ∧ t.here.ls.tag (a / 8) = false ∧
    t.here.ls.bad (a / 8) = (if z = .b64 then false else s.here.ls.bad (a / 8)) ∧ t.here.ls.empty = s.here.ls.empty ∧
    OnlyMarks s t (a / 8) 1
  (Form s (.st z false d) (.stIndexed z false d) i key off xs → ∃ t, Served s i t ∧ t.th = (done s).th ∧ wrote' t) ∧
  (off = val s x → xs = [x.need] → ∃ t, Served s (.stPostinc z false d ⟨key, x⟩) t ∧ wrote' t ∧
    t.th = (done (s.setTh (s.th.setS x.reg (val s x + BitVec.ofNat 64 z.bytes)))).th)

/-- Loads and stores of the local store (R188, R196): the value read, the bytes written, all others as before. -/
def Obligations.LoadsAndStoresReachTheLocalStore : Prop :=
  Sys2Proof.Claims.LoadsReadTheLocalStore ∧ Sys2Proof.Claims.StoresWriteTheLocalStore


/-- `LDB` and `STB` (R170, R180, R197): the field of S(X) bits at bit offset `BITA`, across a word boundary too; `BITA` moves past it. A
store clears the tags of the words it covers and leaves their poison. -/
def Obligations.BitFieldsAreReadAndWritten : Prop :=
  ∀ (s : State) (sx : Bool) (d : SReg) (key : KReg) (x : Src) (a : Nat),
  let b := s.th.bita.toNat % 2 ^ (55 : Nat)
  let n := (val s x).toNat
  let size := 8 * ((b + n - 1) / 64 - b / 64 + 1)
  let off : Word := BitVec.ofNat 64 (8 * (b / 64))
  let next : Word := BitVec.ofNat 64 ((b + n) % 2 ^ (55 : Nat))
  Quiet s → Ready s [sN d, x.need, kN key] → 1 ≤ n → n ≤ 64 → s.here.ls.wf = true →
  (OwnStore s key off size 8 [.read] a → (∀ j, j < size → s.here.ls.bad ((a + j) / 8) = false) →
    ∃ t w, Served s (.ldb sx d ⟨key, x⟩) t ∧ t.here.ls = s.here.ls ∧
      t.th = (done (s.setTh { s.th.setS d w with bita := next })).th ∧
      (∀ j, j < n → w.getLsbD j = lsBit s a (b % 64 + j)) ∧
      (∀ j, n ≤ j → j < 64 → w.getLsbD j = (sx && lsBit s a (b % 64 + n - 1)))) ∧
  (OwnStore s key off size 8 [.write] a →
    ∃ t, Served s (.stb d ⟨key, x⟩) t ∧ t.th = (done (s.setTh { s.th with bita := next })).th ∧
      t.here.ls.empty = s.here.ls.empty ∧ (∀ x, t.here.ls.bad x = s.here.ls.bad x) ∧ OnlyMarks s t (a / 8) (size / 8) ∧
      (∀ x, a / 8 ≤ x → x < a / 8 + size / 8 → t.here.ls.tag x = false) ∧
      ∀ j, lsBit t 0 j = if 8 * a + b % 64 ≤ j ∧ j < 8 * a + b % 64 + n then (s.th.sv d).getLsbD (j - 8 * a - b % 64)
        else lsBit s 0 j)

/-- Sync accesses and atomics (R170, R199, R202) whose condition holds, on the core's own local store: what they read, write and leave. A
write clears the word's tag; a compare-and-swap that does not match writes nothing. -/
def Obligations.SyncAndAtomicAccesses : Prop :=
  ∀ (s : State) (d : SReg) (i : Instr) (key : KReg) (off : Word) (xs : List Need) (a : Nat), Quiet s → s.here.ls.wf = true →
  s.here.ls.bad (a / 8) = false →
  (∀ m : LdsMode, Ready s (sN d :: xs ++ [kN key]) → Form s (.lds m d) (.ldsIndexed m d) i key off xs →
    OwnStore s key off 8 8 (if m = .take then [.read, .write, .sync] else [.read, .sync]) a →
    (m = .full ∨ m = .take → s.here.ls.isFull (a / 8) = true) →
    ∃ t, Served s i t ∧ OnlyBytes s t 0 0 ∧ OnlyMarks s t (a / 8) 1 ∧ t.here.ls.tag (a / 8) = s.here.ls.tag (a / 8) ∧
      t.here.ls.bad (a / 8) = false ∧
      t.th = (wrote s d (if m = .state then (if s.here.ls.isFull (a / 8) then 1 else 0) else BitVec.ofNat 64 (lsNat s a 8))).th ∧
      t.here.ls.isFull (a / 8) = (if m = .take then false else s.here.ls.isFull (a / 8))) ∧
  (∀ m : StsMode, Ready s (sN d :: xs ++ [kN key]) → Form s (.sts m d) (.stsIndexed m d) i key off xs →
    OwnStore s key off 8 8 [.write, .sync] a → (m = .fill → s.here.ls.isFull (a / 8) = false) →
    ∃ t, Served s i t ∧ t.th = (done s).th ∧ Stored t a 8 (s.th.sv d) ∧ OnlyBytes s t a 8 ∧ OnlyMarks s t (a / 8) 1 ∧
      t.here.ls.tag (a / 8) = false ∧ t.here.ls.bad (a / 8) = false ∧
      t.here.ls.isFull (a / 8) = decide (m ≠ .clear)) ∧
  (∀ (f : AmoF) (wide : Bool) (p q : Src),
    let n := if wide then 8 else 4
    Ready s ([sN d, p.need, q.need] ++ xs ++ [kN key]) →
    Form s (fun m => .amo f wide d (.imm m) p q) (fun m => .amo f wide d (.idx m) p q) i key off xs →
    OwnStore s key off n n [.read, .write, .sync] a →
    ∃ t, Served s i t ∧ OnlyBytes s t a n ∧ t.here.ls.empty = s.here.ls.empty ∧ OnlyMarks s t (a / 8) 1 ∧
      t.here.ls.bad (a / 8) = false ∧
      (let old : BitVec (8 * n) := BitVec.ofNat (8 * n) (lsNat s a n)
       t.th = (wrote s d (old.signExtend 64)).th ∧
       t.here.ls.tag (a / 8) = (if f = .cas ∧ old ≠ (val s q).setWidth _ then s.here.ls.tag (a / 8) else false) ∧
       Stored t a n ((amoWrites f (8 * n) old ((val s p).setWidth _) ((val s q).setWidth _)).setWidth 64)))

/-- `KLD` and `KST` (R184) move both words of a key with its tag; `LDV` and `STV` (R170, R198) move a row of the bound tile, a store
clearing the tags of its words. -/
def Obligations.KeysAndRowsMove : Prop :=
  ∀ (s : State) (i : Instr) (key : KReg) (off : Word) (xs : List Need) (a : Nat), Quiet s → s.here.ls.wf = true →
  (∀ k : KReg, Ready s (kN k :: xs ++ [kN key]) →
    (Form s (.kld k) (.kldIndexed k) i key off xs → OwnStore s key off 16 16 [.read, .cap] a →
      s.here.ls.bad (a / 8) = false → s.here.ls.bad (a / 8 + 1) = false →
      ∃ t, Served s i t ∧ t.here.ls = s.here.ls ∧
        t.th = (done (s.setTh (s.th.setK k ⟨BitVec.ofNat 64 (lsNat s a 8), BitVec.ofNat 64 (lsNat s (a + 8) 8),
          s.here.ls.tag (a / 8) && s.here.ls.tag (a / 8 + 1), .full⟩))).th) ∧
    (Form s (.kst k) (.kstIndexed k) i key off xs → OwnStore s key off 16 16 [.write, .cap] a →
      ∃ t, Served s i t ∧ t.th = (done s).th ∧ OnlyBytes s t a 16 ∧ OnlyMarks s t (a / 8) 2 ∧
        t.here.ls.empty = s.here.ls.empty ∧ t.here.ls.bad (a / 8) = false ∧ t.here.ls.bad (a / 8 + 1) = false ∧
        Stored t a 8 (s.th.k[k.toFin]).w0 ∧
        Stored t (a + 8) 8 (s.th.k[k.toFin]).w1 ∧ t.here.ls.tag (a / 8) = (s.th.k[k.toFin]).tag ∧
        t.here.ls.tag (a / 8 + 1) = (s.th.k[k.toFin]).tag)) ∧
  (∀ (r : VReg) (tl : TileId), OwnTile s tl → Ready s (vN r :: xs ++ [kN key]) →
    (Form s (.ldv false r) (.ldvIndexed false r) i key off xs → OwnStore s key off 128 128 [.read] a →
      (∀ j, j < 16 → s.here.ls.bad (a / 8 + j) = false) → s.heldRow s.cur.core tl r = false →
      ∃ t, Served s i t ∧ t.here.ls = s.here.ls ∧ t.th = (done s).th ∧ (t.here.tiles[tl.toFin][r.toFin]).f = .full ∧
        (∀ j, j < 128 → (t.here.tiles[tl.toFin][r.toFin]).v.extractLsb' (8 * j) 8 = s.here.ls.byte (a + j)) ∧
        (∀ (x : Fin 4) (y : Fin 32), (x, y) ≠ (tl.toFin, r.toFin) → t.here.tiles[x][y] = s.here.tiles[x][y])) ∧
    (Form s (.stv false r) (.stvIndexed false r) i key off xs → OwnStore s key off 128 128 [.write] a →
      ∃ t, Served s i t ∧ t.th = (done s).th ∧ t.here.tiles = s.here.tiles ∧ OnlyBytes s t a 128 ∧ OnlyMarks s t (a / 8) 16 ∧
        t.here.ls.empty = s.here.ls.empty ∧
        (∀ j, j < 16 → t.here.ls.tag (a / 8 + j) = false ∧ t.here.ls.bad (a / 8 + j) = false) ∧
        ∀ j, j < 128 → t.here.ls.byte (a + j) = (s.here.tiles[tl.toFin][r.toFin]).v.extractLsb' (8 * j) 8))

namespace Sys2Proof.Claims

/-- Trap 0x05 of a key (R169): kind, key register, missing right. -/
def keyTrap (kind : Nat) (key : KReg) (right : Nat) (info2 : Word) : TrapInfo :=
  ⟨0x05, BitVec.ofNat 64 (kind + 16 * key.toNat + 128 + 256 * right), info2, 0⟩

/-- The access lies in device memory at virtual address `va` (R166, R168). -/
structure InDevice (s : State) (key : KReg) (off : Word) (n align : Nat) (rights : List Right) (va : Nat) : Prop where
  admits : Admits s key off n rights
  kind : (s.th.k[key.toFin]).kind ≠ 1
  addr : va = (s.th.k[key.toFin]).base + off.toNat
  aligned : va % align = 0

/-- An ordinary access by its forms: the operation at the home, the register its reply goes to, its size, which is also its
alignment, its rights, and the registers it names beside the address. -/
structure Acc where
  mkI : MemI → Instr
  mkX : MemX → Instr
  op : Op
  dst : Dst
  size : Nat
  rights : List Right
  regs : List Need

/-- The ordinary accesses (R184, R188, R196, R198, R199, R202). -/
def accs (s : State) (z : Size) (sx : Bool) (d : SReg) (k : KReg) (r : VReg) (tl : TileId) (lm : LdsMode) (sm : StsMode)
    (f : AmoF) (wide : Bool) (p q : Src) : List Acc :=
  let n := if wide then 8 else 4
  [⟨.ld z sx false d, .ldIndexed z sx false d, .ld z.bytes sx, .s d, z.bytes, [.read], [sN d]⟩,
   ⟨.st z false d, .stIndexed z false d, .st z.bytes (s.th.sv d), .none, z.bytes, [.write], [sN d]⟩,
   ⟨.lds lm d, .ldsIndexed lm d, .lds lm, .s d, 8, if lm = .take then [.read, .write, .sync] else [.read, .sync], [sN d]⟩,
   ⟨.sts sm d, .stsIndexed sm d, .sts sm (s.th.sv d), .none, 8, [.write, .sync], [sN d]⟩,
   ⟨fun m => .amo f wide d (.imm m) p q, fun m => .amo f wide d (.idx m) p q, .amo f n (val s p) (val s q), .s d, n,
     [.read, .write, .sync], [sN d, p.need, q.need]⟩,
   ⟨.kld k, .kldIndexed k, .kld, .k k, 16, [.read, .cap], [kN k]⟩,
   ⟨.kst k, .kstIndexed k, .kst (s.th.k[k.toFin]).w0 (s.th.k[k.toFin]).w1 (s.th.k[k.toFin]).tag, .none, 16, [.write, .cap],
     [kN k]⟩,
   ⟨.ldv false r, .ldvIndexed false r, .ldv, .v r, 128, [.read], [vN r]⟩,
   ⟨.stv false r, .stvIndexed false r, .stv (s.here.tiles[tl.toFin][r.toFin]).v, .none, 128, [.write], [vN r]⟩]

/-- Relaxed accesses of a thread that count against the limit of 8 (R195). -/
def relaxedOut (s : State) : Nat :=
  (s.reqs.filter fun r => r.uid == s.th.uid && r.relaxed &&
    (r.dst != .none || r.stage == .rows || r.stage == .port || r.stage == .miss || r.stage == .walk || r.stage == .page)).length

/-- Row-fault records that the thread holds or that its outstanding relaxed `LDV`s may leave (R272). -/
def rowRecords (s : State) : Nat :=
  s.th.rowFaults.length + (s.reqs.filter fun r => r.uid == s.th.uid && r.row.isSome).length

end Sys2Proof.Claims

open Sys2Proof Sys2Proof.Machine Sys2Proof.Claims

/-- An ordinary access to device memory (R168, R188) sends one request, with the operation, the address and the tenant of the
key, to the port of its cluster, and parks its thread; no register and no byte changes until it is answered. -/
def Obligations.DeviceAccessesSetOut : Prop :=
  ∀ (s : State) (z : Size) (sx : Bool) (d : SReg) (k : KReg) (r : VReg) (tl : TileId) (lm : LdsMode) (sm : StsMode)
    (f : AmoF) (wide : Bool) (p q : Src) (c : Acc) (i : Instr) (key : KReg) (off : Word) (xs : List Need) (va : Nat),
  c ∈ accs s z sx d k r tl lm sm f wide p q → Form s c.mkI c.mkX i key off xs → Ready s (c.regs ++ xs ++ [kN key]) →
  (c.regs = [vN r] → OwnTile s tl ∧ s.heldRow s.cur.core tl r = false) → InDevice s key off c.size c.size c.rights va → s.drains = [] → s.me.refusal = none →
  ∃ t x, exec i s = .next t ∧ t.reqs = s.reqs ++ [x] ∧ x.op = c.op ∧ x.dst = c.dst ∧ x.size = c.size ∧ x.dev = true ∧
    x.va = va ∧ x.tenant = (s.th.k[key.toFin]).tenant ∧ x.stage = .port ∧ x.relaxed = false ∧ x.uid = s.th.uid ∧
    x.core = s.cur.core ∧ x.slot = s.cur.slot ∧ x.id = s.serial ∧
    t.me.st = .parked ∧ t.me.wait = .access ∧ t.th = s.th ∧ t.mem = s.mem ∧ t.here.ls = s.here.ls

/-- A relaxed access (R188, R195, R196, R198) completes at issue: a load leaves its register or row empty until the result
with the request's number arrives, a store is posted; X of the post-increment form moves on at once. With 8 outstanding it
parks instead, and an `LDV` also with 8 row-fault records that its thread holds or may still get (R272). -/
def Obligations.RelaxedAccessesComplete : Prop :=
  ∀ (s : State) (z : Size) (sx : Bool) (d : SReg) (r : VReg) (tl : TileId) (i : Instr) (key : KReg) (off : Word)
    (xs : List Need) (x : Src) (va : Nat),
  let post := s.th.setS x.reg (val s x + BitVec.ofNat 64 z.bytes)
  (Ready s (sN d :: xs ++ [kN key]) → InDevice s key off z.bytes z.bytes [.read] va →
    (relaxedOut s < 8 →
      (Form s (.ld z sx true d) (.ldIndexed z sx true d) i key off xs → ∃ t q, exec i s = .next t ∧ t.reqs = s.reqs ++ [q] ∧
        q.op = .ld z.bytes sx ∧ q.dst = .tok ∧ q.va = va ∧ q.stage = .port ∧ q.relaxed = true ∧ q.id = s.serial ∧
        t.th = (done (s.setTh (s.th.emptyS d s.serial))).th ∧ t.mem = s.mem) ∧
      (off = val s x → xs = [x.need] → ∃ t q, exec (.ldPostinc z sx true d ⟨key, x⟩) s = .next t ∧ t.reqs = s.reqs ++ [q] ∧
        q.op = .ld z.bytes sx ∧ q.dst = .tok ∧ q.va = va ∧ t.th = (done (s.setTh (post.emptyS d s.serial))).th)) ∧
    (8 ≤ relaxedOut s → Form s (.ld z sx true d) (.ldIndexed z sx true d) i key off xs →
      ∃ t, exec i s = .next t ∧ t.me.st = .parked ∧ t.me.wait = .relaxed ∧ t.reqs = s.reqs ∧ t.th = s.th)) ∧
  (Ready s (sN d :: xs ++ [kN key]) → InDevice s key off z.bytes z.bytes [.write] va → relaxedOut s < 8 →
    (Form s (.st z true d) (.stIndexed z true d) i key off xs → ∃ t q, exec i s = .next t ∧ t.reqs = s.reqs ++ [q] ∧
      q.op = .st z.bytes (s.th.sv d) ∧ q.dst = .none ∧ q.va = va ∧ q.relaxed = true ∧ t.th = (done s).th ∧ t.mem = s.mem) ∧
    (off = val s x → xs = [x.need] → ∃ t q, exec (.stPostinc z true d ⟨key, x⟩) s = .next t ∧ t.reqs = s.reqs ++ [q] ∧
      q.op = .st z.bytes (s.th.sv d) ∧ q.va = va ∧ t.th = (done (s.setTh post)).th)) ∧
  (OwnTile s tl → Ready s (vN r :: xs ++ [kN key]) → relaxedOut s < 8 →
    (InDevice s key off 128 128 [.read] va → rowRecords s < 8 → s.heldRow s.cur.core tl r = false →
      Form s (.ldv true r) (.ldvIndexed true r) i key off xs → ∃ t q, exec i s = .next t ∧ t.reqs = s.reqs ++ [q] ∧
        q.op = .ldv ∧ q.dst = .tok ∧ q.va = va ∧ t.th = (done s).th ∧
        q.row = some (tl, r) ∧ (t.here.tiles[tl.toFin][r.toFin]).f = .empty s.serial) ∧
    (InDevice s key off 128 128 [.read] va → 8 ≤ rowRecords s → s.heldRow s.cur.core tl r = false →
      Form s (.ldv true r) (.ldvIndexed true r) i key off xs →
      ∃ t, exec i s = .next t ∧ t.me.st = .parked ∧ t.me.wait = .records ∧ t.reqs = s.reqs ∧ t.th = s.th) ∧
    (InDevice s key off 128 128 [.write] va → Form s (.stv true r) (.stvIndexed true r) i key off xs →
      ∃ t q, exec i s = .next t ∧ t.reqs = s.reqs ++ [q] ∧ q.op = .stv (s.here.tiles[tl.toFin][r.toFin]).v ∧ q.va = va ∧
        t.th = (done s).th))

/-- The key check in its order (R168, R169), and the alignment after it (R192): a load whose key or address fails takes the
trap, with no request sent and nothing changed before it. -/
def Obligations.KeyChecksTrapInOrder : Prop :=
  ∀ (s : State) (z : Size) (sx : Bool) (d : SReg) (i : Instr) (key : KReg) (off : Word) (xs : List Need),
  Ready s (sN d :: xs ++ [kN key]) → Form s (.ld z sx false d) (.ldIndexed z sx false d) i key off xs →
  let k := s.th.k[key.toFin]
  let mine := s.th.level = .user → k.tenant = s.th.tenant
  let inside := 0 ≤ off.toInt ∧ off.toNat + z.bytes ≤ k.len
  (k.tag = false → exec i s = .next (s.takeTrap (keyTrap 0 key 0 off))) ∧
  (k.tag = true → s.th.level = .user → k.tenant ≠ s.th.tenant → exec i s = .next (s.takeTrap (keyTrap 1 key 0 off))) ∧
  (k.tag = true → mine → k.has .read = false → exec i s = .next (s.takeTrap (keyTrap 2 key 0 off))) ∧
  (k.tag = true → mine → k.has .read = true → ¬ inside → exec i s = .next (s.takeTrap (keyTrap 3 key 0 off))) ∧
  (k.tag = true → mine → k.has .read = true → inside → k.kind ≠ 1 → (k.base + off.toNat) % z.bytes ≠ 0 →
    exec i s = .next (s.takeTrap ⟨0x06, off, 0, 0⟩))

/-- `KNARROW`, `KINFO` and `HARVEST` (R185 to R187). -/
def Obligations.KeysNarrowAndTell : Prop :=
  ∀ (s : State) (d : SReg) (kd : KReg) (k : KSrc) (o l m a b : Src),
  let x := s.th.k[k.reg.toFin]
  (Ready s [kN kd, k.need, o.need, l.need, m.need] → x.tag = true → (val s m).toNat < 64 →
    (val s o).toNat + (val s l).toNat ≤ x.len →
    ∃ y : KCell, exec (.knarrow kd k o l m) s = .next (done (s.setTh (s.th.setK kd y))) ∧
      (x.base + (val s o).toNat < 2 ^ (52 : Nat) → y.base = x.base + (val s o).toNat) ∧ y.len = (val s l).toNat ∧
      y.rights = Nat.land x.rights (val s m).toNat ∧ y.kind = x.kind ∧ y.tenant = x.tenant ∧ y.tag = true ∧ y.f = .full) ∧
  (Ready s [kN kd, k.need, o.need, l.need, m.need] →
    (x.tag = false → exec (.knarrow kd k o l m) s = .next (s.takeTrap (keyTrap 0 k.reg 0 (val s o)))) ∧
    (x.tag = true → x.len < (val s o).toNat + (val s l).toNat ∨ 64 ≤ (val s m).toNat →
      exec (.knarrow kd k o l m) s = .next (s.takeTrap (keyTrap 7 k.reg 0 (val s o))))) ∧
  (Ready s [sN d, k.need] →
    exec (.kinfo .base d k) s = .next (wrote s d (x.w0 &&& 0xFFFFFFFFFFFFF)) ∧
    exec (.kinfo .limit d k) s = .next (wrote s d (x.w1 &&& 0xFFFFFFFFFFFFF)) ∧
    exec (.kinfo .rights d k) s = .next (wrote s d ((x.w0.extractLsb' 52 6).setWidth 64 + (x.w0.extractLsb' 61 2).setWidth 64 * 256)) ∧
    exec (.kinfo .tenant d k) s = .next (wrote s d ((x.w1.extractLsb' 52 9).setWidth 64)) ∧
    exec (.kinfo .place d k) s =
      .next (wrote s d (if x.w0.extractLsb' 61 2 = 1 then (x.w0.extractLsb' 18 13).setWidth 64 else 0)) ∧
    exec (.kinfo .tag d k) s = .next (wrote s d (if x.tag then 1 else 0))) ∧
  (Ready s [sN d, a.need, b.need] → s.th.level ≠ .user → Quiet s → (val s a).toNat ≤ 589823 → (val s b).toNat ≤ 511 → (agetD s.dirty (val s a).toNat []).Nodup →
    ∃ t, Served s (.harvest d a b) t ∧ ∃ w : Word, t.th = (wrote s d w).th ∧
      (∀ j, j < 64 → w.getLsbD j = (agetD s.dirty (val s a).toNat []).contains (64 * (val s b).toNat + j)) ∧
      ∀ g, (agetD t.dirty (val s a).toNat []).contains g =
        ((agetD s.dirty (val s a).toNat []).contains g && g / 64 != (val s b).toNat))

/-- `FENCE` (R148, R203): with nothing to wait for it completes at once, or delivers the thread's deferred-store record; with
a relaxed access outstanding it parks. -/
def Sys2Proof.Claims.FenceWaitsForRelaxedAccesses : Prop :=
  ∀ (s : State) (sc : Scope),
  (Ready s [] → (∀ r ∈ s.reqs, r.uid = s.th.uid → r.relaxed = false) → s.th.tmask = 0 → s.here.acquire = [] →
    s.fabricStores = [] →
    (s.th.dstore = none → exec (.fence sc) s = .next (done s)) ∧
    (∀ x, s.th.dstore = some x → exec (.fence sc) s = .next ((s.setTh { s.th with dstore := none }).deliver none x))) ∧
  (Ready s [] → (∃ r ∈ s.reqs, r.uid = s.th.uid ∧ r.relaxed = true ∧ r.dst ≠ .none) →
    ∃ t, exec (.fence sc) s = .next t ∧ t.me.st = .parked ∧ t.th = s.th ∧ t.mem = s.mem ∧ t.reqs = s.reqs ∧
      ∃ l, t.me.wait = .fence sc l)

namespace Sys2Proof.Claims

/-! ## Accesses on their way -/

/-- The only access in flight, with no drain, no coupled pair, no recorder, no fence probe and no swap of its thread's in the array queue. -/
structure Lone (s : State) (r : Req) : Prop where
  reqs : s.reqs = [r]
  drains : s.drains = []
  pairs : s.pairs = []
  record : s.lvrctl.getLsbD 63 = false
  probes : s.probes = []
  swap : ∀ e ∈ (s.core r.core).arrayq, e.uid = r.uid → e.op ≠ .mswap

/-- A word of a page table (R171, R403). -/
def tableWord (s : State) (a : Nat) : Word := s.rdW (.dev monKey) (a / 8)

/-- A valid intermediate entry without reserved bits (R172) and the table it names. -/
def Names (e : Word) (low : Nat) (next : Nat) : Prop :=
  e.getLsbD 0 = true ∧ e.toNat / 2 ^ (52 : Nat) = 0 ∧ e.toNat / 2 % 2 ^ (low - 1) = 0 ∧ next = e.toNat / 2 ^ low * 2 ^ low

/-- The leaf entry of a 2 MiB page lies at `a` (R171). -/
def LeafAt (s : State) (t : BitVec 9) (va a : Nat) : Prop :=
  ∃ n1 n2, Names (tableWord s ((s.tenant t).root + va / 2 ^ (42 : Nat) % 2 ^ (10 : Nat) * 8)) 13 n1 ∧
    Names (tableWord s (n1 + va / 2 ^ (32 : Nat) % 2 ^ (10 : Nat) * 8)) 14 n2 ∧ a = n2 + va / 2 ^ (21 : Nat) % 2 ^ (11 : Nat) * 8

/-- A valid leaf entry of a 2 MiB page without reserved bits (R172). -/
def GoodLeaf (e : Word) : Prop := e.getLsbD 0 = true ∧ e.toNat / 2 ^ (52 : Nat) % 2 ^ (10 : Nat) = 0 ∧ e.toNat / 16 % 2 ^ (17 : Nat) = 0

/-- Physical address under a 2 MiB leaf (R171). -/
def physical (e : Word) (va : Nat) : Nat := e.toNat / 2 ^ (21 : Nat) % 2 ^ (31 : Nat) * 2 ^ (21 : Nat) + va % 2 ^ (21 : Nat)

/-- An access of one page, outside every fine window and fabric window. -/
structure Plain2M (s : State) (r : Req) : Prop where
  dev : r.dev = true
  fine : r.fine = none
  size : 0 < r.size ∧ r.va % 2 ^ (10 : Nat) + r.size ≤ 2 ^ (10 : Nat)
  fabric : (s.tenant r.tenant).fabric = []

/-- A request answered with words, or with a trap; its reply is injected as number `n`. -/
def answered (n : Nat) (r : Req) (l : List Word) (tag : Bool) : Req :=
  { r with stage := .reply, reply := some (.words l tag), inj := n }
def refused (n : Nat) (r : Req) (cause : Nat) (info info2 : Word) : Req :=
  { r with stage := .reply, reply := some (.trap cause info info2), inj := n }

/-- The thread of an ordinary access waits for it in its slot. -/
def Waits (s : State) (r : Req) : Prop :=
  r.relaxed = false ∧ r.ordinary = true ∧ (s.slotAt r.core r.slot).th.uid = r.uid ∧ (s.slotAt r.core r.slot).st = .parked ∧
    (s.slotAt r.core r.slot).held = none

/-- A core of Waliasal that serves the page-request queues is in service (R24, R425). -/
def Serving (s : State) : Prop := s.roles[(0 : Fin 2)] ≠ .failed ∨ s.roles[(1 : Fin 2)] ≠ .failed

end Sys2Proof.Claims

open Sys2Proof Sys2Proof.Machine Sys2Proof.Claims

/-- Translation through the 2 MiB tables (R171, R174): a miss at the port waits for a walker, the walk caches the leaf in the
cluster's port, and the access then leaves for the physical address of the leaf's frame; a page that the entry does not open
to it is refused. Where the
manual leaves room it rests on the model's choices (log entries 24, 82). -/
def Obligations.PagesAreWalkedAndTranslated : Prop :=
  ∀ (s : State) (r : Req) (a : Nat),
  let e := tableWord s a
  let tag : BitVec 9 × Option Nat × Nat := (r.tenant, none, r.va / 2 ^ (21 : Nat) * 2 ^ (21 : Nat))
  Lone s r → Plain2M s r → LeafAt s r.tenant r.va a → GoodLeaf e →
  (r.stage = .port → aget (s.cluster (clusterOf r.core)).tcache tag = none →
    exec (.clusterPortTranslation r.id) s = .next { s with reqs := [{ r with stage := .walk }] }) ∧
  (r.stage = .walk → aget (s.cluster (clusterOf r.core)).tcache tag = none →
    ∃ t, exec (.pageTableWalk r.id) s = .next t ∧ t.reqs = [{ r with stage := .port }] ∧
      aget (t.cluster (clusterOf r.core)).tcache tag = some e ∧ t.mem = s.mem ∧ t.cores = s.cores) ∧
  (r.stage = .port → aget (s.cluster (clusterOf r.core)).tcache tag = some e →
    (r.op.writes = true → e.getLsbD 1 = true) →
    (physical e r.va ≤ 0x11FFFFFFFFF → (e.getLsbD 63 = true → r.sec = true) →
      (r.op.writes = true → e.getLsbD 62 = false) →
      ∃ t q, exec (.clusterPortTranslation r.id) s = .next t ∧ t.reqs = [q] ∧ q.stage = .home ∧
        q.pas = [(physical e r.va, r.size)] ∧ q.dt = e.getLsbD 3 ∧ q.op = r.op ∧ q.id = r.id ∧ t.mem = s.mem) ∧
    (0x11FFFFFFFFF < physical e r.va → r.relaxed = false → ∃ t, exec (.clusterPortTranslation r.id) s = .next t ∧
      t.reqs = [refused s.serial r 0x05 (BitVec.ofNat 64 (128 + 16 * r.key.toNat + 6)) (BitVec.ofNat 64 r.va)]) ∧
    (physical e r.va ≤ 0x11FFFFFFFFF → e.getLsbD 63 = true → r.sec = false → r.relaxed = false →
      ∃ t, exec (.clusterPortTranslation r.id) s = .next t ∧
        t.reqs = [refused s.serial r 0x05 (BitVec.ofNat 64 (128 + 16 * r.key.toNat + 4)) (BitVec.ofNat 64 r.va)]))

/-- Page faults (R175, R176, R178, R179): the walk of an absent page queues a request. A relaxed access waits for it; the thread of an
ordinary one parks with its bundle withdrawn, to reissue it once the page is there. A held request enters once there is room. The
pager's answer takes the entry off the queue, makes the page present, zeroed, with the rights given, charged when the tenant touches
it first, or refuses it; the waiter retries its translation, is woken, or ends in the trap. Where the manual leaves room it rests on
the model's choices (log entries 11, 66, 68). -/
def Obligations.PageFaultsAreQueuedAndServed : Prop :=
  ∀ (s : State) (r : Req) (d : BitVec 3) (a frame mid low : Nat) (w x sec : Bool),
  let q (y : PageWaiter) : PageReq := ⟨r.tenant, none, r.va, r.op.writes, false, [y]⟩
  let mine : PageWaiter := .thread r.core r.slot r.uid
  let k := s.tenant r.tenant
  let page : Option Nat × Nat := (none, r.va / 2 ^ (21 : Nat))
  let fits := frame * 2 ^ (21 : Nat) + 2 ^ (21 : Nat) ≤ 0x12000000000
  let made (t : State) : Prop := (t.die d).pageq = [] ∧
    tableWord t a = BitVec.ofNat 64 (frame * 2 ^ (21 : Nat) + 1 + (if w then 2 else 0) + (if x then 4 else 0) +
      (if sec then 2 ^ (63 : Nat) else 0)) ∧
    (∀ i, frame * 2 ^ (21 : Nat) ≤ i → i < frame * 2 ^ (21 : Nat) + 2 ^ (21 : Nat) → i / 8 ≠ a / 8 → t.mem.byte i = 0)
  (Plain2M s r → LeafAt s r.tenant r.va a → (tableWord s a).getLsbD 0 = false → d = dieOf r.core →
    (Lone s r → r.stage = .walk → s.fineOf r.core r.tenant r.va = none →
      aget (s.cluster (clusterOf r.core)).tcache (r.tenant, none, r.va / 2 ^ (21 : Nat) * 2 ^ (21 : Nat)) = none →
      (∀ y ∈ (s.die d).pageq, y.tenant ≠ r.tenant) → (s.die d).pageq.length < 256 →
      (s.die d).active.length < 64 → r.tenant ∈ (s.die d).active →
      (r.relaxed = true → ∃ t, exec (.pageTableWalk r.id) s = .next t ∧ t.reqs = [{ r with stage := .page }] ∧
        (t.die d).pageq = (s.die d).pageq ++ [q (.req r.id)]) ∧
      (Waits s r → ∃ t, exec (.pageTableWalk r.id) s = .next t ∧ t.reqs = [] ∧ (t.die d).pageq = (s.die d).pageq ++ [q mine] ∧
        (t.slotAt r.core r.slot).st = .parked ∧ (t.slotAt r.core r.slot).wait = .page r.tenant r.va ∧
        (t.slotAt r.core r.slot).th = (s.slotAt r.core r.slot).th ∧ t.mem = s.mem)) ∧
    (Lone s r → Serving s → r.stage = .page → (s.die d).pageq = [q (.req r.id)] →
      (s.mem.wf = true → fits →
        (page ∉ k.touched → k.charged + 2048 ≤ k.quota →
          ∃ t, exec (.pageFaultService d 0 (.grant frame mid low w x sec)) s = .next t ∧ made t ∧
            t.reqs = [{ r with stage := .port }] ∧ (t.tenant r.tenant).charged = k.charged + 2048 ∧
            page ∈ (t.tenant r.tenant).touched) ∧
        (page ∈ k.touched → ∃ t, exec (.pageFaultService d 0 (.grant frame mid low w x sec)) s = .next t ∧ made t ∧
          t.reqs = [{ r with stage := .port }] ∧ (t.tenant r.tenant).charged = k.charged)) ∧
      (r.relaxed = false →
        (∃ t, exec (.pageFaultService d 0 .unmapped) s = .next t ∧ (t.die d).pageq = [] ∧ t.mem = s.mem ∧
          t.reqs = [refused s.serial r 0x05 (BitVec.ofNat 64 (128 + 16 * r.key.toNat + 5)) (BitVec.ofNat 64 r.va)]) ∧
        (page ∉ k.touched → k.quota < k.charged + 2048 → ∃ t, exec (.pageFaultService d 0 .quota) s = .next t ∧
          (t.die d).pageq = [] ∧ t.mem = s.mem ∧
          t.reqs = [refused s.serial r 0x17 (BitVec.ofNat 64 r.tenant.toNat) (BitVec.ofNat 64 r.va)]))) ∧
    (s.reqs = [] → Serving s → Waits s r → (s.die d).pageq = [q mine] →
      (s.mem.wf = true → fits → page ∉ k.touched → k.charged + 2048 ≤ k.quota →
        ∃ t, exec (.pageFaultService d 0 (.grant frame mid low w x sec)) s = .next t ∧ made t ∧
          (t.slotAt r.core r.slot).wait = .woken ∧ (t.slotAt r.core r.slot).refusal = (s.slotAt r.core r.slot).refusal) ∧
      (∃ t, exec (.pageFaultService d 0 .unmapped) s = .next t ∧ (t.die d).pageq = [] ∧ t.mem = s.mem ∧
        (t.slotAt r.core r.slot).wait = .woken ∧ (t.slotAt r.core r.slot).refusal = some (.refused, r.tenant, r.va)))) ∧
  (Waits s r → (s.slotAt r.core r.slot).wait = .woken → s.lvrctl.getLsbD 63 = false →
    ∃ t, exec (.threadWake r.core r.slot) s = .next t ∧ (t.slotAt r.core r.slot).st = .ready ∧
      (t.slotAt r.core r.slot).th = (s.slotAt r.core r.slot).th ∧ t.mem = s.mem) ∧
  (∀ y, (s.die d).held = [y] → (s.die d).pageq = [] → (s.die d).active = [] →
    ∃ t, exec (.pageRequestEntry d) s = .next t ∧ (t.die d).held = [] ∧ (t.die d).pageq = [y] ∧ t.mem = s.mem)

/-- An access at its home in device memory (R180, R196, R199 to R201), word by word: a load answers with the bytes, or with
the poison trap; a store changes exactly its bytes and is answered; a sync load whose word is empty joins the wait list and
is served by the store that fills the word; a refused one is sent again from its port. Where the
manual leaves room it rests on the model's choices (log entries 9, 75). -/
def Obligations.AccessesPerformAtTheHome : Prop :=
  ∀ (s : State) (r : Req) (p n : Nat) (key : KeySt),
  r.dev = true → r.pas = [(p, n)] → r.size = n → p % 8 + n ≤ 8 → r.va % 8 = p % 8 → s.keyOf r.tenant = some key →
  look s.mem.keys (p / 8) = some key → s.mem.wf = true →
  let i := p / 8
  let x := ofBytes (s.mem.read p n)
  (Lone s r → r.stage = .home → r.gate = false → r.relaxed = false →
    (∀ sx, r.op = .ld n sx → 0 < n →
      (s.mem.bad i = false → exec (.perform r.id) s = .next { s with
        reqs := [answered s.serial r [extended sx n x] false], serial := s.serial + 1 }) ∧
      (s.mem.bad i = true → exec (.perform r.id) s = .next { s with
        reqs := [refused s.serial r 0x14 0 (BitVec.ofNat 64 r.va)], serial := s.serial + 1 })) ∧
    (∀ v, r.op = .st n v → 0 < n → r.dt = false → ∃ t, exec (.perform r.id) s = .next t ∧
      t.reqs = [answered s.serial r [] false] ∧ t.mem.tag i = false ∧
      t.mem.bad i = (if n = 8 then false else s.mem.bad i) ∧ t.mem.empty = s.mem.empty ∧
      (∀ j, j ≠ i → t.mem.tag j = s.mem.tag j ∧ t.mem.bad j = s.mem.bad j) ∧
      (∀ j, j < n → t.mem.byte (p + j) = v.extractLsb' (8 * j) 8) ∧
      ∀ j, (j < p ∨ p + n ≤ j) → t.mem.byte j = s.mem.byte j) ∧
    (n = 8 → p % 8 = 0 → s.mem.isFull i = false → s.alive r = true → (r.op = .lds .full ∨ r.op = .lds .take) →
      ∃ t q, exec (.perform r.id) s = .next t ∧ t.reqs = [q] ∧ q.stage = .waiting ∧ q.op = r.op ∧ t.mem = s.mem)) ∧
  (∀ (y : Req) (v : Word), s.reqs = [y, r] → s.drains = [] → s.pairs = [] → s.lvrctl.getLsbD 63 = false → s.probes = [] → n = 8 →
    (∀ z ∈ [y, r], ∀ e ∈ (s.core z.core).arrayq, e.uid = z.uid → e.op ≠ .mswap) →
    p % 8 = 0 → y.stage = .waiting → y.op = .lds .take → y.dev = true → y.pas = [(p, 8)] → y.va % 8 = 0 →
    y.tenant = r.tenant → y.relaxed = false → y.dt = false → y.id ≠ r.id → r.stage = .home → r.gate = false →
    r.relaxed = false → r.dt = false → y.uid ≠ r.uid → r.op = .sts .fill v → s.mem.isFull i = false →
    ∃ t, exec (.perform r.id) s = .next t ∧ t.reqs = [answered (s.serial + 1) y [v] false, answered s.serial r [] false] ∧
      t.mem.isFull i = false ∧ t.mem.word i = v) ∧
  (∀ due, r.stage = .backoff due → s.reqs = [r] → due ≤ (s.core r.core).cycle →
    ∃ t q, exec (.syncRetry r.id) s = .next t ∧ t.reqs = [q] ∧ q.stage = .port ∧ q.op = r.op ∧ q.retry = r.retry ∧
      t.mem = s.mem)

/-- A `FENCE` that waits at a scope above the core sends one probe to each slice of `TMASK`, which is then 0, waits for every echo, and
its thread then goes on at the next bundle (R203). -/
def Sys2Proof.Claims.FencesSendProbes : Prop :=
  ∀ (s : State) (c : CoreId) (n : SlotId) (sc : Scope),
  let x := s.slotAt c n
  x.st = .parked → x.wait = .fence sc [] → x.held = none → x.seen = none → x.th.dstore = none →
  (∀ r ∈ s.reqs, r.uid ≠ x.th.uid) → (∀ e ∈ (s.core c).arrayq, e.uid = x.th.uid → e.op ≠ .mswap) →
  s.fabricStores = [] → s.lvrctl.getLsbD 63 = false →
  (sc ≠ .core → x.th.tmask ≠ 0 → ∃ t l, exec (.threadWake c n) s = .next t ∧ t.probes = s.probes ++ l ∧
    (l.map fun p => p.slice) = (List.range 64).filter (fun i => x.th.tmask.getLsbD i) ∧
    (∀ p ∈ l, p.core = c ∧ p.slot = n ∧ p.uid = x.th.uid ∧ p.echo = false) ∧ (l.map fun p => p.id).Nodup ∧
    (t.slotAt c n).th = { x.th with tmask := 0 } ∧ (t.slotAt c n).st = .parked ∧ (t.slotAt c n).wait = .fence sc [] ∧
    t.mem = s.mem) ∧
  (x.th.tmask = 0 → (∃ p ∈ s.probes, p.uid = x.th.uid) → exec (.threadWake c n) s = .next s) ∧
  ((sc = .core ∨ x.th.tmask = 0) → (∀ p ∈ s.probes, p.uid ≠ x.th.uid) → (loopStep x.th x.width).2.2 = none →
    ∃ t, exec (.threadWake c n) s = .next t ∧ (t.slotAt c n).st = .ready ∧
      (t.slotAt c n).th.pc = nextPc x.th.pc x.hcount x.width ∧ (t.slotAt c n).th.s = x.th.s ∧ t.probes = s.probes ∧ t.mem = s.mem)

/-- The one path between two ports of a plane (R213): stage i forwards a packet to port q on output q[10 − i] of its switch, and after
eleven stages it stands at q. -/
def Sys2Proof.Claims.PathsReachTheirPort : Prop :=
  ∀ p q : Nat, p < 2048 → q < 2048 → pathTo p q 0 = p ∧ pathTo p q 11 = q ∧
    ∀ i, i < 11 → pathTo p q (i + 1) < 2048 ∧ pathTo p q (i + 1) % 2 = q / 2 ^ (10 - i) % 2 ∧
      pathTo p q (i + 1) / 2 = (2 * pathTo p q i + pathTo p q i / 1024) % 2048 / 2

/-- A fence's probe turns into an echo at its slice once no earlier store of its cluster is on its way there, and the fencing
core absorbs the echo (R203, R216); two fetch-adds to one word that meet on their way combine into one of the sum, and the second
requester's old value is the first's plus the first operand (R215). -/
def Sys2Proof.Claims.FencesProbeAndAddsCombine : Prop :=
  ∀ (s : State) (p : Probe) (a b : Req) (n x : Nat) (u v old : Word),
  (s.probes = [p] → s.reqs = [] →
    (p.echo = false → exec (.fenceProbe p.id) s = .next { s with
      probes := [{ p with echo := true, inj := s.serial }], serial := s.serial + 1 }) ∧
    (p.echo = true → exec (.probeEcho p.id) s = .next { s with probes := [] })) ∧
  (∀ y : Req, s.probes = [p] → s.reqs = [y] → p.echo = false → y.dev = true → y.stage = .home → y.gate = false → y.far = none →
    y.op.atHome = false → y.relaxed = true → s.lvrctl.getLsbD 63 = false → clusterOf y.core = clusterOf p.core → y.slice = p.slice →
    y.inj < p.inj → exec (.fenceProbe p.id) s = .next s) ∧
  (s.reqs = [a, b] → a.id ≠ b.id → a.op = .amo .add n u 0 → b.op = .amo .add n v 0 → a.dev = true → b.dev = true →
    a.tenant = b.tenant → a.pas = [(x, n)] → b.pas = [(x, n)] → 0 < n → a.relaxed = false → b.relaxed = false →
    (a.stage = .home → b.stage = .home → a.gate = false → b.gate = false → a.far = none → b.far = none →
      (clusterOf a.core).toNat % 8 = (clusterOf b.core).toNat % 8 → (clusterOf a.core = clusterOf b.core → a.inj ≤ b.inj) →
      (∀ y ∈ [a, b], (s.slotAt y.core y.slot).held = none ∧
        ∀ e ∈ (s.core y.core).arrayq, e.uid = y.uid → e.op ≠ .mswap) →
      ∃ st sw, st < 11 ∧ exec (.fetchAddCombine a.id b.id) s = .next { s with reqs :=
        [{ a with op := .amo .add n (u + v) 0, dt := a.dt || b.dt }, { b with stage := .combined a.id u st sw }] }) ∧
    (∀ st sw, n = 8 → a.stage = .reply → a.reply = some (.words [old] false) → b.stage = .combined a.id u st sw →
      exec (.combinedReplySplit b.id) s = .next { s with
        reqs := [a, answered s.serial b [old + u] false], serial := s.serial + 1 }))

/-- Fences, at the core and in the network, its paths, and combined adds (R203, R213, R215, R216). Where the
manual leaves room it rests on the model's choices (log entry 62). -/
def Obligations.FencesWaitProbeAndAddsCombine : Prop :=
  Sys2Proof.Claims.FenceWaitsForRelaxedAccesses ∧ Sys2Proof.Claims.FencesSendProbes ∧ Sys2Proof.Claims.PathsReachTheirPort ∧
  Sys2Proof.Claims.FencesProbeAndAddsCombine


namespace Sys2Proof.Claims

/-! ## Messages and migration -/

/-- The header word of a message of `SEND` (R219). -/
def sentHeader (s : State) (n : BitVec 3) (w : Word) : Word :=
  BitVec.ofNat 64 (w.toNat / 2 ^ (32 : Nat) % 2 ^ (8 : Nat) * 2 ^ (56 : Nat) + s.th.place * 2 ^ (43 : Nat) + n.toNat * 2 ^ (40 : Nat) + s.cur.slot.val * 2 ^ (32 : Nat) +
    w.toNat % 2 ^ (32 : Nat))

/-- An inbox entry is one that `TAGF` lets the thread take (R221). -/
def Takes (t : Thread) (e : InEntry) : Prop :=
  (if t.level = .user then e.sys = false ∧ e.tenant = t.tenant else e.sys = true) ∧
    ∀ j, j < 32 → t.tagf.getLsbD (32 + j) = true → (e.words.headD 0).getLsbD j = t.tagf.getLsbD j

/-- The one message in the network, with nothing recorded or replayed, and no earlier packet on its way (R214). -/
structure OneMsg (s : State) (m : Msg) : Prop where
  msgs : s.msgs = [m]
  row : m.row = none
  gate : m.gate = false
  record : s.lvrctl.getLsbD 63 = false
  order : s.onTime (s.msgWires m) = true

/-- The message in a new stage, injected as number `n`. -/
def staged (n : Nat) (m : Msg) (st : MsgStage) : Msg := { m with stage := st, inj := n }

/-- No register of a list is empty-with-fault. -/
def NoFault (l : List Cell) : Prop := ∀ x ∈ l, ∀ f, x.f ≠ .fault f

/-- The conditions of R228, under which a thread migrates: no binding and no claim, `d` registers full and of class zero, no active
handler and no shadow handler, no deferred store and no `s` register empty-with-fault, no suppression of floating-point traps, room on
the window stack for every window that is still to be written (R108), and no coupled core. -/
structure Movable (s : State) (c : CoreId) (t : Thread) : Prop where
  unbound : t.tileb.getLsbD 7 = false
  unclaimed : t.hclaim = 0
  dirs : ∀ i : Fin 16, t.d[i].f = .full ∧ t.d[i].cls = 1
  handlers : t.ecause.getLsbD 61 = false ∧ t.scause.getLsbD 61 = false ∧ t.mcause.getLsbD 61 = false ∧ t.shadow = none
  stores : t.dstore = none
  regs : NoFault t.s.toList ∧ ∀ w ∈ t.callers, NoFault w.toList
  unmasked : t.fpMask = false
  room : wspPtr t.wsp + ((List.range t.callers.length).filter fun i =>
    decide (wspPtr t.wsp - wspBase t.wsp ≤ wspDepth t.wsp - 1 - i)).length ≤ wspLimit t.wsp
  single : s.isCoupled c = false

end Sys2Proof.Claims

open Sys2Proof Sys2Proof.Machine Sys2Proof.Claims

/-- `SEND` and `RECV` (R218, R219, R221, R224, R225): the message with its header and payload is injected and holds a send
entry; an inbox with room accepts it, which frees the send entry; `RECV` takes the oldest entry that matches and leaves the others
before and after it. -/
def Sys2Proof.Claims.MessagesAreSentAcceptedAndReceived : Prop :=
  ∀ (s : State),
  (∀ (p : SReg) (n : BitVec 3) (a b : Src) (c : CoreId),
    let w := val s b
    let k := w.toNat / 2 ^ (32 : Nat) % 2 ^ (8 : Nat)
    Ready s ([sN p] ++ (List.range n.toNat).map (fun i => ⟨.s (a.reg + BitVec.ofNat 5 i), a.wait⟩) ++ [b.need]) →
    w.toNat / 2 ^ (40 : Nat) % 2 ^ (23 : Nat) = 0 → (w.getLsbD 63 = true → s.th.level ≠ .user) → (k = 0 ∨ 0x80 ≤ k) →
    s.placeCore s.cur.core (s.th.sv p).toNat = some c →
    (s.me.sends < 2 → ∃ t m, exec (.send p n a b) s = .next t ∧ t.msgs = s.msgs ++ [m] ∧ m.core = c ∧ m.stage = .flight ∧
      m.row = none ∧ m.src = .slot s.cur.core s.cur.slot ∧ t.me.sends = s.me.sends + 1 ∧ t.th = (done s).th ∧
      m.entries = [⟨sentHeader s n w :: (List.range 7).map fun i =>
        if i < n.toNat then s.th.sv (a.reg + BitVec.ofNat 5 i) else 0, s.th.tenant, w.getLsbD 63, none, []⟩]) ∧
    (2 ≤ s.me.sends → ∃ t, exec (.send p n a b) s = .next t ∧ t.me.st = .parked ∧ t.me.wait = .sendEntry ∧
      t.msgs = s.msgs ∧ t.th = s.th)) ∧
  (∀ m : Msg, OneMsg s m → (m.stage = .flight ∨ m.stage = .again) → (s.core m.core).inbox.reserved = [] →
    (s.core m.core).inbox.entries.length + m.entries.length ≤ 64 → m.entries ≠ [] →
    ∃ t, exec (.messageAcceptance m.id) s = .next t ∧ t.msgs = [] ∧
      (t.core m.core).inbox.entries = (s.core m.core).inbox.entries ++ m.entries ∧
      ∀ c n, m.src = .slot c n → (t.slotAt c n).sends = (s.slotAt c n).sends - 1) ∧
  (∀ (d : SReg) (e : InEntry) (l r : List InEntry), Ready s ((List.range 8).map fun i => sN (d + BitVec.ofNat 5 i)) →
    d.toNat ≤ 24 → s.here.inbox.refused = [] →
    (s.here.inbox.entries = l ++ e :: r → (∀ y ∈ l, ¬ Takes s.th y) → Takes s.th e → e.task = none → e.bad = [] →
      (e.words.headD 0).toNat / 2 ^ (56 : Nat) ≠ 1 →
      ∃ t, exec (.recv d) s = .next t ∧ t.here.inbox.entries = l ++ r ∧ t.th.pc = (done s).th.pc ∧
        (∀ i : BitVec 5, i.toNat < 8 → d + i ≠ 0 → t.th.sv (d + i) =
          if i.toNat ≤ (e.words.headD 0).toNat / 2 ^ (40 : Nat) % 8 then e.words.getD i.toNat 0 else 0) ∧
        (∀ q : SReg, (∀ i : BitVec 5, i.toNat < 8 → q ≠ d + i) → t.th.sv q = s.th.sv q)) ∧
    ((∀ e ∈ s.here.inbox.entries, ¬ Takes s.th e) → ∃ t, exec (.recv d) s = .next t ∧ t.me.st = .parked ∧
      t.me.wait = .recv ∧ t.th = s.th ∧ t.here.inbox = s.here.inbox))

/-- A full inbox (R218): the message bounces and its sender is recorded while the list of 32 has room; back at its sender it
waits for a retry notice, or for 256 cycles when it was not recorded; an entry that frees is reserved for the recorded
sender, whose notice sends the message again. -/
def Sys2Proof.Claims.BouncedMessagesAreRetried : Prop :=
  ∀ (s : State) (m : Msg), OneMsg s m →
  let x := (s.core m.core).inbox
  (m.stage = .flight → x.reserved = [] → m.entries.length = 1 → x.entries.length = 64 →
    (x.refused.length < 32 → ∃ t, exec (.messageAcceptance m.id) s = .next t ∧
      t.msgs = [staged s.serial m (.bounced true)] ∧ (t.core m.core).inbox.refused = x.refused ++ [(m.id, 1)] ∧
      (t.core m.core).inbox.entries = x.entries) ∧
    (32 ≤ x.refused.length → exec (.messageAcceptance m.id) s = .next { s with
      msgs := [staged s.serial m (.bounced false)], serial := s.serial + 1 })) ∧
  (m.stage = .bounced true → (m.id, 1) ∈ x.refused →
    exec (.bounceReturn m.id) s = .next { s with msgs := [staged s.serial m .recorded], serial := s.serial + 1 }) ∧
  (∀ c n, m.src = .slot c n →
    (m.stage = .bounced false → exec (.bounceReturn m.id) s = .next { s with
      msgs := [staged s.serial m (.backoff ((s.core c).cycle + 256))], serial := s.serial + 1 }) ∧
    (∀ due, m.stage = .backoff due → due ≤ (s.core c).cycle →
      exec (.bounceRetransmit m.id) s = .next { s with msgs := [staged s.serial m .again], serial := s.serial + 1 })) ∧
  (m.stage = .notice → exec (.retryNotice m.id) s = .next { s with msgs := [staged s.serial m .again], serial := s.serial + 1 }) ∧
  (∀ (d : SReg) (e : InEntry) (r : List InEntry), m.core = s.cur.core → m.stage = .recorded → x.refused = [(m.id, 1)] →
    x.reserved = [] → Ready s ((List.range 8).map fun i => sN (d + BitVec.ofNat 5 i)) → x.entries = e :: r → Takes s.th e →
    e.task = none → (e.words.headD 0).toNat / 2 ^ (56 : Nat) ≠ 1 →
    ∃ t, exec (.recv d) s = .next t ∧ t.msgs = [staged s.serial m .notice] ∧ t.here.inbox.refused = [] ∧
      t.here.inbox.reserved = [(m.id, 1)] ∧ t.here.inbox.entries = r)

/-- Messages: sending, acceptance, receiving, and the retries after a refusal. -/
def Obligations.MessagesAreSentReceivedAndRetried : Prop :=
  Sys2Proof.Claims.MessagesAreSentAcceptedAndReceived ∧ Sys2Proof.Claims.BouncedMessagesAreRetried


/-- Neighbour ports (R226, R227): a word sets out for the peer's port while that holds fewer than 4, arrives behind the words
there, and is taken by one `NRECV`; a port without a peer discards it. -/
def Obligations.NeighbourWordsTravel : Prop :=
  ∀ (s : State) (d : SReg) (p : Port),
  (Ready s [sN d] →
    (s.peer s.cur.core p = none → exec (.nsend d p) s = .next (done s)) ∧
    (∀ c, s.peer s.cur.core p = some c →
      let load := ((s.core c).ports[p.opposite.idx]).length +
        (s.words.filter fun w => w.dst == c && w.port == p.opposite).length
      (load < 4 → ∃ t w, exec (.nsend d p) s = .next t ∧ t.words = s.words ++ [w] ∧ w.src = s.cur.core ∧ w.dst = c ∧
        w.port = p.opposite ∧ w.word = s.th.sv d ∧ t.th = (done s).th) ∧
      (4 ≤ load → ∃ t, exec (.nsend d p) s = .next t ∧ t.me.st = .parked ∧ t.me.wait = .portOut p ∧ t.words = s.words ∧
        t.th = s.th)) ∧
    (∀ w r, s.here.ports[p.idx] = w :: r → ∃ t, exec (.nrecv d p) s = .next t ∧ t.th = (wrote s d w).th ∧
      t.here.ports[p.idx] = r) ∧
    (s.here.ports[p.idx] = [] → ∃ t, exec (.nrecv d p) s = .next t ∧ t.me.st = .parked ∧ t.me.wait = .portIn p ∧
      t.th = s.th)) ∧
  (∀ w : NWord, s.words = [w] → w.gate = false → s.lvrctl.getLsbD 63 = false →
    ∃ t, exec (.neighbourWordArrival w.id) s = .next t ∧ t.words = [] ∧
      (t.core w.dst).ports[w.port.idx] = (s.core w.dst).ports[w.port.idx] ++ [w.word])

/-- Migration (R228 to R231): `MIGR` to another place asks for a landing entry there and parks, if the thread may migrate; the target
grants one of four, queues the request, or has it sent again; on the grant the slot of a thread that still may migrate drains, the
packet leaves it free, and the thread waits in its landing entry with its tracks and rows left behind; the core of the window stack
frees the area on a release (R109). Where the manual leaves room it rests on the model's choices (log entries 61, 95). -/
def Obligations.ThreadsMigrate : Prop :=
  ∀ (s : State),
  (∀ (c : CoreId) (t : Thread), s.mayMigrate c t = true ↔ Movable s c t) ∧
  (∀ (d : SReg) (c : CoreId), Ready s [sN d] → s.placeCore s.cur.core (s.th.sv d).toNat = some c →
    ((s.th.sv d).toNat = s.th.place ∨ s.mayMigrate s.cur.core s.th = false → exec (.migr d) s = .next (done s)) ∧
    ((s.th.sv d).toNat ≠ s.th.place → s.mayMigrate s.cur.core s.th = true → ∃ t r, exec (.migr d) s = .next t ∧
      t.resvs = s.resvs ++ [r] ∧ r.target = c ∧ r.core = s.cur.core ∧ r.slot = s.cur.slot ∧ r.uid = s.th.uid ∧
      r.stage = .flight ∧ t.me.st = .parked ∧ t.me.wait = .migrate ∧ t.th = (done s).th)) ∧
  (∀ r : Resv, s.resvs = [r] → s.onTime r.wires = true →
    let k := s.core r.target
    (r.stage = .flight → k.resvq = [] →
      (k.landing.length < 4 → ∃ t, exec (.reservationRequest r.id) s = .next t ∧
        t.resvs = [{ r with stage := .granted, inj := s.serial }] ∧
        (t.core r.target).landing = k.landing ++ [.reserved r.core r.slot r.uid]) ∧
      (4 ≤ k.landing.length → ∃ t, exec (.reservationRequest r.id) s = .next t ∧
        t.resvs = [{ r with stage := .queued, inj := s.serial }] ∧ (t.core r.target).resvq = [r.id] ∧
        (t.core r.target).landing = k.landing)) ∧
    (∀ due, r.stage = .backoff due → due ≤ (s.core r.core).cycle →
      exec (.reservationResend r.id) s = .next { s with
        resvs := [{ r with stage := .flight, inj := s.serial }], serial := s.serial + 1 }) ∧
    (r.stage = .granted → (s.slotAt r.core r.slot).th.uid = r.uid → (s.slotAt r.core r.slot).st = .parked →
      (s.mayMigrate r.core (s.slotAt r.core r.slot).th = true →
        ∃ t, exec (.reservationGrant r.id) s = .next t ∧ t.resvs = [] ∧ (t.slotAt r.core r.slot).st = .draining ∧
          (t.slotAt r.core r.slot).drain = .migrate r.place r.target ∧
          (t.slotAt r.core r.slot).th = (s.slotAt r.core r.slot).th) ∧
      (s.mayMigrate r.core (s.slotAt r.core r.slot).th = false →
        ∃ t, exec (.reservationGrant r.id) s = .next t ∧ t.resvs = [] ∧ (t.slotAt r.core r.slot).st = .ready ∧
          (t.slotAt r.core r.slot).th = (s.slotAt r.core r.slot).th ∧
          ∀ c m, .reserved c m r.uid ∉ (t.core r.target).landing))) ∧
  (∀ (c g : CoreId) (n : SlotId) (place : Nat),
    let x := s.slotAt c n
    x.st = .draining → s.drained c n = true → x.drain = .migrate place g → s.mayMigrate c x.th = true → x.th.callers = [] →
    x.chosen = false →
    ∃ t p, exec (.drainingComplete c n) s = .next t ∧ t.packets = s.packets ++ [p] ∧ p.target = g ∧ p.place = place ∧
      p.src = (c, n, x.th.uid) ∧ p.cancelled = false ∧ (t.slotAt c n).st = .free ∧
      p.th.s = x.th.s ∧ p.th.k = x.th.k ∧ p.th.pc = x.th.pc ∧ p.th.level = x.th.level ∧ p.th.tmask = 0 ∧
      p.th.einfo = 0 ∧ p.th.einfo2 = 0 ∧ p.th.d = Vector.replicate 16 DCell.zero) ∧
  (∀ p : Packet, s.packets = [p] → p.cancelled = false → s.clear p.wire = true →
    (s.core p.target).landing = [.reserved p.src.1 p.src.2.1 p.src.2.2] →
    ∃ t, exec (.migrationPacketArrival p.id) s = .next t ∧ t.packets = [] ∧ (t.core p.target).landing = [.waits p.th]) ∧
  (∀ r : Release, s.releases = [r] → r.area < 16 → s.clear r.wire = true → ∃ t, exec (.windowStackRelease r.id) s = .next t ∧ t.releases = [] ∧
    ∀ j, j < 16 → (t.core r.core).areas.getLsbD j = ((s.core r.core).areas.getLsbD j && j != r.area))

namespace Sys2Proof.Claims

/-! ## Slots -/

/-- Slot `n` is the one FREE slot of core `c`, at a rotation boundary (R75). -/
structure OneFree (s : State) (c : CoreId) (n : SlotId) : Prop where
  boundary : (s.core c).cycle % 16 = 0
  free : ∀ m : SlotId, (s.slotAt c m).st = .free ↔ m = n

/-- The class of a pending spawn serves its tenant on the core (R87). -/
def ClassServes (s : State) (c : CoreId) (q : BitVec 2) (t : BitVec 9) : Prop :=
  (s.core c).qown.getLsbD (36 + q.toNat) = true ∧ (s.core c).qown.toNat / 2 ^ (9 * q.toNat) % 2 ^ (9 : Nat) = t.toNat

/-- The context of a new thread (R64, R65): launch, index, place, slot, window-stack area. -/
structure NewThread (t : Thread) (l : Launch) (index place : Nat) (n : SlotId) (a : Nat) : Prop where
  pc : t.pc = l.pc ∧ t.level = l.level
  args : ∀ i : Fin 4, t.sv (BitVec.ofNat 5 (8 + i.val)) = l.args.getD i.val 0
  zero : ∀ r : SReg, (r.toNat < 8 ∨ 12 ≤ r.toNat) → t.sv r = 0
  full : ∀ i : Fin 32, (t.s[i]).f = .full
  keys : ∀ i : Fin 8, (t.k[i]).w0 = (l.keys[i]).w0 ∧ (t.k[i]).w1 = (l.keys[i]).w1 ∧ (t.k[i]).tag = (l.keys[i]).tag
  conds : t.c = 0
  dirs : t.d = Vector.replicate 16 DCell.zero
  fsr : t.fsr = 0x2000
  zeros : t.lc0 = 0 ∧ t.lc1 = 0 ∧ t.bita = 0 ∧ t.shcnt = 0 ∧ t.hclaim = 0 ∧ t.tagf = 0
  unbound : t.tileb = 0
  tvec : t.tvec = l.tvec
  wsp : t.wsp = BitVec.ofNat 64 (place % 2 ^ (13 : Nat) * 2 ^ (51 : Nat) + (0x788 + 8 * a) * 2 ^ (39 : Nat) + (0x780 + 8 * a) * 2 ^ (27 : Nat) +
    (0x780 + 8 * a) * 2 ^ (5 : Nat))
  self : t.self = BitVec.ofNat 64 (l.tenant.toNat * 2 ^ (55 : Nat) + l.q.toNat * 2 ^ (53 : Nat) + index % 2 ^ (17 : Nat) * 2 ^ (36 : Nat) +
    l.id.toNat * 2 ^ (20 : Nat) + place % 2 ^ (13 : Nat) * 2 ^ (4 : Nat) + n.val)

/-- The slot is enabled and the breakwater has not chosen it (R68). -/
def Enabled (x : Slot) : Prop := x.chosen = false ∧ x.st ≠ .disabled ∧ x.st ≠ .held ∧ x.st ≠ .heldParked

/-- The slots that may issue (R70): READY, and 8 cycles past their last issue, or never issued. -/
def IssueCandidate (s : State) (c : CoreId) (n : SlotId) : Prop :=
  (s.slotAt c n).st = .ready ∧ ∀ l, (s.slotAt c n).last = some l → l + 8 ≤ (s.core c).cycle

/-- A breakwater evaluation is due (R90), and a Waliasal core is in service (R24). -/
def EvalDue (s : State) (c : CoreId) : Prop :=
  Serving s ∧ (s.core c).cycle % 4096 = 0 ∧ (s.core c).cycle ≠ (s.core c).bwLast ∧
  ∀ m : SlotId, (s.slotAt c m).st ≠ .held

end Sys2Proof.Claims

open Sys2Proof Sys2Proof.Machine Sys2Proof.Claims

/-- How slots take and lose threads (R64, R65, R67, R68, R77, R86, R89, R109, R406, R407): the arbiter fills the FREE slot with
the landing entry, else with the lowest thread of the pending spawn; the context written, the slot is READY; a thread that
retires leaves its slot FREE and its launch's count one less; an outgoing thread becomes a suspension record. -/
def Sys2Proof.Claims.SlotsTakeAndLoseThreads : Prop :=
  ∀ (s : State) (c : CoreId) (n : SlotId),
  let x := s.slotAt c n
  let k := s.core c
  (OneFree s c n →
    (∀ th, k.landing = [.waits th] → ∃ t, exec (.slotGrant c) s = .next t ∧ (t.slotAt c n).st = .loading ∧
      (t.slotAt c n).loadEnd = k.cycle + 8 ∧ (t.core c).landing = [] ∧
      (t.slotAt c n).th = { th with
        self := mix (mix th.self (BitVec.ofNat 64 (s.placeOf c * 16)) 16 4) (BitVec.ofNat 64 n.val) 3 0 }) ∧
    (∀ (p : Pending) (a : Nat), k.landing = [] → k.susp = [] → (s.cluster (clusterOf c)).pending = [p] → p.l.gate = none →
      p.taken < p.l.countAt p.rel → s.launchCore p.l p.rel = c → ClassServes s c p.l.q p.l.tenant → a < 16 →
      k.areas.getLsbD a = false → (∀ j, j < a → k.areas.getLsbD j = true) →
      ∃ t, exec (.slotGrant c) s = .next t ∧ (t.slotAt c n).st = .loading ∧ (t.slotAt c n).loadEnd = k.cycle + 4 ∧
        NewThread (t.slotAt c n).th p.l (p.l.nthIndex p.rel p.taken) (s.placeOf c) n a ∧
        (t.core c).areas.getLsbD a = true ∧
        (t.cluster (clusterOf c)).pending =
          if p.taken + 1 = p.l.countAt p.rel then [] else [{ p with taken := p.taken + 1 }])) ∧
  (x.st = .loading → x.loadEnd ≤ k.cycle → x.cancelled = false → x.chosen = false →
    ∃ t, exec (.contextWritten c n) s = .next t ∧ (t.slotAt c n).st = .ready ∧ (t.slotAt c n).key = k.cycle ∧
      (t.slotAt c n).th = x.th) ∧
  (x.st = .draining → s.drained c n = true → x.chosen = false →
    (x.drain = .retire → (s.lv (State.launchEntry ((s.partOf c).getD 64) x.th.launch)).count ≥ 2 →
      ∃ t, exec (.drainingComplete c n) s = .next t ∧ (t.slotAt c n).st = .free ∧
        (t.lv (State.launchEntry ((s.partOf c).getD 64) x.th.launch)).count + 1 =
          (s.lv (State.launchEntry ((s.partOf c).getD 64) x.th.launch)).count) ∧
    (x.drain = .suspend → k.susp.length < 128 → s.mem.wf = true → ∃ t i, exec (.drainingComplete c n) s = .next t ∧
      (t.slotAt c n).st = .free ∧ (t.core c).susp = k.susp ++ [⟨n, x.th, i⟩] ∧
      i < 128 ∧ (∀ r ∈ k.susp, r.idx ≠ i) ∧
      let b := (k.suspb.extractLsb' 19 33).toNat * 2 ^ (19 : Nat) + 4096 * i
      ∀ a, (a < b ∨ b + 4096 ≤ a) → t.mem.byte a = s.mem.byte a)) ∧
  (s.issueSlot c = some n → s.suspendNow c n = true → ∃ t, exec (.threadSuspension c n) s = .next t ∧
    (t.slotAt c n).st = .draining ∧ (t.slotAt c n).drain = .suspend ∧ (t.slotAt c n).th = x.th)

/-- The rotation (R70): among the READY slots whose last issue lies 8 cycles back, the one with the least key, and of equal keys the
lowest, is the slot whose bundle a step runs (`StepRunsTheDecodedInstruction`); with none, no bundle issues. -/
def Sys2Proof.Claims.LeastKeyIssues : Prop :=
  ∀ (s : State) (c : CoreId),
  (∀ n, s.issueSlot c = some n ↔ IssueCandidate s c n ∧
    ∀ m, IssueCandidate s c m → (s.slotAt c n).key < (s.slotAt c m).key ∨
      ((s.slotAt c n).key = (s.slotAt c m).key ∧ n ≤ m)) ∧
  (s.issueSlot c = none ↔ ∀ n, ¬ IssueCandidate s c n)

/-- Wakes (R72, R73): a parked thread whose event has reached the core is READY at its bundle again; and a spill step
(R74, R104) writes four words of the oldest unwritten window to the window stack and moves PTR on after the fourth. -/
def Sys2Proof.Claims.WakesAndSpillSteps : Prop :=
  ∀ (s : State) (c : CoreId) (n : SlotId),
  let x := s.slotAt c n
  (x.st = .parked → x.held = none → s.lvrctl.getLsbD 63 = false →
    (x.wait = .woken ∨ (x.wait = .sendEntry ∧ x.sends < 2) ∨ (x.wait = .arrayQueue ∧ (s.core c).arrayq.length < 4) ∨
      (∃ e ∈ (s.core c).inbox.entries, x.wait = .recv ∧ Takes x.th e ∧
        ∀ m : SlotId, (s.slotAt c m).wait = .recv → (s.slotAt c m).parkSeq < x.parkSeq → ¬ Takes (s.slotAt c m).th e)) →
    ∃ t, exec (.threadWake c n) s = .next t ∧ (t.slotAt c n).st = .ready ∧ (t.slotAt c n).th = x.th ∧
      (t.slotAt c n).key = (s.core c).cycle ∧ t.mem = s.mem) ∧
  (∀ w : Vector Cell 16, s.issueSlot c = none → s.spillSlot c = some n → s.stackCore c x.th = c →
    windowCells x.th (wspPtr x.th.wsp - wspBase x.th.wsp) = some w → x.th.spill < 4 → (s.core c).ls.wf = true →
    ∃ t, exec (.spillStep c) s = .next t ∧
      (∀ i, i < 4 → (t.core c).ls.word (16 * wspPtr x.th.wsp + 4 * x.th.spill + i) =
        (w.toList.getD (4 * x.th.spill + i) Cell.zero).v) ∧
      (∀ a, (a < 128 * wspPtr x.th.wsp + 32 * x.th.spill ∨ 128 * wspPtr x.th.wsp + 32 * x.th.spill + 32 ≤ a) →
        (t.core c).ls.byte a = (s.core c).ls.byte a) ∧
      (t.slotAt c n).th = if x.th.spill = 3
        then { x.th with spill := 0, wsp := mix x.th.wsp (BitVec.ofNat 64 ((wspPtr x.th.wsp + 1) * 32)) 16 5 }
        else { x.th with spill := x.th.spill + 1 })

/-- Thread slots: granting, loading, issuing in turn, draining, suspending, waking and spilling. Where the
manual leaves room it rests on the model's choices (log entries 12, 14, 60, 62). -/
def Obligations.SlotsTakeLoseAndWakeThreads : Prop :=
  Sys2Proof.Claims.SlotsTakeAndLoseThreads ∧ Sys2Proof.Claims.LeastKeyIssues ∧ Sys2Proof.Claims.WakesAndSpillSteps


/-- The breakwater (R68, R90 to R92): above 95 °C it disables the highest enabled slot but slot 0, below 90 °C and 4.56 kW
it enables the lowest disabled one, and changes no other slot; the ranking it writes names the partition's places and puts
none with a disabled slot before one without. Where the
manual leaves room it rests on the model's choices (log entries 7, 80). -/
def Obligations.BreakwaterDisablesAndEnables : Prop :=
  ∀ (s : State) (c : CoreId) (n : SlotId) (temp power : Nat) (hot : Bool),
  let x := s.slotAt c n
  (EvalDue s c → (95 < temp ∨ (4800000 < power ∧ hot = true)) → n ≠ 0 → Enabled x →
    (∀ m : SlotId, n < m → ¬ Enabled (s.slotAt c m)) →
    (x.st = .free ∨ x.st = .parked ∨ (x.st = .ready ∧ s.mayMigrate c x.th = false)) →
    ∃ t, exec (.breakwaterEvaluation c temp power hot) s = .next t ∧ (t.slotAt c n).th = x.th ∧
      (x.st = .free → (t.slotAt c n).st = .disabled) ∧ (x.st = .parked → (t.slotAt c n).st = .heldParked) ∧
      (x.st = .ready → (t.slotAt c n).st = .held) ∧ ∀ m, m ≠ n → t.slotAt c m = s.slotAt c m) ∧
  (EvalDue s c → temp < 90 → power < 4560000 → ¬ Enabled x → (∀ m : SlotId, m < n → Enabled (s.slotAt c m)) →
    ∃ t, exec (.breakwaterEvaluation c temp power hot) s = .next t ∧ (t.slotAt c n).th = x.th ∧
      (x.st = .disabled → (t.slotAt c n).st = .free) ∧ (x.st = .heldParked → (t.slotAt c n).st = .parked) ∧
      ∀ m, m ≠ n → t.slotAt c m = s.slotAt c m) ∧
  (EvalDue s c → 90 ≤ temp → temp ≤ 95 → power ≤ 4800000 →
    ∃ t, exec (.breakwaterEvaluation c temp power hot) s = .next t ∧ ∀ m, t.slotAt c m = s.slotAt c m) ∧
  (∀ (p : BitVec 6) (l : List CoreId),
    let places := (s.part p.toNat).places
    let off (d : CoreId) : Prop := ∃ m : SlotId, (s.slotAt d m).st = .disabled ∨ (s.slotAt d m).st = .held ∨
      (s.slotAt d m).st = .heldParked
    l.length = places.length → (∀ d, d ∈ l ↔ d ∈ places) → l.Pairwise (fun a b => off a → off b) →
    ∃ t, exec (.thermalRankingRewrite p l) s = .next t ∧ (t.part p.toNat).ranking = l ∧
      (t.part p.toNat).places = places ∧ t.cores = s.cores)

namespace Sys2Proof.Claims

/-! ## Shift tracks -/

/-- The launch that an owner record names has not completed (R322). -/
def LaunchLive (s : State) (l : BitVec 16) : Prop :=
  ∃ p, s.partOf s.cur.core = some p ∧ let e := s.lv ⟨p, .launch, l.toNat % 4096⟩
    (e.st = .opened ∨ e.st = .sealed) ∧ e.gen.toNat = l.toNat / 4096

/-- A track that is full for a use, and lets the thread use it (R321, R334); its rows are listed in order. -/
structure Usable (s : State) (t : TrackId) (k : Track) : Prop where
  is : s.here.track t = k
  full : k.nodes = [] ∧ k.arrays = 0 ∧ k.move = .idle ∧ k.after = .rest
  mine : s.th.level = .user → k.xfer = false ∧ k.lost = false ∧ k.valid = true ∧ k.launch = s.th.launch ∧
    LaunchLive s k.launch
  rows : rising (k.rows.map (·.1)) = true ∧ rising k.bad = true
  codes : k.codes = []
  quiet : s.here.shiftq = [] ∧ ∀ p ∈ s.here.tracks, p.2.move = .idle
  ready : s.me.st = .ready
  pos : k.pos < 256

/-- `HCLAIM` after a use (R321). -/
def claims (s : State) (t : TrackId) : Word := if s.th.level = .user then s.th.hclaim ||| 1#64 <<< t.toNat else s.th.hclaim

/-- The track after a move of `n` positions that takes `c` cycles (R314, R318), with what else has changed of it; the positions
are charged, and no other track changes. -/
def Moved (s t : State) (h : TrackId) (k : Track) (n c : Nat) : Prop :=
  t.here.track h = { k with move := if c = 0 then .idle else .moving (s.now + c) } ∧
  (∀ j, j ≠ h → t.here.track j = s.here.track j) ∧ t.th.shcnt = s.th.shcnt + BitVec.ofNat 64 n ∧ t.th.hclaim = claims s h

/-- Position and EDGE after a step (R316). -/
def stepped (k : Track) (n : Int) : Nat := (clamp 0 255 (k.pos + n)).toNat
def edged (k : Track) (n : Int) : Bool := k.edge || decide (k.pos + n < 0) || decide (255 < k.pos + n)

/-- A row of a track. -/
def trackRow (k : Track) (p : Nat) : Row := (look k.rows p).getD 0

end Sys2Proof.Claims

open Sys2Proof Sys2Proof.Machine Sys2Proof.Claims

/-- Claiming and releasing tracks, and `HPOS` (R322, R335, R336, R340). Where the
manual leaves room it rests on the model's choices (log entry 45). -/
def Obligations.TracksAreClaimedAndReleased : Prop :=
  ∀ (s : State) (d : SReg) (h : TrackId),
  let k := s.here.track h
  let set (t : Thread) (i : TrackId) : Thread := { t with hclaim := t.hclaim ||| 1#64 <<< i.toNat }
  let taken (k : Track) : Track := { k with valid := true, resid := true, launch := s.th.launch, tenant := s.th.tenant }
  let free (k : Track) : Prop := k.valid = false ∧ (k.resid = false ∨ k.tenant = s.th.tenant)
  (Ready s [sN d] → k.nodes = [] → k.arrays = 0 → k.xfer = false → k.scrub = false →
    (free k → ∃ t, exec (.hclm d h) s = .next t ∧ t.here.track h = taken k ∧
      t.th = (done (s.setTh ((set s.th h).setS d (BitVec.ofNat 64 h.toNat)))).th) ∧
    (k.valid = true → LaunchLive s k.launch → k.launch = s.th.launch → exec (.hclm d h) s =
      .next (done (s.setTh ((set s.th h).setS d (BitVec.ofNat 64 h.toNat))))) ∧
    (k.valid = true → LaunchLive s k.launch → k.launch ≠ s.th.launch → exec (.hclm d h) s =
      .next (s.takeTrap (ownTrap h k (if k.tenant = s.th.tenant then 0 else 1)))) ∧
    (k.valid = false → k.resid = true → k.tenant ≠ s.th.tenant → exec (.hclm d h) s =
      .next (s.takeTrap (ownTrap h k 2)))) ∧
  (Ready s [sN d] →
    let good (j : TrackId) : Prop := let x := s.here.track j
      x.nodes = [] ∧ x.arrays = 0 ∧ x.xfer = false ∧ x.scrub = false ∧ x.lost = false ∧ free x
    (good h → (∀ j, j < h → ¬ good j ∧ (s.here.track j).valid = false) → ∃ t, exec (.hclmAny d) s = .next t ∧
      t.here.track h = taken k ∧ t.th = (done (s.setTh ((set s.th h).setS d (BitVec.ofNat 64 h.toNat)))).th) ∧
    ((∀ j, ¬ good j ∧ (s.here.track j).valid = false) → exec (.hclmAny d) s = .next (wrote s d (-1)))) ∧
  (Ready s [] → k.nodes = [] → k.arrays = 0 → k.move = .idle → k.after = .rest →
    (s.th.level = .user → k.xfer = false ∧ k.lost = false) →
    ∃ t, exec (.hrel h) s = .next t ∧
      t.here.track h = (if k.valid = true ∧ k.launch = s.th.launch then { k with valid := false } else k) ∧
      t.th = (done (s.setTh { s.th with hclaim := s.th.hclaim &&& ~~~(1#64 <<< h.toNat) })).th) ∧
  (Ready s [sN d] → k.pos < 256 →
    let mine := k.valid && k.launch == s.th.launch
    ∃ t w, exec (.hpos d h) s = .next t ∧ t = wrote s d w ∧ w.getLsbD 17 = k.xfer ∧ w.getLsbD 16 = k.lost ∧
      w.getLsbD 15 = (!k.nodes.isEmpty || decide (0 < k.arrays)) ∧ w.getLsbD 14 = k.valid ∧ w.getLsbD 13 = mine ∧
      (if mine = true ∨ s.th.level ≠ .user then
        w.toNat / 2 ^ (32 : Nat) = k.errs.toNat ∧ w.toNat / 2 ^ (10 : Nat) % 8 = k.tag.toNat ∧ w.getLsbD 9 = k.edge ∧ w.toNat % 256 = k.pos
      else w.toNat / 2 ^ (32 : Nat) = 0 ∧ w.toNat / 2 ^ (10 : Nat) % 8 = 0 ∧ w.getLsbD 9 = false ∧ w.toNat % 256 = 0) ∧
      (k.move = .idle → w.getLsbD 8 = false))

/-- Tracks at work (R314 to R318, R320, R321, R337 to R339, R341): a seek, a rewind and an access each move the head by the
positions the rule names, charge them, and leave the track empty for the cycles of the motion; rows are read and written at
the head before the step; moves end, start from the queue, scrub and recalibrate. Where the
manual leaves room it rests on the model's choices (log entries 25, 52). -/
def Obligations.TracksMoveReadAndWrite : Prop :=
  ∀ (s : State) (h : TrackId) (k : Track),
  (Usable s h k →
    (∀ p : BitVec 8, Ready s [] → ∃ t, exec (.hseek h p) s = .next t ∧
      let n := ((p.toNat : Int) - k.pos).natAbs
      Moved s t h { k with pos := p.toNat, edge := false } n ((n + 1) / 2)) ∧
    (∀ r : SReg, Ready s [sN r] → ∃ t, exec (.hseekReg h r) s = .next t ∧
      let p := (s.th.sv r).toNat % 256
      let n := ((p : Int) - k.pos).natAbs
      Moved s t h { k with pos := p, edge := false } n ((n + 1) / 2)) ∧
    (Ready s [] → ∃ t, exec (.hrwd h) s = .next t ∧ Moved s t h { k with pos := 0, edge := false } k.pos ((k.pos + 1) / 2)) ∧
    (∀ (d : VReg) (tl : TileId) (nb : Bool) (step : BitVec 6), Ready s [vN d] → OwnTile s tl →
      s.heldRow s.cur.core tl d = false → k.bad.contains k.pos = false → ∃ t, exec (.hrds h d nb step) s = .next t ∧
      let n := ((stepped k step.toInt : Int) - k.pos).natAbs
      Moved s t h { k with pos := stepped k step.toInt, edge := edged k step.toInt } n ((n + 1) / 2) ∧
      t.here.tiles[tl.toFin][d.toFin] = ⟨trackRow k k.pos, .full⟩ ∧
      ∀ (x : Fin 4) (y : Fin 32), (x, y) ≠ (tl.toFin, d.toFin) → t.here.tiles[x][y] = s.here.tiles[x][y]) ∧
    (∀ (a : Src) (tl : TileId) (step : BitVec 6), Ready s [a.vneed] → OwnTile s tl → ∃ t k', exec (.hwrs h a step) s = .next t ∧
      let n := ((stepped k step.toInt : Int) - k.pos).natAbs
      Moved s t h k' n ((n + 1) / 2) ∧ k'.pos = stepped k step.toInt ∧ k'.edge = edged k step.toInt ∧ k'.tag = 0 ∧
      trackRow k' k.pos = (s.here.tiles[tl.toFin][a.reg.toFin]).v ∧ k'.bad.contains k.pos = false ∧
      (∀ p, p ≠ k.pos → trackRow k' p = trackRow k p ∧ k'.bad.contains p = k.bad.contains p) ∧ t.here.tiles = s.here.tiles) ∧
    (∀ (c a : Src) (tl : TileId), Ready s [a.need, c.vneed] → OwnTile s tl →
      let n := (val s a).toNat
      (n = 0 → ∃ t, exec (.hfill h c 1 a) s = .next t ∧ t.here.track h = k) ∧
      (0 < n → k.pos + n ≤ 256 → ∃ t k', exec (.hfill h c 1 a) s = .next t ∧
        Moved s t h k' ((stepped k n : Int) - k.pos).natAbs n ∧ k'.pos = stepped k n ∧ k'.edge = edged k n ∧ k'.tag = 0 ∧
        ∀ p, trackRow k' p = if k.pos ≤ p ∧ p < k.pos + n then (s.here.tiles[tl.toFin][c.reg.toFin]).v else trackRow k p)) ∧
    (Ready s [] → (k.pos = 0 → ∃ t, exec (.hrwdR h) s = .next t ∧ (t.here.track h).pos = 0 ∧ (t.here.track h).lost = false ∧
      t.th.pc = (done s).th.pc) ∧
      (0 < k.pos → ∃ t, exec (.hrwdR h) s = .next t ∧ t.me.st = .parked ∧ t.me.wait = .recal h ∧
        Moved s t h { k with pos := 0, edge := false, after := .recal s.cur.slot s.th.uid true } k.pos ((k.pos + 1) / 2)))) ∧
  (∀ (c : CoreId) (u : Nat), (s.core c).track h = k → k.move = .moving u → u ≤ (s.core c).cycle →
    (k.after = .rest → ∃ t, exec (.shiftMoveEnd c h) s = .next t ∧ (t.core c).track h = { k with move := .idle }) ∧
    (k.after = .scrub → ∃ t, exec (.shiftMoveEnd c h) s = .next t ∧
      (t.core c).track h = { k with move := .moving (u + 128), after := .zeroing }) ∧
    (k.after = .zeroing → ∃ t, exec (.scrubComplete c h) s = .next t ∧ (∀ p, trackRow ((t.core c).track h) p = 0) ∧
      ((t.core c).track h).bad = [] ∧ ((t.core c).track h).tag = 0 ∧ ((t.core c).track h).resid = false ∧
      ((t.core c).track h).scrub = false ∧ ((t.core c).track h).move = .idle ∧ ((t.core c).track h).pos = k.pos) ∧
    (∀ (n : SlotId), k.after = .recal n (s.slotAt c n).th.uid true → (s.slotAt c n).st = .parked →
      (s.slotAt c n).wait = .recal h → (s.slotAt c n).held = none → (∀ q ∈ s.reqs, q.uid ≠ (s.slotAt c n).th.uid) →
      (∀ e ∈ (s.core c).arrayq, e.uid ≠ (s.slotAt c n).th.uid) → ∃ t, exec (.recalibrationEnd c h) s = .next t ∧
      ((t.core c).track h).lost = false ∧ ((t.core c).track h).move = .idle ∧ (t.slotAt c n).st = .ready)) ∧
  (∀ (c : CoreId) (n : Nat) (l : List TrackId), (s.core c).track h = k → (s.core c).shiftq = h :: l → k.move = .queued n →
    (∀ p ∈ (s.core c).tracks, ∀ u, p.2.move ≠ .moving u) →
    ∃ t, exec (.shiftMoveStart c) s = .next t ∧ (t.core c).shiftq = l ∧
      (t.core c).track h = { k with move := .moving ((s.core c).cycle + 1 + n) })

namespace Sys2Proof.Claims

/-! ## Descriptors, stitched tensors, task nodes -/

/-- The cluster's copy for the partition holds the thread's tenant's entry of a tensor (R245, R246). -/
def HasDesc (s : State) (id : TensorId) (d : Desc) : Prop :=
  aget s.copyHere.descs id = some d ∧ d.tenant = s.th.tenant

/-- Every cluster has applied every new version of a tensor. -/
def VersionsApplied (s : State) (id : TensorId) : Prop :=
  ∀ q ∈ s.copies, ∀ u ∈ q.2.descq, ∀ v n, u.2 ≠ .version id v n

/-- The partition is the only one with an update for the cluster's copy. -/
def OnlyUpdates (s : State) (p : Nat) (cl : BitVec 9) : Prop :=
  ∀ q ∈ s.copies, q.1.2 = cl → q.2.descq ≠ [] → q.1.1 = p

/-- Trap 0x0D of a tensor (R256): reason, word, id. -/
def tensorTrap (id : TensorId) (w reason : Nat) : TrapInfo :=
  ⟨0x0D, BitVec.ofNat 64 (reason * 2 ^ (12 : Nat) + w * 2 ^ (8 : Nat) + id.toNat), 0, 0⟩

/-- The request of an instruction that acts at a home: it has set out, and its thread waits for the reply. -/
def SetOut (s t : State) (op : Op) (dst : Dst) : Prop :=
  ∃ q, t.reqs = s.reqs ++ [q] ∧ q.op = op ∧ q.dst = dst ∧ q.stage = .home ∧ q.uid = s.th.uid ∧ q.core = s.cur.core ∧
    q.slot = s.cur.slot ∧ q.id = s.serial ∧ t.me.st = .parked ∧ t.me.wait = .access ∧ t.th = s.th ∧ t.mem = s.mem

/-- An instruction performs at its home, with the reply still on its way: the words of the reply, and whether a broadcast
must be applied first. -/
def AtHome (s : State) (i : Instr) (t : State) (ws : List Word) (bcast : Bool) : Prop :=
  Runs [i, .perform s.serial] s t ∧ ∃ q, t.reqs = [q] ∧ q.id = s.serial ∧ q.stage = .reply ∧
    q.reply = some (.words ws false) ∧ q.upd.isSome = bcast

end Sys2Proof.Claims

open Sys2Proof Sys2Proof.Machine Sys2Proof.Claims

/-- The descriptor table (R245, R246, R256 to R258): `TDSET` reads its image, and an image that keeps the conditions becomes
the entry at the home and sets out for every cluster's copy, which takes it in order; `TDGET` reads the copy that the thread's cluster holds for its partition. Where the
manual leaves room it rests on the model's choices (log entry 77). -/
def Obligations.DescriptorTableIsReadAndWritten : Prop :=
  ∀ (s : State) (d : SReg) (id : TensorId),
  (∀ (k : KReg) (x : SReg) (a : Nat), Quiet s → Ready s [kN k, sN x] → OwnStore s k (s.th.sv x) 64 64 [.read, .cap] a →
    (∃ t, exec (.tdset id k x) s = .next t ∧ SetOut s t (.tdset id) .none) ∧
    (∀ e : Desc, (∀ i, i < 8 → s.here.ls.bad (a / 8 + i) = false) → e.tenant = s.th.tenant →
      (∀ i : Fin 8, e.words[i] = s.here.ls.word (a / 8 + i.val)) →
      (s.th.k[k.toFin]).tenant = s.th.tenant → e.kind ≠ 3 →
      e.check id s.th.level s.th.tenant (s.here.ls.tag (a / 8 + 1) && s.here.ls.tag (a / 8 + 2)) = none →
      aget (s.part s.partHere).descs id = none →
      ∃ t, AtHome s (.tdset id k x) t [] true ∧ aget (t.part s.partHere).descs id = some e ∧
        ∀ cl ∈ s.clustersOf s.partHere, (id, some e) ∈ (t.copy s.partHere cl).descq.filterMap fun u =>
          match u.2 with | .entry i y => some (i, y) | _ => none)) ∧
  (∀ (p : Nat) (cl : BitVec 9) (tok : Nat) (v n : BitVec 32) (e : Desc) (l : List (Nat × DescUpd)), OnlyUpdates s p cl →
    ((s.copy p cl).descq = (tok, .entry id (some e)) :: l → ∃ t, exec (.descriptorUpdateApply cl) s = .next t ∧
      aget (t.copy p cl).descs id = some e ∧ (t.copy p cl).descq = l ∧
      ∀ j, j ≠ id → aget (t.copy p cl).descs j = aget (s.copy p cl).descs j) ∧
    ((s.copy p cl).descq = (tok, .version id v n) :: l → aget (s.copy p cl).descs id = some e → e.kind = 2 →
      ∃ t e', exec (.descriptorUpdateApply cl) s = .next t ∧ aget (t.copy p cl).descs id = some e' ∧
        (t.copy p cl).descq = l ∧ e'.version = v.toNat ∧ e'.shape 1 = n.toNat ∧ e'.tenant = e.tenant ∧
        ∀ i : Fin 8, i ≠ 3 → i ≠ 7 → e'.words[i] = e.words[i])) ∧
  (∀ (x : SReg) (e : Desc), Ready s [sN d, sN x] →
    (HasDesc s id e → (∀ h : (s.th.sv x).toNat < 8, exec (.tdget d id x) s = .next (wrote s d e.words[(s.th.sv x).toNat])) ∧
      (8 ≤ (s.th.sv x).toNat → exec (.tdget d id x) s = .next (s.takeTrap (tensorTrap id 0 0)))) ∧
    ((∀ e', aget s.copyHere.descs id = some e' → e'.tenant ≠ s.th.tenant) →
      exec (.tdget d id x) s = .next (s.takeTrap (tensorTrap id 0 6)))) ∧
  (∀ e : Desc, Quiet s → Ready s [sN d] → HasDesc s id e →
    (e.kind ≠ 2 → ∃ t, Served s (.tdgetVer d id) t ∧ t.th = (wrote s d 0).th) ∧
    (∀ w b, e.kind = 2 → VersionsApplied s id → s.blkWord (s.blk s.cur.core e.key) 8 = .ok (w, b) →
      ∃ t, Served s (.tdgetVer d id) t ∧ t.th = (wrote s d (w >>> 32)).th))

/-- Stitched tensors at their home (R365 to R367, R374, R375), with the control block that `ctrl` reads: `SPIN` counts a pin
and answers the current version, `SPIN.UN` takes one off, and a splice publishes the next version, or answers 0 when EXPECT
is not the current one. -/
def Obligations.StitchedTensorsArePinnedAndSpliced : Prop :=
  ∀ (s : State) (d x : SReg) (id : TensorId) (e : Desc) (c : Ctrl) (i : Nat) (y : VSlot),
  let b := s.blk s.cur.core e.key
  Quiet s → (∀ sp, (s.space sp).wf = true) → HasDesc s id e → e.kind = 2 → s.ctrl b = .ok (some c) →
  s.closedFor s.cur.core id e = false →
  (Ready s [sN d] → VersionsApplied s id → c.find c.ver = some (i, y) → y.pins < 2 ^ (32 : Nat) - 1 →
    ∀ a, s.blkAt b (64 + 32 * i) true = .ok a → ∃ t, Runs [.spin d id, .perform s.serial, .accessReply s.serial] s t ∧
      t.th = (wrote s d (BitVec.ofNat 64 c.ver)).th ∧ t.me.st = .ready ∧
      t.rdW a.space a.idx = BitVec.ofNat 64 (y.ver * 2 ^ (32 : Nat) + y.pins + 1)) ∧
  (Ready s [sN x] →
    (c.find (s.th.sv x).toNat = some (i, y) → 2 ≤ y.pins → ∀ a, s.blkAt b (64 + 32 * i) true = .ok a →
      ∃ t, Runs [.spinUn id x, .perform s.serial, .accessReply s.serial] s t ∧ t.th = (done s).th ∧
        t.rdW a.space a.idx = BitVec.ofNat 64 (y.ver * 2 ^ (32 : Nat) + (y.pins - 1))) ∧
    (c.find (s.th.sv x).toNat = none → ∃ t, Runs [.spinUn id x, .perform s.serial] s t ∧ ∃ q, t.reqs = [q] ∧
      q.reply = some (.trap 0x0D (tensorTrap id 0 15).info 0) ∧ t.mem = s.mem)) ∧
  (∀ (j : Instr) (recs : Option (KCell × Nat)) (ns : List Need),
    let w := s.th.sv x
    let nins := w.toNat / 2 ^ (24 : Nat) % 2 ^ (8 : Nat)
    let nrem := w.toNat / 2 ^ (16 : Nat) % 2 ^ (8 : Nat)
    let expect := w.toNat / 2 ^ (32 : Nat)
    Ready s ns →
    ((j = .spliceRem d id x ∧ ns = [sN d, sN x] ∧ recs = none ∧ nins = 0 ∧ nrem ≠ 0) ∨
      (∃ (k : KSrc) (o : Src) (a : Nat), recs = some (s.th.k[k.reg.toFin], (val s o).toNat) ∧
        ns = [sN d, sN x, k.need, o.need] ∧ nins ≠ 0 ∧ OwnStore s k.reg (val s o) (32 * nins) 32 [.read, .cap] a ∧
        ((j = .spliceIns d id x k o ∧ nrem = 0) ∨ (j = .spliceRep d id x k o ∧ nrem ≠ 0)))) →
    (∃ t, exec j s = .next t ∧ SetOut s t (.splice id e w recs) (.s d)) ∧
    (∀ l, s.insertedRecords s.cur.core w recs = .ok l →
      (expect ≠ 0 → expect ≠ c.ver → ∃ t, AtHome s j t [0] false ∧ t.mem = s.mem ∧ t.parts = s.parts) ∧
      (∀ u v rows, s.spliceAt b id e s.th.level s.th.tenant s.th.place w l = .ok (u, some (v, rows)) →
        v = c.ver + 1 ∧ (expect = 0 ∨ expect = c.ver) ∧
        ∃ t, AtHome s j t [BitVec.ofNat 64 v] true)))

namespace Sys2Proof.Claims

/-- A `TASK` whose operands pass the checks of R349 to R351 and R372, in their order, and that finds no piece translation
missing: its arguments, its two sides, its index tensor and the entry that it takes. -/
structure TaskOk (s : State) (kind : TaskKind) (id : TensorId) (x a b : Word) (w : TaskArgs) (p q : Side)
    (ix : Option (Desc × Nat)) (i : BitVec 10) : Prop where
  fields : State.taskFields kind id x a b = .ok w
  checks : ∀ f, s.taskLimits s.view w f = none ∧ s.taskRaw s.view w f = none ∧ s.taskDesc s.view w f = none ∧
    State.taskTrack s.view w f = none
  limits : s.indexLimits s.view w = none
  index : s.taskIndex s.view w = .ok ix
  sides : s.taskSide s.view w false = .ok p ∧ s.taskSide s.view w true = .ok q
  tracks : ∀ t n, (p = .track t n ∨ q = .track t n) → Usable s t (s.here.track t)
  entry : s.freeNode (clusterOf s.cur.core) = some i
  live : s.cancelled 4 (s.graphOf s.th) = false
  kept : s.me.st = .ready ∧ s.pair = none
  drains : s.drains = []

/-- The instruction of each kind of task. -/
def taskInstr (k : TaskKind) (d : SReg) (t : TensorId) (x : SReg) (a b : Src) (go : Bool) : Instr :=
  match k with
  | .copy => .taskCopy d x a b go
  | .gather => .taskGather d t x a b go
  | .scatter => .taskScatter d t x a b go
  | .scatterAdd => .taskScatterAdd d t x a b go
  | .reduce => .taskReduce d x a b go
  | .collective => .taskCollective d x a b go
  | .migrate => .taskMigratePage d x a b go

/-- The tensor of a task: the one named, of the kinds that name one. -/
def taskTensor (k : TaskKind) (t : TensorId) : TensorId :=
  match k with
  | .gather => t
  | .scatter => t
  | .scatterAdd => t
  | _ => 0

/-- A node handle (R345). -/
def handleOf (cl : BitVec 9) (i : BitVec 10) (gen : BitVec 4) : Word :=
  BitVec.ofNat 64 (gen.toNat * 2 ^ (19 : Nat) + cl.toNat * 2 ^ (10 : Nat) + i.toNat)

/-- A side is stitched (R368). -/
def isPiece : Side → Bool
  | .piece .. => true
  | _ => false

/-- Nothing of tasks is under way but the node `i` of cluster `cl`. -/
structure LoneNode (s : State) (cl : BitVec 9) (i : BitVec 10) (n : Node) : Prop where
  only : s.clusters.map (fun p => (p.1, p.2.nodes)) = [(cl, [(i, n)])]
  drains : s.drains = []

end Sys2Proof.Claims

open Sys2Proof Sys2Proof.Machine Sys2Proof.Claims

/-- `TASK` (R345, R349 to R351, R372) creates a node with what its words say, held or released, answers its handle, counts in
its graph and holds its tracks; with a stitched side it reserves the entry until the pins are set. Where the
manual leaves room it rests on the model's choices (log entry 46). -/
def Obligations.TasksCreateNodes : Prop :=
  ∀ (s : State) (k : TaskKind) (d : SReg) (id : TensorId) (x : SReg) (a b : Src) (go : Bool) (w : TaskArgs) (p q : Side)
    (ix : Option (Desc × Nat)) (i : BitVec 10),
  let i' := taskInstr k d id x a b go
  let cl := clusterOf s.cur.core
  let gen := (s.node cl i).gen + 1
  let g := s.graphOf s.th
  Ready s [sN d, sN x, a.need, b.need] → (k = .migrate → s.th.level ≠ .user) →
  TaskOk s k (taskTensor k id) (s.th.sv x) (val s a) (val s b) w p q ix i →
  (isPiece p = false → isPiece q = false → ∃ t n, exec i' s = .next t ∧ aget (t.cluster cl).nodes i = some n ∧
    t.th.s = (wrote s d (handleOf cl i gen)).th.s ∧ t.th.pc = (done s).th.pc ∧ t.mem = s.mem ∧
    n.gen = gen ∧ n.st = (if go then .ready else .held) ∧ n.kind = k ∧ n.src = p ∧ n.dst = q ∧ n.index = ix ∧
    n.graph = g ∧ n.tenant = s.th.tenant ∧ n.core = s.cur.core ∧ n.place = s.th.place ∧ n.size = (val s b).toNat % 2 ^ (38 : Nat) ∧
    n.quiet = (val s b).getLsbD 38 ∧ n.preds = 0 ∧ n.succs = [] ∧ n.tag.toNat = s.th.tagf.toNat % 2 ^ (32 : Nat) ∧
    (t.lv g).count = (s.lv g).count + 1 ∧
    ∀ h m, (p = .track h m ∨ q = .track h m) → (⟨cl, i, gen⟩ : NodeId) ∈ (t.here.track h).nodes) ∧
  (isPiece p = true ∨ isPiece q = true → ∃ t r n, exec i' s = .next t ∧ t.reqs = s.reqs ++ [r] ∧
    r.op = .task n i go ∧ r.dst = .s d ∧ r.stage = .home ∧ n.src = p ∧ n.dst = q ∧ n.gen = gen ∧
    (t.node cl i).st = .reserved ∧ t.me.st = .parked ∧ t.me.wait = .access ∧ t.th.s = s.th.s)

/-- `TDEP` and its release (R346, R347, R373), at the nodes' clusters: an edge from a node that has not completed to a held
one, none from a completed one; a released node is READY once nothing precedes it. -/
def Obligations.EdgesAndReleases : Prop :=
  ∀ (s : State) (a b : Src),
  let x := handleId (val s a)
  let y := handleId (val s b)
  let n := s.node x.cl x.idx
  let m := s.node y.cl y.idx
  let mine (w : Word) : Prop := w.toNat < 2 ^ (23 : Nat) ∧ (handleId w).cl ∈ s.clustersOf s.partHere
  Quiet s → s.me.st = .ready → mine (val s a) → n.tenant = s.th.tenant → n.gen = x.gen →
  (Ready s [a.need, b.need] → mine (val s b) → m.tenant = s.th.tenant → m.st = .held → m.gen = y.gen →
    (x.cl, x.idx) ≠ (y.cl, y.idx) →
    (n.st = .held ∨ n.st = .waiting ∨ n.st = .ready ∨ n.st = .running → n.succs.length < 8 →
      ∃ t, Runs [.tdep a b, .perform s.serial, .accessReply s.serial] s t ∧ t.th = (done s).th ∧
        t.node x.cl x.idx = { n with succs := n.succs ++ [y] } ∧
        t.node y.cl y.idx = { m with preds := m.preds + 1 }) ∧
    (n.st = .draining → ∃ t, Runs [.tdep a b, .perform s.serial, .accessReply s.serial] s t ∧ t.th = (done s).th ∧
      t.node x.cl x.idx = n ∧ t.node y.cl y.idx = m)) ∧
  (Ready s [a.need] → n.st = .held → n.doomed = false →
    ∃ t, Runs [.tdepGo a, .perform s.serial, .accessReply s.serial] s t ∧ t.th = (done s).th ∧
      (t.node x.cl x.idx).st = if n.preds = 0 then .ready else .waiting)

/-- A node's life (R346, R347, R353 to R356): READY, it goes to the idlest engine of its die, or completes if it moves
nothing; a copy of an aligned word within a local store stages it, commits it with its range, and performs it at its home
with its tag; its drain over, its graph counts one less and no core holds it any longer; its completion accepted, its entry is free. Where the
manual leaves room it rests on the model's choices (log entry 44). -/
def Obligations.NodesRunStageCommitAndEnd : Prop :=
  ∀ (s : State) (cl : BitVec 9) (i : BitVec 10) (n : Node), LoneNode s cl i n →
  (n.st = .ready → n.gate = false → n.kind = .copy →
    (n.size = 0 → n.chunks = [] → ∃ t m, exec (.nodeDispatch cl i) s = .next t ∧ aget (t.cluster cl).nodes i = some m ∧
      m.st = .draining ∧ m.status = .ok ∧ m.commit = n.commit) ∧
    (0 < n.size → n.src.isTrack = false → n.dst.isTrack = false → n.engine = none → ∃ t m,
      exec (.nodeDispatch cl i) s = .next t ∧ aget (t.cluster cl).nodes i = some m ∧ m.st = .running ∧
      m.engine = some (BitVec.ofNat 5 (4 * (dieOfCluster cl).toNat)) ∧
      m.chunks = List.replicate ((n.size + 2 ^ (19 : Nat) - 1) / 2 ^ (19 : Nat)) Chunk.fresh)) ∧
  (∀ (k k' : KCell) (o o' : Nat) (e : BitVec 5) (h : CoreId),
    let src := (k.w0.toNat % 2 ^ (31 : Nat) + o) % 2 ^ (18 : Nat)
    let dst := (k'.w0.toNat % 2 ^ (31 : Nat) + o') % 2 ^ (18 : Nat)
    let held (c : KCell) (off : Nat) : Prop := c.kind = 1 ∧ c.tag = true ∧ off + 8 ≤ c.len ∧
      (n.level = .user → c.tenant = n.tenant) ∧ s.placeCore n.core ((c.w0.toNat % 2 ^ (31 : Nat) + off) / 2 ^ (18 : Nat)) = some h
    n.st = .running → n.engine = some e → n.kind = .copy → n.size = 8 → n.chunks = [Chunk.fresh] → n.done = 0 →
    n.src = .raw k o → n.dst = .raw k' o' → n.fem = false → n.quiet = true → src % 8 = 0 → dst % 8 = 0 → held k o → held k' o' →
    k.has .read = true → k'.has .write = true → (s.core h).ls.bad (src / 8) = false → (s.core h).ls.wf = true →
    ∃ t u v w m, exec (.chunkStaging cl i) s = .next t ∧ exec (.chunkCommit cl i) t = .next u ∧ u.drains = [w] ∧
      (∀ x, (t.core h).ls.byte x = (s.core h).ls.byte x ∧ (u.core h).ls.byte x = (s.core h).ls.byte x) ∧
      aget (u.cluster cl).nodes i = some m ∧ m.st = .draining ∧ m.status = .ok ∧ m.commit = n.commit + 8 ∧
      exec (.perform w.id) u = .next v ∧ v.drains = [] ∧ (v.core h).ls.word (dst / 8) = (s.core h).ls.word (src / 8) ∧
      (v.core h).ls.tag (dst / 8) = (s.core h).ls.tag (src / 8) ∧
      ∀ x, (x < dst ∨ dst + 8 ≤ x) → (v.core h).ls.byte x = (s.core h).ls.byte x) ∧
  (n.st = .draining →
    (n.told = false → n.succs = [] → 2 ≤ (s.lv n.graph).count → ∃ t, exec (.nodeDrainEnd cl i) s = .next t ∧
      aget (t.cluster cl).nodes i = some { n with told := true } ∧ (t.lv n.graph).count + 1 = (s.lv n.graph).count ∧
      ∀ c, ∀ y ∈ (t.core c).acquire, y.node ≠ ⟨cl, i, n.gen⟩) ∧
    (n.told = true → n.unpin = [] → n.msg = none → ∃ t m, exec (.nodeDrainEnd cl i) s = .next t ∧
      aget (t.cluster cl).nodes i = some m ∧ m.st = .free ∧ m.gen = n.gen))

namespace Sys2Proof.Claims

/-! ## Tiles and the matrix array -/

/-- The tile is the thread's launch's, and is not being transferred (R273, R274). -/
def MyTile (s : State) (t : TileId) : Prop :=
  (s.here.aown[t.toFin]).getLsbD 62 = false ∧ ownedBy s.here.aown[t.toFin] s.th = true

/-- No row of a core has a fault record (R272). -/
def NoRowFaults (s : State) (c : CoreId) : Prop :=
  (s.core c).orphans = [] ∧ (∀ m, ((s.core c).slots[(m : SlotId)]).th.rowFaults = []) ∧
    ∀ r ∈ (s.core c).susp, r.th.rowFaults = []

/-- Rows of a tile with no fault, held by no routed row (R272, R394). -/
structure FreeRows (s : State) (t : TileId) (first n : Nat) : Prop where
  free : ∀ j, j < n → s.heldRow s.cur.core t (BitVec.ofNat 5 (first + j)) = false
  faults : NoRowFaults s s.cur.core

/-- Rows of a tile that a bundle may read or write: those, and full (R271). -/
structure CleanRows (s : State) (t : TileId) (first n : Nat) : Prop extends FreeRows s t first n where
  full : ∀ j, j < n → (s.here.tiles[t.toFin][(BitVec.ofNat 5 (first + j)).toFin]).f = .full

/-- Byte `j` of a row. -/
def rowByte (s : State) (t : TileId) (r : Nat) (j : Nat) : Byte :=
  (s.here.tiles[t.toFin][(BitVec.ofNat 5 r).toFin]).v.extractLsb' (8 * j) 8

/-- The array is the thread's launch's, its queue is empty, its configuration is K by N (R261, R262). -/
structure ArrayMine (s : State) (k n : Nat) : Prop where
  owner : ownedBy s.here.mown s.th = true
  empty : s.here.arrayq = []
  config : s.here.cfgk = k ∧ s.here.cfgn = n

/-- The queue holds one entry. -/
def OneEntry (s : State) (c : CoreId) (e : AEntry) : Prop :=
  (s.core c).arrayq = [e] ∧ e.fail = none ∧ (s.die (dieOf c)).pageq = [] ∧ (s.die (dieOf c)).held = []

/-- An entry of an instruction has joined the queue; the instruction has completed. -/
def Queued (s t : State) (op : AOp) : Prop :=
  ∃ e, t.here.arrayq = s.here.arrayq ++ [e] ∧ e.op = op ∧ e.run = none ∧ e.rows = 0 ∧ e.fail = none ∧ e.uid = s.th.uid ∧
    e.pc = s.th.pc ∧ e.taken = 0 ∧ e.got = [] ∧ e.ins = [] ∧ t.here.stat = s.here.stat ∧ t.here.shad = s.here.shad

/-- Tile bindings and images (R270, R276, R280 to R282). -/
def TilesBindSaveLoadAndZero : Prop :=
  ∀ (s : State) (tl : TileId) (ty : ETy),
  (Ready s [] →
    exec (.abind tl ty) s = .next (done (s.setTh { s.th with
      tileb := BitVec.ofNat 64 (128 + tl.toNat * 16 + ty.code.toNat) })) ∧
    exec .abindOff s = .next (done (s.setTh { s.th with tileb := 0 }))) ∧
  (∀ (first : BitVec 5) (count : BitVec 6), Ready s [] → MyTile s tl → 1 ≤ count.toNat →
    first.toNat + count.toNat ≤ 32 → CleanRows s tl first.toNat count.toNat →
    ∃ t, exec (.azero tl first count) s = .next t ∧ t.th = (done s).th ∧ t.here.ls = s.here.ls ∧
      (∀ r : VReg, t.here.tiles[tl.toFin][r.toFin] =
        if first ≤ r ∧ r.toNat < first.toNat + count.toNat then ⟨0, .full⟩ else s.here.tiles[tl.toFin][r.toFin]) ∧
      ∀ x : Fin 4, x ≠ tl.toFin → t.here.tiles[x] = s.here.tiles[x]) ∧
  (∀ (i : Instr) (key : KReg) (off : Word) (xs : List Need) (a : Nat), Quiet s → s.th.level ≠ .user →
    Ready s (xs ++ [kN key]) → s.here.ls.wf = true → CleanRows s tl 0 32 →
    let run (t : State) : Prop := Runs [i, .clusterPortTranslation s.serial, .perform s.serial, .accessReply s.serial] s t ∧
      t.th = (done s).th ∧ t.me.st = .ready ∧ (t.here.aown[tl.toFin]).getLsbD 62 = true
    (Form s (.asave tl) (.asaveIndexed tl) i key off xs → OwnStore s key off 4096 128 [.write] a →
      ∃ t, run t ∧ t.here.tiles = s.here.tiles ∧ OnlyBytes s t a 4096 ∧
        ∀ r j, r < 32 → j < 128 → t.here.ls.byte (a + 128 * r + j) = rowByte s tl r j) ∧
    (Form s (.aload tl) (.aloadIndexed tl) i key off xs → OwnStore s key off 4096 128 [.read] a →
      (∀ j, j < 512 → s.here.ls.bad (a / 8 + j) = false) →
      ∃ t, run t ∧ t.here.ls = s.here.ls ∧ (∀ x : Fin 4, x ≠ tl.toFin → t.here.tiles[x] = s.here.tiles[x]) ∧
        ∀ r j, r < 32 → j < 128 → rowByte t tl r j = s.here.ls.byte (a + 128 * r + j)))

/-- The table of R263: kind and format of the weights, format of the activations. -/
def ModeOf (m : AMode) (w a : Desc) : Prop :=
  match m with
  | .bf16 => w.kind = 0 ∧ w.format = 2 ∧ a.format = 2
  | .fp16 => w.kind = 0 ∧ w.format = 3 ∧ a.format = 3
  | .fp8 => w.kind = 0 ∧ (w.format = 4 ∨ w.format = 5) ∧ (a.format = 4 ∨ a.format = 5)
  | .w8a8 => w.kind = 1 ∧ w.format = 10 ∧ a.format = 8 ∧ a.rscale = true
  | .w4a8 => w.kind = 1 ∧ w.format = 11 ∧ a.format = 8 ∧ a.rscale = true
  | .w8a16 => w.kind = 1 ∧ w.format = 10 ∧ a.format = 2
  | .w4a16 => w.kind = 1 ∧ w.format = 11 ∧ a.format = 2
  | .fp32 => w.kind = 0 ∧ w.format = 1 ∧ a.format = 1
  | .fp64 => w.kind = 0 ∧ w.format = 0 ∧ a.format = 0

/-- K max and N max. -/
def modeMax : AMode → Nat × Nat
  | .bf16 => (64, 32) | .fp16 => (64, 32) | .fp8 => (128, 32) | .w8a8 => (128, 32) | .w4a8 => (256, 32)
  | .w8a16 => (128, 32) | .w4a16 => (256, 32) | .fp32 => (32, 32) | .fp64 => (16, 16)

/-- Source rows of an activation row. -/
def rowsPer : AMode → Nat
  | .bf16 => 1 | .fp16 => 1 | .fp8 => 1 | .w8a8 => 1 | .w4a8 => 2 | .w8a16 => 2 | .w4a16 => 4 | .fp32 => 1 | .fp64 => 1

/-- Cycles of an activation row. -/
def rowCycles (m : AMode) (src : Loc) : Nat :=
  match m with
  | .bf16 => 1 | .fp16 => 1 | .fp8 => 1 | .w8a8 => 1 | .w8a16 => 2 | .w4a16 => 4 | .fp32 => 2 | .fp64 => 4
  | .w4a8 => match src with | .tile .. => 1 | _ => 2

/-- The modes and the limits of the array (R263). -/
def ArrayModesAreTheTable : Prop :=
  ∀ (w a : Desc) (m : AMode),
  (arrayMode w a = some m ↔ ModeOf m w a) ∧ (ModeOf m w a → weightLimits w = some (modeMax m)) ∧
  ((∀ m b, ¬ ModeOf m w b) → weightLimits w = none)

/-- The array instructions at issue (R261, R262, R283 to R287). -/
def ArrayInstructionsQueue : Prop :=
  ∀ (s : State),
  (∀ (a : Src) (k n : Nat), Ready s [a.need] → ArrayMine s k n →
    let w := (val s a).toNat
    (w / 2 ^ (15 : Nat) = 0 → w % 2 ^ (9 : Nat) ≤ 256 → w / 2 ^ (9 : Nat) ≤ 32 → ∃ t, exec (.mcfg a) s = .next t ∧ t.th = (done s).th ∧
      Queued s t (.mcfg (w % 2 ^ (9 : Nat)) (w / 2 ^ (9 : Nat)))) ∧
    (w / 2 ^ (15 : Nat) ≠ 0 ∨ 256 < w % 2 ^ (9 : Nat) ∨ 32 < w / 2 ^ (9 : Nat) % 2 ^ (6 : Nat) →
      exec (.mcfg a) s = .next (s.takeTrap (tensorTrap 0 0 10)))) ∧
  (∀ (tr : Bool) (id : TensorId) (x : SReg) (d : Desc) (k n km nm : Nat) (src : ASrc), Ready s [sN x] → ArrayMine s k n →
    HasDesc s id d → weightLimits d = some (km, nm) → k ≤ km → n ≤ nm → (d.kind = 1 → k % d.group = 0) →
    let w := (s.th.sv x).toNat
    let rows := (k * n * d.width + 1023) / 1024
    w / 2 ^ (16 : Nat) % 2 ^ (16 : Nat) = 0 →
    (src = .tile → w / 2 ^ (7 : Nat) % 2 ^ (9 : Nat) = 0 → MyTile s (BitVec.ofNat 2 w) → w / 4 % 32 + rows ≤ 32 →
      ∃ t, exec (.mldw tr src id x) s = .next t ∧ t.th = (done s).th ∧
        Queued s t (.mldw tr k n (w / 2 ^ (32 : Nat)) (.tile (BitVec.ofNat 2 w) (w / 4 % 32)) id d)) ∧
    (src = .track → w / 2 ^ (6 : Nat) % 2 ^ (10 : Nat) = 0 → Usable s (BitVec.ofNat 6 w) (s.here.track (BitVec.ofNat 6 w)) →
      (s.here.track (BitVec.ofNat 6 w)).tag.toNat = d.swizzle →
      ∃ t, exec (.mldw tr src id x) s = .next t ∧
        Queued s t (.mldw tr k n (w / 2 ^ (32 : Nat)) (.track (BitVec.ofNat 6 w)) id d) ∧
        (t.here.track (BitVec.ofNat 6 w)).arrays = 1) ∧
    (∀ a, src = .ls → w / 2 ^ (14 : Nat) % 4 = 0 →
      OwnStore s (BitVec.ofNat 3 w) (BitVec.ofNat 64 (128 * (w / 8 % 2 ^ (11 : Nat)))) (128 * rows) 1 [.read] a →
      s.placeOf s.cur.core = ((s.th.k[(BitVec.ofNat 3 w).toFin]).w0.toNat % 2 ^ (31 : Nat) + 128 * (w / 8 % 2 ^ (11 : Nat))) / 2 ^ (18 : Nat) →
      ∃ t, exec (.mldw tr src id x) s = .next t ∧ t.th = (done s).th ∧
        Queued s t (.mldw tr k n (w / 2 ^ (32 : Nat)) (.ls a) id d))) ∧
  (∀ k n, Ready s [] → ArrayMine s k n → ∃ t, exec .mswap s = .next t ∧ Queued s t .mswap ∧ t.me.st = .parked ∧
    t.me.wait = .swap s.serial) ∧
  (∀ (ow : Bool) (tl : TileId) (id : TensorId) (x : SReg) (d wd : Desc) (mode : AMode) (k n : Nat) (src : ASrc), Ready s [sN x] →
    ArrayMine s k n → HasDesc s id d → MyTile s tl → s.here.stat.st = .loaded → s.here.stat.desc = some wd → ModeOf mode wd d →
    let w := (s.th.sv x).toNat
    let st : TileId := BitVec.ofNat 2 w
    let h : TrackId := BitVec.ofNat 6 w
    let drow := w / 2 ^ (16 : Nat) % 32
    let m := w / 2 ^ (21 : Nat) % 64
    let enters (t : State) (loc : Loc) : Prop :=
      Queued s t (.mma ow loc tl drow m (w / 2 ^ (32 : Nat)) id d (fsrMode s.th.fsr)) ∧
      ∀ r : VReg, let c := s.here.tiles[tl.toFin][r.toFin]
        t.here.tiles[tl.toFin][r.toFin] =
          if 0 < s.here.stat.n ∧ drow ≤ r.toNat ∧ r.toNat < drow + m then ⟨c.v, .empty s.serial⟩ else c
    w / 2 ^ (27 : Nat) % 32 = 0 → m ≤ 32 → drow + m ≤ 32 → FreeRows s tl drow m →
    (src = .tile → w / 2 ^ (7 : Nat) % 2 ^ (9 : Nat) = 0 → MyTile s st → w / 4 % 32 + rowsPer mode * m ≤ 32 →
      (st = tl → drow + m ≤ w / 4 % 32 ∨ w / 4 % 32 + rowsPer mode * m ≤ drow) →
      ∃ t, exec (.mma ow src tl id x) s = .next t ∧ t.th = (done s).th ∧ enters t (.tile st (w / 4 % 32))) ∧
    (src = .track → w / 2 ^ (6 : Nat) % 2 ^ (10 : Nat) = 0 → Usable s h (s.here.track h) → (s.here.track h).tag.toNat = d.swizzle →
      ∃ t, exec (.mma ow src tl id x) s = .next t ∧ enters t (.track h) ∧ (t.here.track h).arrays = 1 ∧ t.th.hclaim = claims s h) ∧
    (∀ a, src = .ls → w / 2 ^ (14 : Nat) % 4 = 0 →
      OwnStore s (BitVec.ofNat 3 w) (BitVec.ofNat 64 (128 * (w / 8 % 2 ^ (11 : Nat)))) (128 * (rowsPer mode * m)) 1 [.read] a →
      s.placeOf s.cur.core = ((s.th.k[(BitVec.ofNat 3 w).toFin]).w0.toNat % 2 ^ (31 : Nat) + 128 * (w / 8 % 2 ^ (11 : Nat))) / 2 ^ (18 : Nat) →
      ∃ t, exec (.mma ow src tl id x) s = .next t ∧ t.th = (done s).th ∧ enters t (.ls a)))

/-- Row `i` of a source as the array finds it: full, of sound bytes, at the head of a track at rest (R284, R325, R330). -/
def SourceRow (s : State) (c : CoreId) (loc : Loc) (i : Nat) (row : Row) : Prop :=
  s.drains = [] ∧
  match loc with
  | .tile t r => (s.core c).tiles[t.toFin][(BitVec.ofNat 5 (r + i)).toFin] = ⟨row, .full⟩ ∧ NoRowFaults s c
  | .ls off => off % 128 = 0 ∧ (∀ j, j < 16 → (s.core c).ls.bad (off / 8 + 16 * i + j) = false) ∧
      ∀ j, j < 128 → row.extractLsb' (8 * j) 8 = (s.core c).ls.byte (off + 128 * i + j)
  | .track h =>
      let k := (s.core c).track h
      k.move = .idle ∧ k.codes = [] ∧ k.pos < 256 ∧ k.bad.contains k.pos = false ∧ row = trackRow k k.pos ∧
        (s.core c).shiftq = [] ∧ ∀ p ∈ (s.core c).tracks, p.2.move = .idle

/-- What reading a row does to its source: a track's head steps on, charged to the thread, and with the last row the array lets go of
it (R317, R325). -/
def SourceRead (s t : State) (c : CoreId) (loc : Loc) (uid : Nat) (last : Prop) : Prop :=
  match loc with
  | .track h =>
      let k := (s.core c).track h
      let k' := (t.core c).track h
      k'.pos = stepped k 1 ∧ k'.edge = edged k 1 ∧ k'.rows = k.rows ∧
      (last → k'.arrays = k.arrays - 1) ∧ (¬ last → k'.arrays = k.arrays) ∧
      ∀ m : SlotId, (s.slotAt c m).st ≠ .free → (s.slotAt c m).st ≠ .disabled → (s.slotAt c m).th.uid = uid →
        (t.slotAt c m).th.shcnt = (s.slotAt c m).th.shcnt + BitVec.ofNat 64 ((stepped k 1 : Int) - k.pos).natAbs
  | _ => t.core c = { s.core c with arrayq := (t.core c).arrayq }

/-- The planes (R261, R264, R285, R286): a load takes its rows one per cycle from its tile, track or local store, and completes with its
weights, scales and zero points; `MCFG` retires; `MSWAP` exchanges the planes. -/
def PlanesLoadAndSwap : Prop :=
  ∀ (s : State) (c : CoreId) (e : AEntry) (tr : Bool) (k n g0 : Nat) (loc : Loc) (id : TensorId) (d : Desc), OneEntry s c e →
  let rows := (k * n * d.width + 1023) / 1024
  let x := s.core c
  (e.op = .mcfg k n → ∃ t, exec (.mcfgRetire c) s = .next t ∧ (t.core c).arrayq = [] ∧ (t.core c).cfgk = k ∧
    (t.core c).cfgn = n) ∧
  (e.op = .mldw tr k n g0 loc id d →
    (e.run = none → ∃ t, exec (.mldwStart c) s = .next t ∧
      (t.core c).arrayq = [{ e with run := some x.cycle, rows := rows, next := x.cycle }] ∧
      (t.core c).shad.st = .loading ∧ (t.core c).shad.k = k ∧ (t.core c).shad.n = n ∧ (t.core c).shad.id = id ∧
      (t.core c).shad.desc = some d ∧ (t.core c).shad.tr = tr ∧ (t.core c).stat = x.stat) ∧
    (∀ row, e.run.isSome = true → e.fail = none → e.taken < e.rows → e.next ≤ x.cycle → SourceRow s c loc e.taken row →
      let t := s.arrayReads c
      (t.core c).arrayq = [{ e with taken := e.taken + 1, got := e.got ++ [row], next := x.cycle + 1 }] ∧
        SourceRead s t c loc e.uid (e.taken + 1 = e.rows)) ∧
    (e.run.isSome = true → e.fail = none → e.refusal = none → e.rows ≤ e.taken → e.next ≤ x.cycle →
      let loaded (t : State) : Prop := exec (.mldwComplete c) s = .next t ∧ (t.core c).arrayq = [] ∧ (t.core c).shad.st = .loaded ∧
        (t.core c).shad.k = x.shad.k ∧ (t.core c).shad.n = x.shad.n ∧ (t.core c).shad.desc = x.shad.desc ∧
        ∀ i j b, i < k → j < n → b < d.width →
          let el := if tr then i * n + j else j * k + i
          ((t.core c).shad.w.getD (j * k + i) 0).testBit b =
            (e.got.getD ((el * d.width + b) / 1024) 0).getLsbD ((el * d.width + b) % 1024) ∧
          (t.core c).shad.w.getD (j * k + i) 0 < 2 ^ d.width
      (d.kind = 0 → ∃ t, loaded t ∧ (t.core c).shad.sc = [] ∧ (t.core c).shad.zp = []) ∧
      (∀ scale zero : Nat → Nat, d.kind = 1 →
        let g (i j : Nat) := g0 + i + d.extent 0 / d.group * j
        (∀ i j, i < k / d.group → j < n →
          s.keyRead c d.key (d.scoff + 2 * g i j) 2 none = .ok (scale (g i j)) ∧
          s.keyRead c d.key (d.zeroBit (g i j) / 8) 1 none = .ok (zero (g i j))) →
        ∃ t, loaded t ∧ ∀ i j, i < k / d.group → j < n →
          (t.core c).shad.sc.getD (k / d.group * j + i) 0 = scale (g i j) ∧
          (t.core c).shad.zp.getD (k / d.group * j + i) 0 = zero (g i j) / 2 ^ (d.zeroBit (g i j) % 8) % 2 ^ d.width))) ∧
  (∀ (m : SlotId), e.op = .mswap → x.failed = none → (x.slots[m]).th.uid = e.uid → (x.slots[m]).st = .parked →
    (∀ j : SlotId, j ≠ m → (x.slots[j]).th.uid ≠ e.uid) → (x.slots[m]).wait = .swap e.tok → (x.slots[m]).held = none →
    (∀ q ∈ s.reqs, q.uid ≠ e.uid) →
    ∃ t, exec (.mswapExecute c) s = .next t ∧ (t.core c).arrayq = [] ∧ (t.core c).stat = x.shad ∧
      (t.core c).shad = x.stat ∧ ((t.core c).slots[m]).st = .ready) ∧
  (∀ (o m : Nat) (h : CoreId), d.key.kind = 1 → d.key.has .read = true → o + m ≤ d.key.len → m ≤ 2 → s.drains = [] →
    let a := (d.key.w0.toNat % 2 ^ (31 : Nat) + o)
    a % 8 + m ≤ 8 → s.placeCore c (a / 2 ^ (18 : Nat)) = some h → (s.core h).ls.bad (a % 2 ^ (18 : Nat) / 8) = false →
    s.keyRead c d.key o m none = .ok (ofBytes ((s.core h).ls.read (a % 2 ^ (18 : Nat)) m)))

/-- Nothing but the array has a result on its way to a row of the core. -/
def NoneOwed (s : State) (c : CoreId) : Prop :=
  s.reqs = [] ∧ (s.core c).sfuq = [] ∧ (s.core c).sfuSusp = [] ∧ (s.core c).sfuRun = [] ∧ (s.core c).vdqs = []

/-- Elements of `w` bits of a number. -/
def elementsOf (w v n : Nat) : List Nat := (List.range n).map fun i => v / 2 ^ (w * i) % 2 ^ w

/-- The exceptions of a list of results. -/
def allFlags (l : List FRes) : Flags := l.foldl (fun a r => a ||| r.fl) 0

/-- An `MMA` in execution (R261, R263 to R267, R287): it starts on a loaded plane; reads its source rows, an activation row's together;
and fills its destination rows in order, each 11 cycles and the mode's own after its activation row entered: lanes below N with what the
array computes, the others as they were, full unless a later `MMA` has marked the row, and the exceptions merged into the thread's `FSR`. -/
def RowsAreComputed : Prop :=
  ∀ (s : State) (c : CoreId) (e : AEntry) (ow : Bool) (loc : Loc) (tl : TileId) (drow m asrow : Nat) (id : TensorId) (d wd : Desc)
    (rm : RMode) (mode : AMode), OneEntry s c e → e.op = .mma ow loc tl drow m asrow id d rm →
  let x := s.core c
  let cell (t : State) (r : Nat) : RowCell := (t.core c).tiles[tl.toFin][(BitVec.ofNat 5 r).toFin]
  x.stat.st = .loaded → x.stat.desc = some wd → ModeOf mode wd d → 0 < x.stat.n → 0 < m → drow + m ≤ 32 →
  (e.run = none → exec (.mmaStart c) s = .next (s.setCore c { x with arrayq := [{ e with run := some x.cycle, next := x.cycle }] })) ∧
  (∀ row, e.run.isSome = true → e.fail = none → e.taken < rowsPer mode * m → e.next ≤ x.cycle → SourceRow s c loc e.taken row →
    let t := s.mmaRow c
    let since := if e.got = [] then x.cycle else e.since
    SourceRead s t c loc e.uid (e.taken + 1 = rowsPer mode * m) ∧
    (e.got.length + 1 < rowsPer mode → (t.core c).arrayq = [{ e with
      taken := e.taken + 1, since := since, got := e.got ++ [row],
      next := if rowCycles mode loc < rowsPer mode then x.cycle else x.cycle + 1 }]) ∧
    (e.got.length + 1 = rowsPer mode → ∃ v, (t.core c).arrayq = [{ e with
        taken := e.taken + 1, since := since, got := [], next := max (since + rowCycles mode loc) (x.cycle + 1),
        ins := e.ins ++ [(max (since + 11 + rowCycles mode loc) (x.cycle + 12), v)] }] ∧
      ∀ b, b < 1024 * rowsPer mode → v.testBit b = ((e.got ++ [row]).getD (b / 1024) 0).getLsbD (b % 1024))) ∧
  (∀ due v rest sa, e.ins = (due, v) :: rest → due ≤ x.cycle → e.rows < m → e.refusal = none → NoneOwed s c →
    (mode = .w8a8 ∨ mode = .w4a8 → s.keyRead c d.key (d.scoff + 2 * (asrow + e.rows)) 2 none = .ok sa) →
    let wdt := if mode = .fp64 then 64 else 32
    let old := cell s (drow + e.rows)
    let acts := elementsOf d.width v x.stat.k
    let out (j : Nat) : FRes := outElem mode x.stat wd d rm acts sa (if ow then 0 else lane wdt old.v j) j
    let fl : Flags := if x.stat.k = 0 ∧ ow = false then 0 else allFlags ((List.range x.stat.n).map out)
    ∃ t, exec (.mmaRowFill c) s = .next t ∧
      (cell t (drow + e.rows)).f = (if old.f = .empty e.tok then .full else old.f) ∧
      (∀ j, j < 1024 / wdt → lane wdt (cell t (drow + e.rows)).v j =
        if j < x.stat.n ∧ (0 < x.stat.k ∨ ow = true) then (out j).val % 2 ^ wdt else lane wdt old.v j) ∧
      (∀ (y : Fin 4) (z : Fin 32), (y, z) ≠ (tl.toFin, (BitVec.ofNat 5 (drow + e.rows)).toFin) →
        (t.core c).tiles[y][z] = x.tiles[y][z]) ∧
      (∀ (b : CoreId) (q : SlotId), (s.slotAt b q).st ≠ .free → (s.slotAt b q).st ≠ .disabled →
        (t.slotAt b q).th = if (s.slotAt b q).th.uid = e.uid
          then { (s.slotAt b q).th with fsr := (s.slotAt b q).th.fsr ||| fl.setWidth 64 } else (s.slotAt b q).th) ∧
      (t.core c).arrayq = if e.rows + 1 = m then [] else [{ e with rows := e.rows + 1, ins := rest, refusal := none }])

/-- A term (−1)^s · m · 2^e truncated toward zero to a multiple of 2^q, in units of 2^q; and whether that drops a bit. -/
def truncated (q : Int) (t : Bool × Nat × Int) : Int := signed t.1 (t.2.1 * 2 ^ (t.2.2 - q).toNat / 2 ^ (q - t.2.2).toNat)
def dropsBit (q : Int) (t : Bool × Nat × Int) : Bool := t.2.1 * 2 ^ (t.2.2 - q).toNat % 2 ^ (q - t.2.2).toNat != 0

/-- `r` is the fused sum of finite terms (R265). -/
def FusedOnce (l : List (Bool × Nat × Int)) (r : FRes) : Prop :=
  ((∀ t ∈ l, t.2.1 = 0) → r = ⟨if l.all (fun t => t.1) then fmtS.signBit true else 0, 0⟩) ∧
  ∀ E : Int, (∃ t ∈ l, t.2.1 ≠ 0 ∧ t.2.2 + t.2.1.log2 = E) → (∀ t ∈ l, t.2.1 ≠ 0 → t.2.2 + t.2.1.log2 ≤ E) →
    let n : Int := (l.map (truncated (E - 40))).sum
    let z := roundFin fmtS ⟨.rne, true, false⟩ (decide (n < 0)) n.natAbs (E - 40)
    r = ⟨z.val, z.fl ||| (if l.any (dropsBit (E - 40)) then flNX else 0)⟩

/-- A product that is invalid, and one that is an infinity with sign `s`. -/
def BadProduct (x y : FV) : Prop :=
  (∃ s t e, x = .inf s ∧ y = .fin t 0 e) ∨ (∃ s t e, x = .fin t 0 e ∧ y = .inf s)
def InfProduct (x y : FV) (s : Bool) : Prop :=
  x.isNaN = false ∧ y.isNaN = false ∧ ¬ BadProduct x y ∧ s = (x.sign != y.sign) ∧ ∃ t, x = .inf t ∨ y = .inf t

/-- The chain of R266. -/
def chainOf (rm : RMode) : FRes → List (Nat × Nat) → FRes
  | acc, [] => acc
  | acc, (a, w) :: l => let r := fFma fmtD ⟨rm, true, false⟩ .pp a w acc.val; chainOf rm ⟨r.val, acc.fl ||| r.fl⟩ l

/-- What one output element is (R265, R266): K activations, weights w(k, n) of the plane, prior value. -/
def ArraySumsAreExact : Prop :=
  ∀ (p : Plane) (w ad : Desc) (rm : RMode) (a : List Nat) (sa prior n : Nat) (mode : AMode), ModeOf mode w ad → a.length = p.k →
  let act (k : Nat) : Nat := a.getD k 0
  let wt (k : Nat) : Nat := p.w.getD (n * p.k + k) 0
  let A (k : Nat) : FV := (etyFmt (etyOfCode ad.format)).decode (act k)
  let W (k : Nat) : FV := (etyFmt (etyOfCode w.format)).decode (wt k)
  let P : FV := fmtS.decode prior
  let r := outElem mode p w ad rm a sa prior n
  let nan : Nat := 0x7FC00000
  let G := w.group
  let sc (j : Nat) : FV := fmtH.decode (p.sc.getD (p.k / G * n + j) 0)
  let code (j i : Nat) : Int := (wt (G * j + i) : Int) - (p.zp.getD (p.k / G * n + j) 0 : Nat)
  (mode = .fp64 → r = chainOf rm ⟨prior, 0⟩ ((List.range p.k).map fun k => (act k, wt k))) ∧
  (mode ∈ [AMode.bf16, .fp16, .fp8, .fp32] →
    (∀ (s : Bool) (m : Nat) (e : Int) (t u : Nat → Bool) (x y : Nat → Nat) (i j : Nat → Int), P = .fin s m e →
      (∀ k, k < p.k → A k = .fin (t k) (x k) (i k) ∧ W k = .fin (u k) (y k) (j k)) →
      FusedOnce ((s, m, e) :: (List.range p.k).map fun k => (t k != u k, x k * y k, i k + j k)) r) ∧
    (let signals : Prop := P.isSNaN = true ∨ ∃ k, k < p.k ∧ ((A k).isSNaN = true ∨ (W k).isSNaN = true)
     let quiet : Prop := P.isNaN = true ∨ ∃ k, k < p.k ∧ ((A k).isNaN = true ∨ (W k).isNaN = true)
     let inf (s : Bool) : Prop := P = .inf s ∨ ∃ k, k < p.k ∧ InfProduct (A k) (W k) s
     let invalid : Prop := (∃ k, k < p.k ∧ BadProduct (A k) (W k)) ∨ (inf true ∧ inf false)
     (quiet ∨ invalid → r.val = nan ∧ (r.fl = 0 ∨ r.fl = flNV) ∧ (r.fl = flNV ↔ signals ∨ invalid)) ∧
     (¬ (quiet ∨ invalid) → ∀ s, inf s → r = ⟨fmtS.signBit s + fmtS.infBits, 0⟩))) ∧
  (mode ∈ [AMode.w8a8, .w4a8] → p.k % G = 0 →
    (∀ (s u : Bool) (m v : Nat) (e z : Int) (t : Nat → Bool) (x : Nat → Nat) (i : Nat → Int), P = .fin s m e →
      fmtH.decode sa = .fin u v z → (∀ j, j < p.k / G → sc j = .fin (t j) (x j) (i j)) →
      let N (j : Nat) : Int := ((List.range G).map fun k => (BitVec.ofNat 8 (act (G * j + k))).toInt * code j k).sum
      FusedOnce ((s, m, e) :: (List.range (p.k / G)).map fun j =>
        ((t j != u) != decide (N j < 0), x j * v * (N j).natAbs, i j + z)) r) ∧
    ((∃ j, j < p.k / G ∧ ¬ ∃ t x i, sc j = .fin t x i) ∨ (0 < p.k / G ∧ ¬ ∃ u v z, fmtH.decode sa = .fin u v z) →
      r = ⟨nan, flNV⟩)) ∧
  (mode ∈ [AMode.w8a16, .w4a16] → p.k % G = 0 →
    (∀ (s : Bool) (m : Nat) (e z : Int) (t u : Nat → Bool) (x y : Nat → Nat) (i f : Nat → Int), P = .fin s m e →
      (∀ j, j < p.k / G → sc j = .fin (t j) (x j) (i j)) →
      (∀ k, k < p.k → A k = .fin (u k) (y k) (f k) ∧ z ≤ f k) →
      let N (j : Nat) : Int :=
        ((List.range G).map fun k => signed (u (G * j + k)) (y (G * j + k) * 2 ^ (f (G * j + k) - z).toNat) * code j k).sum
      FusedOnce ((s, m, e) :: (List.range (p.k / G)).map fun j => (t j != decide (N j < 0), x j * (N j).natAbs, i j + z)) r) ∧
    ((∃ j, j < p.k / G ∧ ¬ ∃ t x i, sc j = .fin t x i) → r = ⟨nan, flNV⟩) ∧
    ((∃ k, k < p.k ∧ (A k).isNaN = true) → r.val = nan))

end Sys2Proof.Claims

/-- Tiles and the matrix array (R261 to R264, R270, R276, R280 to R287): bindings, images and zeroed rows; entries join the
queue in order with what they captured, read their source rows one by one, and configure, load and exchange the planes and fill the
destination rows: every lane below N with its fused sum or chain, the lanes past N as they were, the exceptions of the row in `FSR`. Where
the manual leaves room it rests on the model's choices (log entries 21, 22, 24). -/
def Obligations.TilesAndTheArrayWork : Prop :=
  Sys2Proof.Claims.TilesBindSaveLoadAndZero ∧ Sys2Proof.Claims.ArrayModesAreTheTable ∧ Sys2Proof.Claims.ArrayInstructionsQueue ∧
  Sys2Proof.Claims.PlanesLoadAndSwap ∧ Sys2Proof.Claims.RowsAreComputed ∧ Sys2Proof.Claims.ArraySumsAreExact

namespace Sys2Proof.Claims

/-! ## The vector unit -/

/-- A vector instruction: its modifiers, the registers it names, when it rounds, which types its function (or, of a conversion, its part)
takes, what each lane of the destination becomes with the exceptions the lane raises, and the SUB and TAIL of a type not taken. -/
structure VOp where
  i      : Instr
  mods   : VMods
  needs  : List Need
  rounds : ETy → Bool
  ok     : ETy → Bool
  res    : Nat → FRes
  sub    : Nat × Nat

/-- The element type: the override, or the binding's (R277). -/
def tyOf (s : State) (m : VMods) : ETy := m.ovr.getD s.th.ety

/-- Lane `j` of a row (R236, R270). -/
def laneOf (s : State) (tl : TileId) (ty : ETy) (r : VReg) (j : Nat) : Nat :=
  lane (etyWidth ty) s.here.tiles[tl.toFin][r.toFin].v j

/-- A lane as a two's-complement number. -/
def laneInt (ty : ETy) (x : Nat) : Int := (BitVec.ofNat (etyWidth ty) x).toInt

/-- The lane of a scalar (R277). -/
def scalarLane (s : State) (ty : ETy) (a : Src) : Nat := (val s a).toNat % 2 ^ etyWidth ty

/-- An integer lane's result (R277): wrapped, or clamped with SAT; no exception. -/
def intRes (ty : ETy) (sat : Bool) (x : Int) : FRes :=
  let w := etyWidth ty
  ⟨(BitVec.ofInt w (if sat then clamp (-2 ^ (w - 1)) (2 ^ (w - 1) - 1) x else x)).toNat, 0⟩

/-- Rounding, OSAT and UFE of a vector instruction (R36, R59, R140). -/
def vEnv (s : State) (m : VMods) : FEnv :=
  ⟨match m.lo with
    | some 0 => .rne | some 1 => .rtz | some 2 => .rdn | some 3 => .rup | some 4 => .rna
    | _ => modeOf .dyn s.th.fsr,
   s.th.fsr.getLsbD 13, s.th.fsr.getLsbD 6 && !s.th.fpMask⟩

/-- The type-dependent checks of R59 pass. -/
def TypeAllows (o : VOp) (ty : ETy) : Prop :=
  o.ok ty = true ∧ (o.mods.sat = true → ty.isFloat = false) ∧
  (if o.rounds ty = true then o.mods.lo ≠ some 5 ∧ o.mods.lo ≠ some 6 else o.mods.lo.getD 0 = 0)

/-- SUB and TAIL of the check that fails, the lowest SUB where several do (R40, R59, R277): an F code the type forbids, a reserved
rounding code, SAT with a floating type or rounding bits where nothing rounds. -/
def typeSub (o : VOp) (ty : ETy) : Nat × Nat :=
  if o.ok ty = false ∧ o.sub.1 = 1 then o.sub
  else if o.rounds ty && (o.mods.lo == some 5 || o.mods.lo == some 6) then (2, 2)
  else (5, 2)

/-- R288, R290: lane-wise arithmetic, with one tail or two. -/
def arithOps (s : State) (tl : TileId) (sc : Bool) (d : VReg) (a b c : Src) (f : FmaF) (m : Mods) : List VOp :=
  let x (v : VMods) := laneOf s tl (tyOf s v) a.reg
  let y (v : VMods) (j : Nat) := if sc then scalarLane s (tyOf s v) b else laneOf s tl (tyOf s v) b.reg j
  let op (ff : Fmt → FEnv → Nat → Nat → FRes) (fi : Int → Int → Int) (v : VMods) (j : Nat) : FRes :=
    let ty := tyOf s v
    if ty.isFloat then ff (etyFmt ty) (vEnv s v) (x v j) (y v j)
    else intRes ty v.sat (fi (laneInt ty (x v j)) (laneInt ty (y v j)))
  let ns := [vN d, a.vneed, if sc then b.need else b.vneed]
  let fma (j : Nat) : FRes :=
    let ty := tyOf s m.v
    let p := laneOf s tl ty a.reg j
    let q := laneOf s tl ty b.reg j
    let r := laneOf s tl ty c.reg j
    if ty.isFloat then fFma (etyFmt ty) (vEnv s m.v) f p q r
    else
      let n := laneInt ty p * laneInt ty q
      intRes ty m.sat (match f with
        | .pp => n + laneInt ty r | .pm => n - laneInt ty r | .mp => -n + laneInt ty r | .mm => -n - laneInt ty r)
  [⟨.vadd sc d a b, VMods.none, ns, ETy.isFloat, fun _ => true, op fAdd (· + ·) VMods.none, (1, 1)⟩,
   ⟨.vaddTv2 sc d a b m, m.v, ns, ETy.isFloat, fun _ => true, op fAdd (· + ·) m.v, (1, 1)⟩,
   ⟨.vsub sc d a b, VMods.none, ns, ETy.isFloat, fun _ => true, op fSub (· - ·) VMods.none, (1, 1)⟩,
   ⟨.vsubTv2 sc d a b m, m.v, ns, ETy.isFloat, fun _ => true, op fSub (· - ·) m.v, (1, 1)⟩,
   ⟨.vmul sc d a b, VMods.none, ns, ETy.isFloat, fun _ => true, op fMul (· * ·) VMods.none, (1, 1)⟩,
   ⟨.vmulTv2 sc d a b m, m.v, ns, ETy.isFloat, fun _ => true, op fMul (· * ·) m.v, (1, 1)⟩,
   ⟨.vfma f d a b c m, m.v, [vN d, a.vneed, b.vneed, c.vneed], ETy.isFloat, fun _ => true, fma, (1, 1)⟩]

/-- R291: select and compare. -/
def selectOps (s : State) (tl : TileId) (d : VReg) (a b c : Src) (f : MinMaxF) (r : VRel) (m : ModsQ) : List VOp :=
  let x (v : VMods) := laneOf s tl (tyOf s v) a.reg
  let y (v : VMods) := laneOf s tl (tyOf s v) b.reg
  let mm (v : VMods) (j : Nat) : FRes :=
    let ty := tyOf s v
    if ty.isFloat then fMinMax (etyFmt ty) f (x v j) (y v j)
    else
      let p := laneInt ty (x v j)
      let q := laneInt ty (y v j)
      intRes ty false (match f with | .min => min p q | .minnum => min p q | .max => max p q | .maxnum => max p q)
  let cmp (v : VMods) (j : Nat) : FRes :=
    let ty := tyOf s v
    let p := laneInt ty (x v j)
    let q := laneInt ty (y v j)
    let fc (k : FCmpF) := fCompare (etyFmt ty) k (x v j) (y v j)
    let h : Bool × Flags :=
      if ty.isFloat then
        match r with | .eq => fc .eq | .ne => (!(fc .eq).1, (fc .eq).2) | .lt => fc .lt | .le => fc .le | .un => fc .un
      else (match r with
        | .eq => decide (p = q) | .ne => decide (p ≠ q) | .lt => decide (p < q) | .le => decide (p ≤ q) | .un => false, 0)
    ⟨if h.1 then 2 ^ etyWidth ty - 1 else 0, h.2⟩
  let sel (j : Nat) : FRes :=
    ⟨if laneOf s tl (tyOf s m.v) c.reg j ≠ 0 then x m.v j else y m.v j, 0⟩
  let okM (ty : ETy) : Bool := ty.isFloat || (f == .min || f == .max)
  let okC (ty : ETy) : Bool := ty.isFloat || r != .un
  let ns := [vN d, a.vneed, b.vneed]
  [⟨.vminmax f d a b, VMods.none, ns, fun _ => false, okM, mm VMods.none, (1, 1)⟩,
   ⟨.vminmaxTv2 f d a b m, m.v, ns, fun _ => false, okM, mm m.v, (1, 1)⟩,
   ⟨.vcmp r d a b, VMods.none, ns, fun _ => false, okC, cmp VMods.none, (1, 1)⟩,
   ⟨.vcmpTv2 r d a b m, m.v, ns, fun _ => false, okC, cmp m.v, (1, 1)⟩,
   ⟨.vsel d a b c m, m.v, [vN d, a.vneed, b.vneed, c.vneed], fun _ => false, fun _ => true, sel, (1, 1)⟩]

/-- One lane converted (R292). -/
def converted (s : State) (src : ETy) (v : VMods) (x : Nat) : FRes :=
  let ty := tyOf s v
  match src.isFloat, ty.isFloat with
  | true, true => fToF (etyFmt src) (etyFmt ty) (vEnv s v) x
  | true, false => fToInt (etyFmt src) (vEnv s v).mode true (etyWidth ty) x
  | false, true => intToF (etyFmt ty) (vEnv s v) (laneInt src x)
  | false, false => intRes ty v.sat (laneInt src x)

/-- Lane `j` after a conversion of part `p` (R292): lanes outside the part keep their values. -/
def convertedLane (s : State) (tl : TileId) (src : ETy) (d : VReg) (a : Src) (p : Nat) (v : VMods) (j : Nat) : FRes :=
  let ls := 1024 / etyWidth src
  let ld := 1024 / etyWidth (tyOf s v)
  if ld ≤ ls then converted s src v (laneOf s tl src a.reg (p * ld + j))
  else if p * ls ≤ j ∧ j < p * ls + ls then converted s src v (laneOf s tl src a.reg (j - p * ls))
  else ⟨laneOf s tl (tyOf s v) d j, 0⟩

/-- The reduction of a row (R294), with the exceptions of every step. -/
def reduced (s : State) (tl : TileId) (f : RedF) (a : Src) (v : VMods) : FRes :=
  let ty := tyOf s v
  let n := 1024 / etyWidth ty
  let x := laneOf s tl ty a.reg
  let fold (k : Nat → Nat → FRes) : FRes :=
    (List.range (n - 1)).foldl (fun acc j => let r := k acc.val (x (j + 1)); ⟨r.val, acc.fl ||| r.fl⟩) ⟨x 0, 0⟩
  match f with
  | .sum =>
    if ty.isFloat then fSumLanes (etyFmt ty) (vEnv s VMods.none) ((List.range n).map x)
    else intRes ty v.sat ((List.range n).map fun j => laneInt ty (x j)).sum
  | .min => if ty.isFloat then fold (fMinMax (etyFmt ty) .min) else fold fun p q => intRes ty false (min (laneInt ty p) (laneInt ty q))
  | .max => if ty.isFloat then fold (fMinMax (etyFmt ty) .max) else fold fun p q => intRes ty false (max (laneInt ty p) (laneInt ty q))
  | .and => fold fun p q => ⟨p &&& q, 0⟩
  | .or => fold fun p q => ⟨p ||| q, 0⟩
  | .xor => fold fun p q => ⟨p ^^^ q, 0⟩

/-- R292, R294, R295: conversion, reduction, broadcast, permutation. -/
def moveOps (s : State) (tl : TileId) (d : VReg) (a b : Src) (src : ETy) (p : BitVec 3) (f : RedF) (z : Bool) (m : Mods)
    (q : ModsQ) : List VOp :=
  let red (v : VMods) (j : Nat) : FRes := if j = 0 then reduced s tl f a v else ⟨0, 0⟩
  let okR (ty : ETy) : Bool := !ty.isFloat || (f == .sum || f == .min || f == .max)
  let ty0 := s.th.ety
  let perm (v : VMods) (j : Nat) : FRes :=
    let ty := tyOf s v
    let n := 1024 / etyWidth ty
    let k := laneOf s tl ty b.reg j
    ⟨if z = true ∧ n ≤ k then 0 else laneOf s tl ty a.reg (k % n), 0⟩
  let never : ETy → Bool := fun _ => false
  let always : ETy → Bool := fun _ => true
  [⟨.vcvt src d a, VMods.none, [vN d, a.vneed], fun ty => src.isFloat || ty.isFloat, fun ty => partOk src ty 0,
      convertedLane s tl src d a 0 VMods.none, (5, 2)⟩,
   ⟨.vcvtTv2 src d a p m, m.v, [vN d, a.vneed], fun ty => src.isFloat || ty.isFloat, fun ty => partOk src ty p.toNat,
      convertedLane s tl src d a p.toNat m.v, (5, 2)⟩,
   ⟨.vred f d a, VMods.none, [vN d, a.vneed], never, okR, red VMods.none, (1, 1)⟩,
   ⟨.vredTv2 f d a q, q.v, [vN d, a.vneed], never, okR, red q.v, (1, 1)⟩,
   ⟨.vbcst d a, VMods.none, [vN d, a.need], never, always, fun _ => ⟨scalarLane s ty0 a, 0⟩, (1, 1)⟩,
   ⟨.vbcstLane d a b, VMods.none, [vN d, a.vneed, b.need], never, always,
      fun _ => ⟨laneOf s tl ty0 a.reg ((val s b).toNat % (1024 / etyWidth ty0)), 0⟩, (1, 1)⟩,
   ⟨.vperm z d a b, VMods.none, [vN d, a.vneed, b.vneed], never, always, perm VMods.none, (1, 1)⟩,
   ⟨.vpermTv2 z d a b q, q.v, [vN d, a.vneed, b.vneed], never, always, perm q.v, (1, 1)⟩]

/-- R296: bitwise operations and shifts of lanes as bit vectors of the type's width. -/
def logicOps (s : State) (tl : TileId) (d : VReg) (a b : Src) (f : LogicF) (m : ModsQ) : List VOp :=
  let res (v : VMods) (j : Nat) : FRes :=
    let ty := tyOf s v
    let x := BitVec.ofNat (etyWidth ty) (laneOf s tl ty a.reg j)
    let y := BitVec.ofNat (etyWidth ty) (laneOf s tl ty b.reg j)
    let n := (val s b).toNat % 64
    ⟨(match f with
      | .and => x &&& y | .or => x ||| y | .xor => x ^^^ y | .andn => x &&& ~~~y | .not => ~~~x
      | .shl => x <<< n | .shr => x >>> n | .sar => x.sshiftRight n).toNat, 0⟩
  let sh := f == .shl || f == .shr || f == .sar
  let ns := [vN d, a.vneed] ++ (if sh then [b.need] else if f == .not then [] else [b.vneed])
  let ok (ty : ETy) : Bool := !ty.isFloat || !sh
  [⟨.vlogic f d a b, VMods.none, ns, fun _ => false, ok, res VMods.none, (1, 1)⟩,
   ⟨.vlogicTv2 f d a b m, m.v, ns, fun _ => false, ok, res m.v, (1, 1)⟩]

/-- The exceptions of a row's lanes as one set (R277). -/
def rowFlags (o : VOp) (ty : ETy) : Flags :=
  (List.range (1024 / etyWidth ty)).foldl (fun fl j => fl ||| (o.res j).fl) 0

/-- What R277 says of a vector instruction: without an enabled exception the destination row is written in full and the
exceptions are merged; with one, trap 0x08 reports the lanes that raised it and no lane is written. -/
def VectorRuns (s : State) (tl : TileId) (d : VReg) (o : VOp) : Prop :=
  let ty := tyOf s o.mods
  let fl := rowFlags o ty
  let n := 1024 / etyWidth ty
  (TypeAllows o ty → ¬ FpTraps s fl → s.heldRow s.cur.core tl d = false →
    ∃ r : Row, (∀ j, j < n → lane (etyWidth ty) r j = (o.res j).val % 2 ^ etyWidth ty) ∧
      exec o.i s = .next (done ((s.setRow s.cur.core tl d r).setTh { s.th with fsr := s.th.fsr ||| fl.setWidth 64 }))) ∧
  (TypeAllows o ty → FpTraps s fl → ∃ m0 m1 : Word, exec o.i s = .next (s.takeTrap ⟨0x08, m0, m1, fl⟩) ∧
    ∀ j, j < 64 →
      (m0.getLsbD j = true ↔ j < n ∧ (o.res j).fl &&& s.th.fsr.extractLsb' 5 5 ≠ 0) ∧
      (m1.getLsbD j = true ↔ j + 64 < n ∧ (o.res (j + 64)).fl &&& s.th.fsr.extractLsb' 5 5 ≠ 0)) ∧
  (¬ TypeAllows o ty → o.mods.ovr = none → exec o.i s = .next (s.takeTrap ⟨0x01, BitVec.ofNat 64
    (s.cur.hcount % 32 * 2 ^ (11 : Nat) + s.th.pc / 2 % 32 * 2 ^ (6 : Nat) + (typeSub o ty).2 * 2 ^ (4 : Nat) + (typeSub o ty).1), 0, 0⟩))

/-- Every vector instruction that completes in its bundle, but for `VLANE`. -/
def vectorOps (s : State) (tl : TileId) (d : VReg) (a b c : Src) (sc z : Bool) (f : FmaF) (g : MinMaxF) (r : VRel) (h : RedF)
    (l : LogicF) (src : ETy) (p : BitVec 3) (m : Mods) (q : ModsQ) : List VOp :=
  arithOps s tl sc d a b c f m ++ selectOps s tl d a b c g r q ++ moveOps s tl d a b src p h z m q ++
    logicOps s tl d a b l q

/-- What a floating sum of lanes is (R294): the exact sum rounded once; the first NaN of the lanes, quieted; an infinity, or the default
NaN of infinities of both signs; the sign of an exact zero. -/
def LaneSumsAreExact : Prop :=
  ∀ (f : Fmt) (env : FEnv) (l : List Nat), l ≠ [] →
  let r := fSumLanes f env l
  let inf (s : Bool) : Prop := ∃ x ∈ l, f.decode x = .inf s
  let nan : Prop := ∃ x ∈ l, (f.decode x).isNaN = true
  (f ∈ fmtE4 :: ieee → ∀ (ts : List (Bool × Nat × Int)) (z : Int), l.map f.decode = ts.map (fun t => .fin t.1 t.2.1 t.2.2) →
    (∀ t ∈ ts, z ≤ t.2.2) → (∃ t ∈ ts, t.2.2 = z) →
    let n : Int := (ts.map fun t => signed t.1 (t.2.1 * 2 ^ (t.2.2 - z).toNat)).sum
    (n ≠ 0 → r = roundFin f env (decide (n < 0)) n.natAbs z) ∧
    (n = 0 → r = ⟨f.signBit (if ts.all (fun t => t.2.1 == 0 && t.1) then true
      else if ts.all (fun t => t.2.1 == 0 && !t.1) then false else env.mode == .rdn), 0⟩)) ∧
  (f ∈ ieee → (∀ x ∈ l, Fits f x) →
    (∀ x, l.find? (fun y => (f.decode y).isNaN) = some x →
      r = ⟨x ||| f.quietBit, if l.any (fun y => (f.decode y).isSNaN) then flNV else 0⟩) ∧
    (¬ nan → inf true → inf false → r = ⟨f.defNaN, flNV⟩) ∧
    (¬ nan → ∀ s, inf s → ¬ inf (!s) → r = ⟨f.signBit s + f.infBits, 0⟩))

end Sys2Proof.Claims

/-- The vector instructions, one by one. -/
def Sys2Proof.Claims.VectorInstructionsRun : Prop :=
  ∀ (s : State) (tl : TileId) (d : VReg) (a b c : Src) (sc z : Bool) (f : FmaF) (g : MinMaxF) (r : VRel) (h : RedF)
    (l : LogicF) (src : ETy) (p : BitVec 3) (m : Mods) (q : ModsQ),
  (∀ o ∈ vectorOps s tl d a b c sc z f g r h l src p m q, Ready s o.needs →
    (OwnTile s tl → VectorRuns s tl d o) ∧
    (s.th.bound = none → exec o.i s = .next (s.takeTrap ⟨0x09, 16, 0, 0⟩)) ∧
    (s.th.bound = some tl → TypeAllows o (tyOf s o.mods) → s.th.level ≠ .mon → (s.here.aown[tl.toFin]).getLsbD 62 = false →
      (s.here.aown[tl.toFin]).getLsbD 63 = true → ownedBy s.here.aown[tl.toFin] s.th = false →
      exec o.i s = .next (s.takeTrap ⟨0x09, tl.setWidth 64, s.here.aown[tl.toFin], 0⟩))) ∧
  (∀ (x : SReg) (n : BitVec 5), OwnTile s tl →
    let ty := s.th.ety
    let count := 1024 / etyWidth ty
    let out (k : Nat) : Word :=
      let y := laneOf s tl ty a.reg (k % count)
      if ty.isFloat then BitVec.ofNat 64 y else BitVec.ofInt 64 (laneInt ty y)
    (Ready s [sN x, a.vneed, b.need] → exec (.vlane x a b) s = .next (wrote s x (out (val s b).toNat))) ∧
    (Ready s [sN x, a.vneed] → exec (.vlaneImm x a n) s = .next (wrote s x (out n.toNat))))

/-- Vector instructions (R277, R288, R290 to R292, R294 to R296): every lane by its own rule, the row in full, the flags of all lanes
as one set; a type that the instruction does not take, with the SUB of R40; and the checks before them, a binding and the tile's owner
(R274, R293). -/
def Obligations.VectorLanesAreComputed : Prop := Sys2Proof.Claims.VectorInstructionsRun ∧ Sys2Proof.Claims.LaneSumsAreExact


namespace Sys2Proof.Claims

/-! ## Special functions, dequantisation, directional vectors -/

/-- What R297 fixes of a special function at an operand of bits `x` and value `v`: the exact functions, and every special
value. -/
def SfuAt (fn : SfuF) (f : Fmt) (env : FEnv) (x : Nat) (r : FRes) (v : FV) : Prop :=
  let one : Nat := f.bias * 2 ^ (f.p - 1)
  let dz (s : Bool) : FRes := ⟨(encInf f env s).val, (encInf f env s).fl ||| flDZ⟩
  match v with
  | .nan .. => some r = propNaN f [v]
  | .inf true =>
    (match fn with
    | .rcp => r = fDiv f env one x | .exp2 => r = ⟨0, 0⟩ | .exp => r = ⟨0, 0⟩
    | .tanh => r = ⟨f.signBit true + one, 0⟩ | .sigm => r = ⟨0, 0⟩ | _ => r = ⟨f.defNaN, flNV⟩)
  | .inf false =>
    (match fn with
    | .rcp => r = fDiv f env one x | .rsqrt => r = ⟨0, 0⟩ | .sqrt => r = encInf f env false | .exp2 => r = encInf f env false
    | .exp => r = encInf f env false | .log2 => r = encInf f env false | .tanh => r = ⟨one, 0⟩ | .sigm => r = ⟨one, 0⟩)
  | .fin s m _ =>
    match fn with
    | .rcp => if m = 0 then r = dz s else r = fDiv f env one x
    | .sqrt => r = fSqrt f env x
    | .rsqrt => if m = 0 then r = dz s else s = true → r = ⟨f.defNaN, flNV⟩
    | .log2 => if m = 0 then r = dz true else s = true → r = ⟨f.defNaN, flNV⟩
    | .tanh => m = 0 → r = ⟨f.signBit s, 0⟩
    | _ => m = 0 → fn = .exp2 ∨ fn = .exp → r = ⟨one, 0⟩

/-- The special function of one lane (R297). -/
def SfuSpec (fn : SfuF) (f : Fmt) (env : FEnv) (x : Nat) (r : FRes) : Prop := SfuAt fn f env x r (f.decode x)

/-- R278: cycles from the start of an entry to its result. -/
def sfuCycles : SfuF → Nat
  | .rcp => 10 | .rsqrt => 12 | .sqrt => 12 | .exp2 => 14 | .log2 => 14 | .exp => 16 | .tanh => 18 | .sigm => 18

/-- A long-latency row (R271): the instruction has completed, its row is empty, every other row is as before. -/
def RowAwaited (s t : State) (tl : TileId) (d : VReg) : Prop :=
  t.th = (done s).th ∧ t.here.ls = s.here.ls ∧ t.mem = s.mem ∧
  (t.here.tiles[tl.toFin][d.toFin]).f = .empty s.serial ∧
  ∀ (x : Fin 4) (y : Fin 32), (x, y) ≠ (tl.toFin, d.toFin) → t.here.tiles[x][y] = s.here.tiles[x][y]

/-- The thread `uid` stands in slot `m` of core `c` and nowhere else of that core; it is READY and has taken no trap that it
has not returned from. -/
def RunsIn (s : State) (c : CoreId) (m : SlotId) (uid : Nat) : Prop :=
  ((s.core c).slots[m]).st = .ready ∧ ((s.core c).slots[m]).th.uid = uid ∧
  (∀ j : SlotId, j ≠ m → ((s.core c).slots[j]).th.uid ≠ uid) ∧
  (((s.core c).slots[m]).th.ecause).getLsbD 61 = false ∧ (((s.core c).slots[m]).th.scause).getLsbD 61 = false ∧
  (((s.core c).slots[m]).th.mcause).getLsbD 61 = false

/-- Special functions at issue, at the start of an entry and at its result. -/
def SpecialFunctionsRun : Prop :=
  (∀ (s : State) (tl : TileId) (fn : SfuF) (d : VReg) (a : Src) (m : ModsQ) (i : Instr) (v : VMods),
    (i = .vsfu fn d a ∧ v = VMods.none) ∨ (i = .vsfuTv2 fn d a m ∧ v = m.v) → Ready s [vN d, a.vneed] → OwnTile s tl →
    let ty := tyOf s v
    (ty.isFloat = true → v.sat = false → s.heldRow s.cur.core tl d = false →
      s.here.sfuq.length + s.here.sfuSusp.length < 8 →
      ∃ t, exec i s = .next t ∧ RowAwaited s t tl d ∧ t.here.sfuq = s.here.sfuq ++ [⟨s.serial, s.cur.slot, s.th.uid, fn, ty,
        tl, d, (s.here.tiles[tl.toFin][a.reg.toFin]).v, modeOf .dyn s.th.fsr, s.th.fsr.getLsbD 13⟩]) ∧
    (ty.isFloat = false → v.ovr = none → exec i s = .next (s.takeTrap ⟨0x01, BitVec.ofNat 64
      (s.cur.hcount % 32 * 2 ^ (11 : Nat) + s.th.pc / 2 % 32 * 2 ^ (6 : Nat) + 17), 0, 0⟩)) ∧
    (ty.isFloat = true → v.sat = true → v.ovr = none → exec i s = .next (s.takeTrap ⟨0x01, BitVec.ofNat 64
      (s.cur.hcount % 32 * 2 ^ (11 : Nat) + s.th.pc / 2 % 32 * 2 ^ (6 : Nat) + 37), 0, 0⟩))) ∧
  (∀ (s : State) (c : CoreId) (m : SlotId) (e : SfuEntry), RunsIn s c m e.uid →
    let x := s.core c
    (x.sfuq = [e] → x.sfuSusp = [] → x.sfuRun = [] →
      exec (.vsfuStart c) s = .next (s.setCore c { x with sfuq := [], sfuRun := [(x.cycle + sfuCycles e.f, e)] })) ∧
    (∀ due, x.sfuRun = [(due, e)] → x.cycle < due → exec (.vsfuResult c 0) s = .next s) ∧
    (∀ due, x.sfuRun = [(due, e)] → due ≤ x.cycle →
      (x.tiles[e.tile.toFin][e.row.toFin]).f = .empty e.tok →
      ∃ (t : State) (rs : Nat → FRes), exec (.vsfuResult c 0) s = .next t ∧ (t.core c).sfuRun = [] ∧
        ((t.core c).tiles[e.tile.toFin][e.row.toFin]).f = .full ∧
        (∀ j, j < 1024 / etyWidth e.ty →
          SfuSpec e.f (etyFmt e.ty) ⟨e.rm, e.osat, false⟩ (lane (etyWidth e.ty) e.a j) (rs j) ∧
          lane (etyWidth e.ty) ((t.core c).tiles[e.tile.toFin][e.row.toFin]).v j = (rs j).val % 2 ^ etyWidth e.ty) ∧
        ((t.core c).slots[m]).th.fsr = (x.slots[m]).th.fsr |||
          ((List.range (1024 / etyWidth e.ty)).foldl (fun fl j => fl ||| (rs j).fl) (0 : Flags)).setWidth 64))

/-- Dequantisation at issue and at its fill (R255, R298). -/
def CodesAreDequantised : Prop :=
  (∀ (s : State) (tl : TileId) (d : VReg) (id : TensorId) (x : SReg) (e : Desc), Ready s [vN d, sN x] → OwnTile s tl →
    HasDesc s id e →
    let w := (s.th.sv x).toNat
    let ty := s.th.ety
    let n := 1024 / etyWidth ty
    let p := w / 2 ^ (5 : Nat) % 8
    let x0 := w / 2 ^ (32 : Nat) % 2 ^ (16 : Nat)
    let x1 := w / 2 ^ (48 : Nat)
    (¬ (ty = .bf16 ∨ ty = .f16 ∨ ty = .f32) ∨ e.kind ≠ 1 →
      exec (.vdq d id x) s = .next (s.takeTrap (tensorTrap id 0 11))) ∧
    ((ty = .bf16 ∨ ty = .f16 ∨ ty = .f32) → e.kind = 1 →
      (e.extent 0 < x0 + (p + 1) * n →
        let y := max (x0 + p * n) (e.extent 0)
        exec (.vdq d id x) s = .next (s.takeTrap ⟨0x0E, BitVec.ofNat 64 ((if y < e.shape 0 then 2 ^ (10 : Nat) else 0) + id.toNat),
          BitVec.ofNat 64 y, 0⟩)) ∧
      (x0 + (p + 1) * n ≤ e.extent 0 → e.extent 1 ≤ x1 →
        exec (.vdq d id x) s = .next (s.takeTrap ⟨0x0E,
          BitVec.ofNat 64 ((if x1 < e.shape 1 then 2 ^ (10 : Nat) else 0) + 256 + id.toNat), BitVec.ofNat 64 x1, 0⟩)) ∧
      (x0 + (p + 1) * n ≤ e.extent 0 → x1 < e.extent 1 → w / 2 ^ (8 : Nat) % 2 ^ (24 : Nat) ≠ 0 ∨ 1024 / e.width / n ≤ p →
        exec (.vdq d id x) s = .next (s.takeTrap (tensorTrap id 0 9))) ∧
      (x0 + (p + 1) * n ≤ e.extent 0 → x1 < e.extent 1 → w / 2 ^ (8 : Nat) % 2 ^ (24 : Nat) = 0 → p < 1024 / e.width / n →
        CleanRows s tl (w % 32) 1 → s.heldRow s.cur.core tl d = false → s.th.rowFaults = [] →
        ∃ t, exec (.vdq d id x) s = .next t ∧ RowAwaited s t tl d ∧ t.here.vdqs = s.here.vdqs ++ [⟨s.serial, s.cur.slot,
          s.th.uid, s.th.pc, ty, tl, d, (s.here.tiles[tl.toFin][(BitVec.ofNat 5 w).toFin]).v, p, x0, x1, e, none⟩]))) ∧
  (∀ (s : State) (c : CoreId) (m : SlotId) (q : VdqEntry) (g sc z : Nat) (sg : Bool) (k : Nat) (ex : Int),
    let x := s.core c
    let n := 1024 / etyWidth q.ty
    x.vdqs = [q] → RunsIn s c m q.uid → s.waitsPage (dieOf c) (.scale c q.tok) = false → 0 < n →
    (x.tiles[q.tile.toFin][q.row.toFin]).f = .empty q.tok →
    (∀ j, j < n → (q.x0 + (q.part * n + j)) / q.d.group + q.d.extent 0 / q.d.group * q.x1 = g) →
    s.groupReads c q.d q.refusal [g] = .ok [(sc, z)] → fmtH.decode sc = .fin sg k ex →
    ∃ t, exec (.vdqFill c 0) s = .next t ∧ (t.core c).vdqs = [] ∧ ((t.core c).tiles[q.tile.toFin][q.row.toFin]).f = .full ∧
      ∀ j, j < n →
        let code : Int := lane q.d.width q.codes (q.part * n + j)
        lane (etyWidth q.ty) ((t.core c).tiles[q.tile.toFin][q.row.toFin]).v j =
          (roundFin (etyFmt q.ty) ⟨.rne, true, false⟩ (sg != decide (code < z)) (k * (code - z).natAbs) ex).val %
            2 ^ etyWidth q.ty)

/-- Component `i` of a direction, in units of 2^-15 (R299). -/
def comp (x : DCell) (i : Nat) : Int := (x.v.extractLsb' (16 * i) 16 : BitVec 16).toInt

/-- A long-latency direction (R304): the register empty, its fill due 32 cycles after issue with the result and its exceptions. -/
def DirAwaited (s t : State) (d : DReg) (r : DCell) (fl : Flags) : Prop :=
  t.th = (done (s.setTh (s.th.setD d { s.th.d[d.toFin] with f := .empty s.serial }))).th ∧
  t.here.dirs = s.here.dirs ++ [⟨s.serial, s.cur.slot, s.th.uid, d, s.here.cycle + 32, r, fl⟩] ∧
  t.here.ls = s.here.ls ∧ t.here.tiles = s.here.tiles ∧ t.mem = s.mem

/-- Lane `i` of a source of `DCVT`: FP32 lanes are components 0 to 31, the others are 0 (R306). -/
def dirValue (s : State) (tl : TileId) (bf : Bool) (a : VReg) (i : Nat) : FV :=
  if bf then fmtBf.decode (laneOf s tl .bf16 a i)
  else if i < 32 then fmtS.decode (laneOf s tl .f32 a i) else .fin false 0 0

/-- R307: the dot product of two directions in units of 2^-30. -/
def dotted (x y : DCell) : Int := (List.range 64).foldl (fun p i => p + comp x i * comp y i) 0

/-- What R307 fixes of `DDOT` without a power of two that is not an integer. -/
def DotSpec (env : FEnv) (sc : Bool) (x y : DCell) (r : FRes) : Prop :=
  let p := dotted x y
  let neg := decide (p < 0)
  let satHi (z : DCell) : Prop := z.cls = 3 ∧ 0 ≤ z.l.toInt
  let satLo (z : DCell) : Prop := z.cls = 3 ∧ z.l.toInt < 0
  if x.cls = 2 ∨ y.cls = 2 then r = ⟨0x7FC00000, flNV⟩
  else if x.cls = 1 ∨ y.cls = 1 then r = ⟨0, 0⟩
  else if sc = false then p.natAbs ≤ 2 ^ (30 : Nat) → r = roundFin fmtS env neg p.natAbs (-30)
  else
    (p = 0 → r = ⟨0, 0⟩) ∧
    (p ≠ 0 → satHi x ∨ satHi y → r = ⟨if neg then 0xFF800000 else 0x7F800000, flOF ||| flNX⟩) ∧
    (p ≠ 0 → ¬ (satHi x ∨ satHi y) → satLo x ∨ satLo y → r = ⟨if neg then 0x80000000 else 0, flUF ||| flNX⟩) ∧
    (p ≠ 0 → x.cls = 0 → y.cls = 0 → (x.l.toInt + y.l.toInt) % 2 ^ (24 : Nat) = 0 →
      r = roundFin fmtS env neg p.natAbs (-30 + (x.l.toInt + y.l.toInt) / 2 ^ (24 : Nat)))

/-- What the table of R309 fixes of `DSCL`: the result and its exceptions, for the factor `f`. -/
def ScaleSpec (x : DCell) (f : FV) (r : DCell) (fl : Flags) : Prop :=
  let nv : Flags := if f.isSNaN then flNV else 0
  if x.cls = 2 ∨ f.isNaN = true then r.cls = 2 ∧ r.v = 0 ∧ r.l = 0 ∧ fl = nv
  else if x.cls = 1 then (if f = .inf false then r.cls = 2 ∧ fl = flNV else r.cls = 1 ∧ fl = 0) ∧ r.v = 0 ∧ r.l = 0
  else r.v = x.v ∧ match f with
    | .inf s => r.cls = 3 ∧ r.l = (if s then 0x80000000 else 0x7FFFFFFF) ∧
        fl = (if x.cls = 3 then 0 else (if s then flUF else flOF) ||| flNX)
    | .fin s m e =>
      ∀ n : Int, (if s then -(m : Int) else m) * 2 ^ (e + 24).toNat = n * 2 ^ (-(e + 24)).toNat →
        let l := x.l.toInt + n
        (-2 ^ (31 : Nat) ≤ l → l < 2 ^ (31 : Nat) → r.cls = x.cls ∧ r.l.toInt = l ∧ fl = 0) ∧
        (2 ^ (31 : Nat) ≤ l → r.cls = 3 ∧ r.l = 0x7FFFFFFF ∧ fl = if x.cls = 3 then 0 else flOF ||| flNX) ∧
        (l < -2 ^ (31 : Nat) → r.cls = 3 ∧ r.l = 0x80000000 ∧ fl = if x.cls = 3 then 0 else flUF ||| flNX)
    | .nan .. => True

/-- One lane of a direction converted to a row (R306). -/
def rowLane (f : Fmt) (env : FEnv) (x : DCell) (j : Nat) : FRes :=
  let c := comp x j
  let neg := decide (c < 0)
  if x.cls = 1 then ⟨0, 0⟩
  else if x.cls = 2 then ⟨f.defNaN, flNV⟩
  else if c = 0 then ⟨0, 0⟩
  else if x.cls = 3 then
    if 0 ≤ x.l.toInt then ⟨f.signBit neg + f.infBits, flOF ||| flNX⟩ else ⟨f.signBit neg, flUF ||| flNX⟩
  else roundFin f env neg (scalePow c.natAbs x.l.toInt (-15)).1 (scalePow c.natAbs x.l.toInt (-15)).2

/-- Directional vectors: conversion, sum, dot product, scaling, and the fill of a result. -/
def DirectionsRun : Prop :=
  (∀ (s : State) (tl : TileId) (bf : Bool) (d : DReg) (a : Src), Ready s [dN d, a.vneed] → OwnTile s tl →
    ∃ t r fl, exec (.dcvt bf d a) s = .next t ∧ DirAwaited s t d r fl ∧ r.f = .full ∧
      let x := dirValue s tl bf a.reg
      ((∃ i, i < 64 ∧ (x i).isNaN = true) → r.cls = 2 ∧ r.v = 0 ∧ r.l = 0 ∧
        (fl = flNV ↔ ∃ i, i < 64 ∧ (x i).isSNaN = true) ∧ (fl = flNV ∨ fl = 0)) ∧
      ((∀ i, i < 64 → (x i).isNaN = false) → (∃ i, i < 64 ∧ ∃ sg, x i = .inf sg) →
        r.cls = 3 ∧ r.l = 0x7FFFFFFF ∧ fl = 0 ∧
        r.v = (renorm ((List.range 64).map fun i => if x i = .inf false then 1 else if x i = .inf true then -1 else 0) 0 0).1.v) ∧
      ((∀ i, i < 64 → ∃ sg m e, x i = .fin sg m e) → ∃ (y : List Int) (e : Int), y.length = 64 ∧ (r, fl) = renorm y e 0 ∧
        ∀ i sg m k, i < 64 → x i = .fin sg m k →
          e ≤ k ∧ y.getD i 0 = (if sg then -(m : Int) else m) * 2 ^ (k - e).toNat)) ∧
  (∀ (y : List Int) (e lo : Int), y.length = 64 →
    ((∀ v ∈ y, v = 0) → renorm y e lo = (⟨0, 1, 0, .full⟩, 0)) ∧
    ((∃ v ∈ y, v ≠ 0) → (renorm y e lo).1.cls = 0 ∨ (renorm y e lo).1.cls = 3)) ∧
  (∀ (s : State) (tl : TileId) (bf : Bool) (d : DReg) (r : VReg), Ready s [dN d, vN r] → OwnTile s tl →
    VectorRuns s tl r ⟨.dcvtToRow bf d r, ⟨false, some (if bf then .bf16 else .f32), none⟩, [dN d, vN r], fun _ => false,
      fun _ => true, rowLane (if bf then fmtBf else fmtS) (vEnv s VMods.none) s.th.d[d.toFin], (1, 1)⟩) ∧
  (∀ (s : State) (sc : Bool) (x : SReg) (a b : DSrc), Ready s [sN x, a.need, b.need] →
    ∃ r, DotSpec { vEnv s VMods.none with mode := .rne } sc s.th.d[a.reg.toFin] s.th.d[b.reg.toFin] r ∧
      (¬ FpTraps s r.fl → exec (.ddot sc x a b) s = .next (fpWrote s x r)) ∧
      (FpTraps s r.fl → exec (.ddot sc x a b) s = .next (s.takeTrap ⟨0x08, 1, 0, r.fl⟩))) ∧
  (∀ (s : State) (sb : Bool) (d : DReg) (a b : DSrc), Ready s [dN d, a.need, b.need] →
    let x := s.th.d[a.reg.toFin]
    let y := s.th.d[b.reg.toFin]
    ∃ t r fl, exec (.dadd sb d a b) s = .next t ∧ DirAwaited s t d r fl ∧ r.f = .full ∧
      (x.cls = 2 ∨ y.cls = 2 → r = ⟨0, 2, 0, .full⟩ ∧ fl = 0) ∧
      (x.cls = 1 → y.cls = 1 → r = ⟨0, 1, 0, .full⟩ ∧ fl = 0) ∧
      (x.cls = 0 → y.cls = 0 → x.l = y.l →
        (r, fl) = renorm ((List.range 64).map fun i => (comp x i + (if sb then -1 else 1) * comp y i) * 2 ^ (256 : Nat)) (-271) x.l.toInt) ∧
      (x.cls ≠ 2 → y.cls ≠ 2 → x.cls = 3 ∨ y.cls = 3 → r.cls = 1 ∨ (r.cls = 3 ∧ fl = 0))) ∧
  (∀ (s : State) (neg : Bool) (d : DReg) (a : DSrc) (b : Src), Ready s [dN d, a.need, b.need] →
    ∃ r0 r f0 f1, ScaleSpec s.th.d[a.reg.toFin] (fmtS.decode ((val s b).toNat % 2 ^ (32 : Nat))) r0 f0 ∧
      r.cls = r0.cls ∧ r.l = r0.l ∧ r.f = .full ∧
      (neg = false ∨ r0.cls = 1 ∨ r0.cls = 2 → r.v = r0.v ∧ f1 = f0) ∧
      (neg = true → r0.cls = 0 ∨ r0.cls = 3 →
        (∀ i, i < 64 → comp r i = if comp r0 i = -32768 then 32767 else -comp r0 i) ∧
        f1 = f0 ||| (if (List.range 64).any (fun i => comp r0 i == -32768) then flNX else 0)) ∧
      (¬ FpTraps s f1 → exec (.dscl neg d a b) s =
        .next (done (s.setTh { s.th.setD d r with fsr := s.th.fsr ||| f1.setWidth 64 }))) ∧
      (FpTraps s f1 → exec (.dscl neg d a b) s = .next (s.takeTrap ⟨0x08, 1, 0, f1⟩))) ∧
  (∀ (s : State) (c : CoreId) (m : SlotId) (e : DirEntry), (s.core c).dirs = [e] → RunsIn s c m e.uid →
    let t := ((s.core c).slots[m]).th
    ((s.core c).cycle < e.due → exec (.directionalFill c 0) s = .next s) ∧
    (e.due ≤ (s.core c).cycle → (t.d[e.d.toFin]).f = .empty e.tok →
      ∃ u, exec (.directionalFill c 0) s = .next u ∧ (u.core c).dirs = [] ∧
        ((u.core c).slots[m]).th = { t.setD e.d e.val with fsr := t.fsr ||| e.fl.setWidth 64 }))

end Sys2Proof.Claims

/-- The long-latency units of a core (R255, R278, R297 to R309): special functions, dequantisation, directional vectors: what
issue captures and leaves empty, when the result arrives, its value at every special operand, its exceptions. Where the
manual leaves room it rests on the model's choices (log entries 20, 21, 22). -/
def Obligations.SpecialFunctionsAndDirectionsRun : Prop :=
  Sys2Proof.Claims.SpecialFunctionsRun ∧ Sys2Proof.Claims.CodesAreDequantised ∧ Sys2Proof.Claims.DirectionsRun

namespace Sys2Proof.Claims

/-! ## Routing -/

/-- Header word of a message (R219). -/
def header (kind place len slot : Nat) (tag : Nat) : Word :=
  BitVec.ofNat 64 (kind * 2 ^ (56 : Nat) + place * 2 ^ (43 : Nat) + len * 2 ^ (40 : Nat) + slot * 2 ^ (32 : Nat) + tag)

/-- Word `k` of a row (R384). -/
def wordOf (r : Row) (k : Nat) : Word := r.extractLsb' (64 * k) 64

/-- A return token (R385). -/
def token (t : Tide) (e : BitVec 3) (berth : BitVec 8) (choice row : Nat) : Word :=
  BitVec.ofNat 64 (t.place * 2 ^ (21 : Nat) + berth.toNat * 2 ^ (13 : Nat) + choice * 2 ^ (12 : Nat) + row * 2 ^ (7 : Nat) + t.gen.toNat * 2 ^ (3 : Nat) + e.toNat)

/-- The three entries of a routed row (R384): headers, token, weight, the sixteen words of the row. -/
def rowMessage (t : Tide) (tag w : BitVec 32) (tok : Word) (r : Row) : List InEntry :=
  let e (kind len : Nat) (ws : List Word) : InEntry :=
    ⟨header kind t.place len t.slot.val tag.toNat :: ws, t.tenant, false, none, []⟩
  [e 2 7 [tok, w.setWidth 64, wordOf r 0, wordOf r 1, wordOf r 2, wordOf r 3, wordOf r 4],
   e 3 7 [wordOf r 5, wordOf r 6, wordOf r 7, wordOf r 8, wordOf r 9, wordOf r 10, wordOf r 11],
   e 3 4 [wordOf r 12, wordOf r 13, wordOf r 14, wordOf r 15, 0, 0, 0]]

/-- The completion message of an entry (R392). -/
def completion (t : Tide) (e : BitVec 3) (drop missing pass : BitVec 32) : List InEntry :=
  [⟨[header 4 t.place 4 t.slot.val t.tag.toNat,
     BitVec.ofNat 64 ((if missing = 0 then 0 else 2 ^ (16 : Nat)) + t.m * 2 ^ (8 : Nat) + t.gen.toNat * 2 ^ (3 : Nat) + e.toNat),
     drop.setWidth 64, missing.setWidth 64, pass.setWidth 64, 0, 0, 0], t.tenant, t.sys, none, []⟩]

/-- A token names choice `k` of row `i` of the open entry `t` (R385, R390). -/
structure TokenNames (s : State) (c : CoreId) (w : Word) (e : BitVec 3) (t : Tide) (i k : Nat) (r : TideRow) (ch : Choice) : Prop where
  entry : w.toNat % 8 = e.toNat ∧ (s.core c).tide[e.toFin] = t ∧ t.opn = true
  gen : w.toNat / 2 ^ (3 : Nat) % 2 ^ (4 : Nat) = t.gen.toNat
  row : w.toNat / 2 ^ (7 : Nat) % 2 ^ (5 : Nat) = i ∧ t.rows[i]? = some r
  choice : w.toNat / 2 ^ (12 : Nat) % 2 = k ∧ r.ch[k]? = some ch

/-- A choice that is resolved (R387). -/
def Resolved (c : Choice) : Prop := c.st = .returned ∨ c.st = .dropped ∨ c.st = .passed ∨ c.st = .missing

/-- Row `i` of an open entry after a step, with its choices `ch`: full and done exactly when all are resolved (R387). -/
def RowAfter (u : State) (c : CoreId) (e : BitVec 3) (t : Tide) (i : Nat) (ch : List Choice) : Prop :=
  let x := (u.core c).tide[e.toFin]
  let cell := (u.core c).tiles[t.dst.toFin][(BitVec.ofNat 5 (t.drow + i)).toFin]
  x.opn = true ∧ (∃ r, x.rows[i]? = some r ∧ r.ch = ch) ∧
  ((∀ q ∈ ch, Resolved q) → x.done = t.done ||| BitVec.ofNat 32 (2 ^ i) ∧ cell.f = .full) ∧
  ((∃ q ∈ ch, ¬ Resolved q) → x.done = t.done ∧ cell.f = .empty t.tok)

/-- Row `i` awaits its result, and other rows stay open after it (R387, R392). -/
def RowOpen (s : State) (c : CoreId) (t : Tide) (i : Nat) : Prop :=
  t.rows.length = t.m ∧ t.m ≤ 32 ∧ t.drow + t.m ≤ 32 ∧ t.done.getLsbD i = false ∧
  (∃ j, j < t.m ∧ j ≠ i ∧ t.done.getLsbD j = false) ∧
  ((s.core c).tiles[t.dst.toFin][(BitVec.ofNat 5 (t.drow + i)).toFin]).f = .empty t.tok

/-- Trap 0x13 (R393). -/
def routed (kind row choice berth : Nat) (w : Word) : TrapInfo :=
  ⟨0x13, BitVec.ofNat 64 (berth * 2 ^ (16 : Nat) + choice * 2 ^ (13 : Nat) + row * 2 ^ (8 : Nat) + kind), w, 0⟩

/-- `ROUTE`, `RRET` and `RTBL` at issue. -/
def RoutesReturnsAndBerths : Prop :=
  ∀ (s : State),
  (∀ (pol : Policy) (top2 : Bool) (d bt : TileId) (a b x : Src) (f32 : Bool),
    let sb := (val s b).toNat
    let sx := (val s x).toNat
    let m := sb % 2 ^ (6 : Nat)
    let e : BitVec 3 := BitVec.ofNat 3 sx
    let dst : TileId := BitVec.ofNat 2 (sx / 2 ^ (8 : Nat))
    let drow := sx / 2 ^ (10 : Nat) % 2 ^ (5 : Nat)
    let two := top2 = true ∨ pol = .next
    let np := if two then 2 * m else m
    let rows := (np + 15) / 16
    let pair (p : Nat) : Word := wordOf (s.here.tiles[bt.toFin][(a.reg + BitVec.ofNat 5 (p / 16)).toFin]).v (p % 16)
    let t0 := s.here.tide[e.toFin]
    Ready s (((List.range rows).map fun i => ⟨.v (a.reg + BitVec.ofNat 5 i), a.wait⟩) ++ [b.need, x.need]) →
    ¬ (top2 = true ∧ pol = .next) → OwnTile s bt → MyTile s d → MyTile s dst → (f32 = true ∨ s.th.ety = .f32) →
    sb / 2 ^ (6 : Nat) % 2 ^ (26 : Nat) = 0 → m ≤ 32 → sx / 2 ^ (15 : Nat) = 0 → sx / 2 ^ (3 : Nat) % 2 ^ (5 : Nat) = 0 → drow + m ≤ 32 → a.reg.toNat + rows ≤ 32 →
    (sb / 2 ^ (32 : Nat) = 0 → exec (.route pol top2 d a b x f32) s = .next (s.takeTrap (routed 8 0 0 0 (val s b)))) ∧
    (sb / 2 ^ (32 : Nat) ≠ 0 → dst = d → m ≠ 0 → drow < m →
      exec (.route pol top2 d a b x f32) s = .next (s.takeTrap (routed 2 0 0 0 (val s x)))) ∧
    (sb / 2 ^ (32 : Nat) ≠ 0 → (dst ≠ d ∨ m = 0 ∨ m ≤ drow) →
      (∀ p, p < np → (pair p).toNat / 2 ^ (40 : Nat) = 0 → (∀ q, q < p → ∃ y, (pair q).toNat / 2 ^ (40 : Nat) = 0 ∧
          aget s.copyHere.berths (BitVec.ofNat 8 ((pair q).toNat / 2 ^ (32 : Nat))) = some y ∧
          y.tenant = s.th.tenant) →
        (∀ y, aget s.copyHere.berths (BitVec.ofNat 8 ((pair p).toNat / 2 ^ (32 : Nat))) = some y →
          y.tenant ≠ s.th.tenant) →
        exec (.route pol top2 d a b x f32) s = .next (s.takeTrap (routed 0 (if two then p / 2 else p)
          (if two then p % 2 else 0) ((pair p).toNat / 2 ^ (32 : Nat)) (pair p)))) ∧
      ((∀ p, p < np → (pair p).toNat / 2 ^ (40 : Nat) = 0 ∧ ∃ y,
          aget s.copyHere.berths (BitVec.ofNat 8 ((pair p).toNat / 2 ^ (32 : Nat))) = some y ∧
          y.tenant = s.th.tenant) → CleanRows s d 0 m → CleanRows s dst drow m →
        (t0.opn = true → ∃ t, exec (.route pol top2 d a b x f32) s = .next t ∧ t.me.st = .parked ∧ t.me.wait = .tide e ∧
          t.th = s.th ∧ t.here.tide = s.here.tide ∧ t.here.tiles = s.here.tiles) ∧
        (t0.opn = false → m ≠ 0 → ∃ t u, exec (.route pol top2 d a b x f32) s = .next t ∧ t.th = (done s).th ∧
          t.here.ls = s.here.ls ∧ t.msgs = s.msgs ∧ t.here.tide[e.toFin] = u ∧
          u.opn = true ∧ u.gen = t0.gen + 1 ∧ u.m = m ∧ u.policy = pol ∧ u.src = d ∧ u.dst = dst ∧ u.drow = drow ∧
          u.deadline = s.here.cycle + sb / 2 ^ (32 : Nat) ∧ u.place = s.th.place ∧ u.tenant = s.th.tenant ∧ u.slot = s.cur.slot ∧
          u.tag = s.th.tagf.setWidth 32 ∧ u.drop = 0 ∧ u.pass = 0 ∧ u.missing = 0 ∧ u.done = 0 ∧ u.rows.length = m ∧
          (∀ i, i < m → ∃ r, u.rows[i]? = some r ∧ r.held = true ∧ r.ch.length = (if top2 then 2 else 1) ∧
            (r.alt.isSome = true ↔ pol = .next) ∧ ∀ k q, r.ch[k]? = some q ∨ (k = 1 ∧ r.alt = some q) →
              q.st = .unsent ∧ q.w = (pair (if two then 2 * i + k else i)).setWidth 32 ∧
              q.berth = BitVec.ofNat 8 ((pair (if two then 2 * i + k else i)).toNat / 2 ^ (32 : Nat))) ∧
          (∀ r : VReg, drow ≤ r.toNat → r.toNat < drow + m →
            t.here.tiles[dst.toFin][r.toFin] = ⟨0, .empty s.serial⟩) ∧
          (∀ (y : TileId) (r : VReg), ¬ (y = dst ∧ drow ≤ r.toNat ∧ r.toNat < drow + m) →
            t.here.tiles[y.toFin][r.toFin] = s.here.tiles[y.toFin][r.toFin])) ∧
        (∀ h, t0.opn = false → m = 0 → s.placeCore s.cur.core s.th.place = some h → s.th.place < 2 ^ (13 : Nat) →
          ∃ t u q, exec (.route pol top2 d a b x f32) s = .next t ∧ t.th = (done s).th ∧ t.msgs = s.msgs ++ [q] ∧
            q.core = h ∧ q.entries = completion u e 0 0 0 ∧ u.m = 0 ∧ u.gen = t0.gen + 1 ∧ u.place = s.th.place ∧
            u.slot = s.cur.slot ∧ u.tag = s.th.tagf.setWidth 32 ∧ u.tenant = s.th.tenant ∧ u.sys = (s.th.level != .user) ∧
            t.here.tide[e.toFin] = { Tide.free with gen := t0.gen + 1 } ∧ t.here.tiles = s.here.tiles)))) ∧
  (∀ (d : SReg) (a : Src) (bt : TileId), Ready s [sN d, a.vneed] → OwnTile s bt →
    let w := s.th.sv d
    let id : BitVec 8 := BitVec.ofNat 8 (w.toNat / 2 ^ (13 : Nat))
    (w.toNat / 2 ^ (34 : Nat) ≠ 0 ∨ s.placeCore s.cur.core (w.toNat / 2 ^ (21 : Nat) % 2 ^ (13 : Nat)) = none →
      exec (.rret d a) s = .next (s.takeTrap (routed 7 (w.toNat / 2 ^ (7 : Nat) % 2 ^ (5 : Nat)) (w.toNat / 2 ^ (12 : Nat) % 2) id.toNat w))) ∧
    (∀ c, w.toNat / 2 ^ (34 : Nat) = 0 → s.placeCore s.cur.core (w.toNat / 2 ^ (21 : Nat) % 2 ^ (13 : Nat)) = some c →
      (2 ≤ s.me.sends → ∃ t, exec (.rret d a) s = .next t ∧ t.me.st = .parked ∧ t.me.wait = .sendEntry ∧ t.th = s.th ∧
        t.returns = s.returns ∧ t.here.berths = s.here.berths) ∧
      (s.me.sends < 2 → ∃ t r, exec (.rret d a) s = .next t ∧ t.th = (done s).th ∧ t.returns = s.returns ++ [r] ∧
        r.core = s.cur.core ∧ r.slot = s.cur.slot ∧ r.target = c ∧ r.token = w ∧ r.tenant = s.th.tenant ∧
        r.row = (s.here.tiles[bt.toFin][a.reg.toFin]).v ∧ t.me.sends = s.me.sends + 1 ∧ t.here.tiles = s.here.tiles ∧
        (∀ y, aget s.here.berths id = some y → aget t.here.berths id =
          some (if y.tenant = s.th.tenant then { y with count := y.count - 1 } else y)) ∧
        ∀ j, j ≠ id → aget t.here.berths j = aget s.here.berths j))) ∧
  (∀ (a b : Src),
    let id : BitVec 8 := BitVec.ofNat 8 (val s a).toNat
    let cap := (val s b).toNat / 2 ^ (32 : Nat)
    let mine : Berth := ⟨s.th.place, s.th.tenant, (val s b).setWidth 32, cap⟩
    (Ready s [a.need, b.need] → (val s a).toNat < 2 ^ (8 : Nat) → 1 ≤ cap → cap ≤ 1024 →
      (∃ t, exec (.rtbl a b) s = .next t ∧ SetOut s t (.rtbl id (some mine)) .none) ∧
      (Quiet s → aget (s.part s.partHere).berths id = none → ∃ t, AtHome s (.rtbl a b) t [] true ∧
        aget (t.part s.partHere).berths id = some mine ∧ aget t.here.berths id = some ⟨s.th.tenant, cap, 0⟩ ∧
        ∀ cl ∈ s.clustersOf s.partHere, (id, some mine) ∈ (t.copy s.partHere cl).berthq.map fun u => u.2) ∧
      (Quiet s → ∀ y, aget (s.part s.partHere).berths id = some y → ∃ t, Runs [.rtbl a b, .perform s.serial] s t ∧
        ∃ q, t.reqs = [q] ∧ q.reply = some (.trap 0x13 (routed 5 0 0 id.toNat 0).info (id.setWidth 64)))) ∧
    (Ready s [a.need, b.need] → (val s a).toNat < 2 ^ (8 : Nat) → cap = 0 ∨ 1024 < cap →
      exec (.rtbl a b) s = .next (s.takeTrap (routed 1 0 0 id.toNat (val s b)))) ∧
    (Ready s [a.need] → (val s a).toNat < 2 ^ (8 : Nat) →
      (∃ t, exec (.rtblRm a) s = .next t ∧ SetOut s t (.rtbl id none) .none) ∧
      (Quiet s → ∀ y, aget (s.part s.partHere).berths id = some y →
        (y.place = s.th.place → y.tenant = s.th.tenant → ∃ t, AtHome s (.rtblRm a) t [] true ∧
          aget (t.part s.partHere).berths id = none ∧ aget t.here.berths id = none) ∧
        (y.place ≠ s.th.place ∨ y.tenant ≠ s.th.tenant → ∃ t, Runs [.rtblRm a, .perform s.serial] s t ∧
          ∃ q, t.reqs = [q] ∧ q.reply = some (.trap 0x13 (routed 6 0 0 id.toNat 0).info (id.setWidth 64))))))

/-- The steps of routing: sending, acceptance or refusal at a berth, the policies, returns, the deadline. -/
def RoutedRowsTravel : Prop :=
  (∀ (s : State) (p : Nat) (cl : BitVec 9) (tok : Nat) (id : BitVec 8) (y : Option Berth) (l : List (Nat × BitVec 8 × Option Berth)),
    (∀ q ∈ s.copies, q.1.2 = cl → q.2.berthq ≠ [] → q.1.1 = p) →
    (s.copy p cl).berthq = (tok, id, y) :: l → ∃ t, exec (.berthTableUpdateApply cl) s = .next t ∧
      aget (t.copy p cl).berths id = y ∧ (t.copy p cl).berthq = l ∧
      ∀ j, j ≠ id → aget (t.copy p cl).berths j = aget (s.copy p cl).berths j) ∧
  (∀ (s : State) (c h : CoreId) (e : BitVec 3) (t : Tide) (i k : Nat) (r : TideRow) (ch : Choice),
    (s.core c).tide[e.toFin] = t → t.opn = true → s.msgs = [] → t.place < 2 ^ (13 : Nat) → i < 32 → k < 2 →
    t.rows[i]? = some r → r.ch[k]? = some ch → ch.st = .unsent →
    (∀ j r', j < i → t.rows[j]? = some r' → ∀ q ∈ r'.ch, q.st ≠ .unsent) →
    (∀ j q, j < k → r.ch[j]? = some q → q.st ≠ .unsent) → s.placeCore c ch.place = some h →
    ∃ u m r', exec (.routeRowSend c e) s = .next u ∧ u.msgs = [m] ∧ m.src = .tide c e ∧ m.core = h ∧ m.stage = .flight ∧
      m.row = some ⟨token t e ch.berth k i, ch.w, ch.berth⟩ ∧
      m.entries = rowMessage t ch.tag ch.w (token t e ch.berth k i) ((s.core c).tiles[t.src.toFin][(BitVec.ofNat 5 i).toFin]).v ∧
      ((u.core c).tide[e.toFin]).rows[i]? = some r' ∧ r'.ch = r.ch.set k { ch with st := .sending } ∧
      (r'.held = true ↔ ∃ q ∈ r'.ch, q.st = .unsent)) ∧
  (∀ (s : State) (m : Msg) (w : RowTok) (b : BerthAt), s.msgs = [m] → m.row = some w → m.gate = false →
    m.stage = .flight ∨ m.stage = .again → m.entries.length = 3 → s.lvrctl.getLsbD 63 = false → s.onTime (s.msgWires m) = true →
    let x := s.core m.core
    let tn := (m.entries.headD default).tenant
    x.inbox.reserved = [] → x.inbox.refused = [] →
    ((aget x.berths w.berth = none ∨ (aget x.berths w.berth = some b ∧ (b.tenant ≠ tn ∨ b.cap ≤ b.count))) →
      ∃ u, exec (.rowMessageArrival m.id) s = .next u ∧ u.msgs = [staged s.serial m .refused] ∧
        (u.core m.core).inbox = x.inbox ∧ (u.core m.core).berths = x.berths) ∧
    (aget x.berths w.berth = some b → b.tenant = tn → b.count < b.cap →
      (61 < x.inbox.entries.length → x.inbox.entries.length ≤ 64 → ∃ u, exec (.rowMessageArrival m.id) s = .next u ∧
        u.msgs = [staged s.serial m (.bounced true)] ∧ (u.core m.core).inbox.entries = x.inbox.entries ∧
        (u.core m.core).berths = x.berths) ∧
      (x.inbox.entries.length ≤ 61 → ∃ u, exec (.rowMessageArrival m.id) s = .next u ∧ u.msgs = [] ∧
        (u.core m.core).inbox.entries = x.inbox.entries ++ m.entries ∧
        aget (u.core m.core).berths w.berth = some { b with count := b.count + 1 } ∧
        ∀ c e t i k r ch, m.src = .tide c e → TokenNames s c w.token e t i k r ch → ch.st = .sending →
          ∃ r', ((u.core c).tide[e.toFin]).rows[i]? = some r' ∧ r'.ch = r.ch.set k { ch with st := .accepted }))) ∧
  (∀ (s : State) (m : Msg) (w : RowTok) (c : CoreId) (e : BitVec 3) (t : Tide) (i k : Nat) (r : TideRow) (ch : Choice),
    s.msgs = [m] → m.row = some w → m.stage = .refused → m.src = .tide c e → TokenNames s c w.token e t i k r ch →
    (s.core m.core).inbox.reserved = [] → s.onTime (s.msgWires m) = true →
    (ch.st ≠ .sending → ∃ u, exec (.rowRefusal m.id) s = .next u ∧ u.msgs = [] ∧ (u.core c).tide[e.toFin] = t) ∧
    (ch.st = .sending → RowOpen s c t i → (t.policy = .drop ∨ (t.policy = .next ∧ r.alt = none)) →
      ∃ u, exec (.rowRefusal m.id) s = .next u ∧ u.msgs = [] ∧ RowAfter u c e t i (r.ch.set k { ch with st := .dropped }) ∧
        ((u.core c).tide[e.toFin]).drop = t.drop ||| BitVec.ofNat 32 (2 ^ i)) ∧
    (ch.st = .sending → RowOpen s c t i → t.policy = .pass → ∀ (x : Row) (tag : BitVec 32), m.entries = rowMessage t tag ch.w w.token x →
      ∃ u, exec (.rowRefusal m.id) s = .next u ∧ u.msgs = [] ∧
        RowAfter u c e t i (r.ch.map fun q => { q with st := .passed }) ∧
        ((u.core c).tide[e.toFin]).pass = t.pass ||| BitVec.ofNat 32 (2 ^ i) ∧
        ((u.core c).tiles[t.dst.toFin][(BitVec.ofNat 5 (t.drow + i)).toFin]).v = x) ∧
    (∀ a h x, ch.st = .sending → RowOpen s c t i → t.policy = .next → r.ch = [ch] → r.alt = some a →
      s.placeCore c a.place = some h → t.place < 2 ^ (13 : Nat) → i < 32 → m.entries = rowMessage t ch.tag ch.w w.token x →
      ∃ u m', exec (.rowRefusal m.id) s = .next u ∧ u.msgs = [m'] ∧ m'.core = h ∧ m'.src = .tide c e ∧ m'.stage = .flight ∧
        m'.row = some ⟨token t e a.berth 1 i, a.w, a.berth⟩ ∧
        m'.entries = rowMessage t a.tag a.w (token t e a.berth 1 i) x ∧
        RowAfter u c e t i [{ ch with st := .dropped }, { a with st := .sending }] ∧ ((u.core c).tide[e.toFin]).drop = t.drop)) ∧
  (∀ (s : State) (q : RowRet) (e : BitVec 3) (t : Tide) (i k : Nat) (r : TideRow) (ch : Choice),
    s.returns = [q] → q.gate = false → s.clear q.wire = true → TokenNames s q.target q.token e t i k r ch →
    (ch.st = .accepted → t.tenant = q.tenant → RowOpen s q.target t i →
      ∃ u, exec (.rowReturn q.id) s = .next u ∧ u.returns = [] ∧
        RowAfter u q.target e t i (r.ch.set k { ch with st := .returned }) ∧
        ∀ j, j < 32 →
          let old := ((s.core q.target).tiles[t.dst.toFin][(BitVec.ofNat 5 (t.drow + i)).toFin]).v
          lane 32 ((u.core q.target).tiles[t.dst.toFin][(BitVec.ofNat 5 (t.drow + i)).toFin]).v j =
            (fFma fmtS ⟨.rne, false, false⟩ .pp ch.w.toNat (lane 32 q.row j) (lane 32 old j)).val % 2 ^ (32 : Nat)) ∧
    (ch.st ≠ .accepted ∨ t.tenant ≠ q.tenant → ∃ u, exec (.rowReturn q.id) s = .next u ∧ u.returns = [] ∧
      (u.core q.target).tide = (s.core q.target).tide ∧ (u.core q.target).tiles = (s.core q.target).tiles ∧
      (u.core q.target).rlate = if (s.core q.target).rlate = 0xFFFFFFFF then 0xFFFFFFFF else (s.core q.target).rlate + 1)) ∧
  (∀ (s : State) (c h : CoreId) (e : BitVec 3) (t : Tide), (s.core c).tide[e.toFin] = t → t.opn = true →
    ((s.core c).cycle < t.deadline → exec (.tideDeadline c e) s = .next s) ∧
    (t.deadline ≤ (s.core c).cycle → s.msgs = [] → t.rows.length = t.m → t.m ≤ 32 → t.drow + t.m ≤ 32 → t.place < 2 ^ (13 : Nat) →
      (∀ i r, t.rows[i]? = some r → (t.done.getLsbD i = true ↔ ∀ q ∈ r.ch, Resolved q)) →
      (∀ i, t.m ≤ i → t.done.getLsbD i = false) → (∃ i, i < t.m ∧ t.done.getLsbD i = false) →
      (∀ i, i < t.m → t.done.getLsbD i = false →
        ((s.core c).tiles[t.dst.toFin][(BitVec.ofNat 5 (t.drow + i)).toFin]).f = .empty t.tok) →
      s.placeCore c t.place = some h →
      ∃ u m miss, exec (.tideDeadline c e) s = .next u ∧ (u.core c).tide[e.toFin] = { Tide.free with gen := t.gen } ∧
        u.msgs = [m] ∧ m.core = h ∧ m.entries = completion t e t.drop miss t.pass ∧
        (∀ i, i < 32 → (miss.getLsbD i = true ↔
          t.missing.getLsbD i = true ∨ (i < t.m ∧ t.done.getLsbD i = false))) ∧
        ∀ i, i < t.m → t.done.getLsbD i = false →
          (u.core c).tiles[t.dst.toFin][(BitVec.ofNat 5 (t.drow + i)).toFin] =
            ⟨((s.core c).tiles[t.dst.toFin][(BitVec.ofNat 5 (t.drow + i)).toFin]).v, .full⟩))

end Sys2Proof.Claims

/-- Routing and reassembly (R382 to R396): `ROUTE` opens an entry from checked pairs, rows travel with their tokens, a berth
accepts, refuses or bounces them, the policy resolves a refusal, returns are accumulated, the deadline ends what is left;
berths are registered and removed in every copy. Where the
manual leaves room it rests on the model's choices (log entries 63, 77). -/
def Obligations.RowsAreRoutedAndReturned : Prop :=
  Sys2Proof.Claims.RoutesReturnsAndBerths ∧ Sys2Proof.Claims.RoutedRowsTravel

namespace Sys2Proof.Claims

/-! ## The host: control window, CXL.mem, commands, owners, interfaces, power -/

/-- The module has booted and is on (R428, R429). -/
def Booted (s : State) : Prop := s.boot = 1 ∧ s.off = false

/-- An owner is elected; it is the master `m` (R424). -/
def Elected (s : State) : Prop := s.ownctl.getLsbD 2 = true
def OwnerIs (s : State) (m : BitVec 2) : Prop := Elected s ∧ s.ownctl.toNat % 4 = m.toNat

/-- A head whose link is up maps a host address to the device physical address `a` (R416). -/
def MapsTo (s : State) (h : BitVec 2) (a : Nat) : Prop := Booted s ∧ h.toNat < 3 ∧ h ∉ s.down ∧ a ≤ paMax

/-- The host address at which the decoder of a head shows the device physical address `a` (R416). -/
def HostAddr (s : State) (h : BitVec 2) (a at_ : Nat) : Prop := ∃ b, s.hdmBase.toList[h.toNat]? = some b ∧ at_ = b + a

/-- The granule of an address belongs to no tenant with interfaces, or one of them runs (R426). -/
def GranuleOpen (s : State) (a : Nat) : Prop :=
  ∀ tn, aget s.hdm (a / 2 ^ (30 : Nat)) = some tn →
    (∀ p ∈ s.ctxs, p.2.tenant ≠ tn) ∨ ∃ p ∈ s.ctxs, p.2.tenant = tn ∧ p.2.tdi = .run

/-- The control window's commands and tables. -/
def ControlWindowActs : Prop :=
  (∀ (s : State) (t : BitVec 9) (base len : Nat), Booted s → Elected s →
    (s.inval = none → ∃ u, exec (.translationInvalidate t base len) s = .next u ∧
      u.inval = some ⟨t, base, len, s.serial⟩ ∧ u.mem = s.mem ∧
      ∀ cl e, e ∈ (u.cluster cl).tcache ↔ e ∈ (s.cluster cl).tcache ∧
        ¬ (e.1.1 = t ∧ e.1.2.2 < base + len ∧ base < e.1.2.2 + (if e.1.2.1.isSome then 2 ^ (10 : Nat) else 2 ^ (21 : Nat)))) ∧
    (s.inval.isSome = true → exec (.translationInvalidate t base len) s = .next s)) ∧
  (∀ (s : State) (v : Inval), s.inval = some v →
    (s.reqs = [] → exec .translationInvalidateDone s = .next { s with inval := none }) ∧
    (∀ q ∈ s.reqs, q.dev = true → q.tenant = v.tenant → q.xlat < v.before → q.va < v.base + v.len → v.base < q.va + q.size →
      q.pas ≠ [] → q.stage = .home ∨ q.stage = .waiting → exec .translationInvalidateDone s = .next s)) ∧
  (∀ (s : State) (frame : Nat), Booted s → Elected s →
    (s.dirty.length < 512 → aget s.dirty frame = none → frame ≤ 589823 →
      exec (.dirtyMapTrack frame) s =
        .next { s with dirty := s.dirty ++ [(frame, [])], dirtyErr := false, dirtyCmd := 1, dirtyFrame := frame }) ∧
    (512 ≤ s.dirty.length ∨ aget s.dirty frame ≠ none ∨ 589823 < frame →
      exec (.dirtyMapTrack frame) s = .next { s with dirtyErr := true, dirtyCmd := 1, dirtyFrame := frame }) ∧
    (aget s.dirty frame ≠ none → (∀ p ∈ s.clusters, p.2.nodes = []) → ∃ u, exec (.dirtyMapRelease frame) s = .next u ∧
      aget u.dirty frame = none ∧ u.dirtyErr = false ∧ u.dirtyCmd = 2 ∧ u.dirtyFrame = frame ∧ ∀ f, f ≠ frame → aget u.dirty f = aget s.dirty f) ∧
    (aget s.dirty frame = none → exec (.dirtyMapRelease frame) s = .next { s with dirtyErr := true, dirtyCmd := 2, dirtyFrame := frame })) ∧
  (∀ (s : State) (p : BitVec 6) (place : CoreId) (v : Half), Booted s → Elected s →
    let x := s.part p.toNat
    let c : CoreId := v.setWidth 13
    let mine : Prop := ∀ q ∈ s.parts, ∀ i, q.2.places[i]? = some c → q.1 = p.toNat ∧ i = place.toNat
    (∀ old, x.places[place.toNat]? = some old → v.getLsbD 15 = true → c ∉ s.disabled → s.passed c = true → ¬ (s.isCoupled c = true ∧ c.getLsbD 0 = true) → x.base ≤ hilbertOf c →
      hilbertOf c < x.base + x.len → mine → ∃ u, exec (.placeTableWrite p place v) s = .next u ∧
        (u.part p.toNat).places = x.places.set place.toNat c ∧
        (u.part p.toNat).ranking = x.ranking.map (fun d => if d = old then c else d) ∧
        ∀ j, j ≠ p.toNat → u.part j = s.part j) ∧
    (x.places[place.toNat]? = none ∨ v.getLsbD 15 = false ∨ c ∈ s.disabled ∨ s.passed c = false ∨
      (s.isCoupled c = true ∧ c.getLsbD 0 = true) ∨ hilbertOf c < x.base ∨
      x.base + x.len ≤ hilbertOf c ∨ ¬ mine → exec (.placeTableWrite p place v) s = .next s)) ∧
  (∀ (s : State) (p : BitVec 6) (base len : Nat), Booted s → Elected s →
    let x := s.part p.toNat
    let idle : Prop := ∀ i, (i < x.len → s.occupied (hilbertCore (x.base + i)) = false) ∧
      (i < len → s.occupied (hilbertCore (base + i)) = false)
    let apart : Prop := ∀ q ∈ s.parts, q.1 ≠ p.toNat → q.2.len = 0 ∨ base + len ≤ q.2.base ∨ q.2.base + q.2.len ≤ base
    (base + len ≤ 8192 → idle → len = 0 → ∃ u, exec (.partitionTableWrite p base len) s = .next u ∧
      u.part p.toNat = Partition.reset ∧ ∀ j, j ≠ p.toNat → u.part j = s.part j) ∧
    (base + len ≤ 8192 → idle → apart → len ≠ 0 → ∃ u l, exec (.partitionTableWrite p base len) s = .next u ∧
      u.part p.toNat = { Partition.reset with base := base, len := len, places := l, ranking := l } ∧
      l = ((List.range len).map fun i => hilbertCore (base + i)).filter (fun c => !s.disabled.contains c && s.passed c && !(s.isCoupled c && c.getLsbD 0)) ∧
      ∀ j, j ≠ p.toNat → u.part j = s.part j) ∧
    (8192 < base + len ∨ ¬ idle ∨ (len ≠ 0 ∧ ¬ apart) → exec (.partitionTableWrite p base len) s = .next s)) ∧
  (∀ (s : State) (m : BitVec 2) (t : BitVec 9) (off : Nat) (v : Word), Booted s → OwnerIs s m →
    let a := 0x20000 + 64 * t.toNat
    (∃ u, exec (.controlWindowWrite m a v) s = .next u ∧ (u.tenant t).root = v.toNat % 2 ^ (52 : Nat) / 2 ^ (13 : Nat) * 2 ^ (13 : Nat) ∧
      u.mem = s.mem ∧ u.parts = s.parts) ∧
    (∃ u, exec (.controlWindowWrite m (a + 8) v) s = .next u ∧ (u.tenant t).quota = v.toNat ∧ u.mem = s.mem) ∧
    (∃ u, exec (.controlWindowWrite m (a + 16) v) s = .next u ∧ (u.tenant t).charged = v.toNat ∧ u.mem = s.mem) ∧
    (off % 8 ≠ 0 ∨ off < 0x20000 ∨ (0x28000 ≤ off ∧ off < 0x40000) ∨ 0x50000 ≤ off →
      exec (.controlWindowWrite m off v) s = .next s)) ∧
  (∀ (s : State) (m : BitVec 2) (off : Nat) (v : Word) (c : BitVec 12) (k : BitVec 4) (ws : List Word), Booted s →
    ¬ OwnerIs s m → ∀ i ∈ [Instr.controlWindowWrite m off v, .doorbell m c k, .commandSlotWrite m c k ws],
      exec i s = .next { s with drops := s.drops + 1 }) ∧
  (∀ (s : State) (h : BitVec 2) (a : Nat) (ks : KeySt), MapsTo s h a → s.mem.wf = true → s.keyOf (s.hdmTenant (8 * (a / 8))) = some ks →
    GranuleOpen s (8 * (a / 8)) → ∀ at_ : Nat, HostAddr s h a at_ →
    (∀ data : List Byte, a % 8 = 0 → data.length = 8 →
      ∃ u, exec (.cxlMemWrite ⟨h, at_⟩ data) s = .next u ∧ u.rdW (.dev ks) (a / 8) = BitVec.ofNat 64 (ofBytes data) ∧
        u.mem.tag (a / 8) = false ∧ u.mem.bad (a / 8) = false ∧ u.mem.isFull (a / 8) = s.mem.isFull (a / 8) ∧
        u.cores = s.cores ∧ ∀ w, w ≠ a / 8 → u.mem.word w = s.mem.word w ∧ u.mem.tag w = s.mem.tag w) ∧
    (∀ b : Byte, ∃ u, exec (.cxlMemWrite ⟨h, at_⟩ [b]) s = .next u ∧
      u.rdN (.dev ks) a 1 = b.toNat ∧ u.mem.tag (a / 8) = false ∧ u.mem.bad (a / 8) = s.mem.bad (a / 8))) ∧
  (∀ (s : State) (h : BitVec 2) (a at_ : Nat) (ks : KeySt), MapsTo s h a → HostAddr s h a at_ → GranuleOpen s (a / 64 * 64) →
    s.keyOf (s.hdmTenant (a / 64 * 64)) = some ks →
    ∃ r, exec (.cxlMemRead ⟨h, at_⟩) s = .next { s with hostRead := some r } ∧ r.addr = a / 64 * 64 ∧ r.data.length = 64 ∧
      (∀ i, i < 64 → (r.data.getD i 0).toNat = s.rdN (.dev ks) (a / 64 * 64 + i) 1) ∧
      (r.bad = true ↔ ∃ i, i < 8 ∧ s.mem.bad (a / 64 * 8 + i) = true)) ∧
  (∀ (s : State) (h : BitVec 2) (at_ : Nat) (data : List Byte),
    (∀ a, HostAddr s h a at_ → MapsTo s h a → (a % 64 + data.length ≤ 64 ∧ ¬ GranuleOpen s a)) →
    exec (.cxlMemRead ⟨h, at_⟩) s = .next s ∧ exec (.cxlMemWrite ⟨h, at_⟩ data) s = .next s)

/-- What the control window reads as (R419, R420): a part that has not booted shows its boot status alone. -/
def ControlWindowReads : Prop :=
  ∀ (s : State), s.windowRead 0 = s.boot ∧ (∀ off, ¬ Booted s → off ≠ 0 → s.windowRead off = 0) ∧
  (Booted s →
    s.windowRead 0x1000 = s.ownctl ∧ s.windowRead 0x1008 = BitVec.ofNat 64 s.drops ∧
    (s.windowRead 0x30000).getLsbD 63 = s.inval.isSome ∧ s.windowRead 0x31008 = BitVec.ofNat 64 (s.dirtyFrame % 2 ^ (20 : Nat)) ∧
    s.windowRead 0x31010 = BitVec.ofNat 64 s.dirty.length ∧
    (s.dirtyCmd < 4 → (s.windowRead 0x31000).getLsbD 63 = false ∧ (s.windowRead 0x31000).getLsbD 62 = s.dirtyErr ∧
      (s.windowRead 0x31000).toNat % 4 = s.dirtyCmd) ∧
    (∀ i, i < 64 → s.windowRead (0x10000 + 16 * i) = BitVec.ofNat 64 (s.part i).base ∧
      s.windowRead (0x10008 + 16 * i) = BitVec.ofNat 64 (s.part i).len) ∧
    (∀ q p, q < 64 → p < 8192 →
      let e := (s.windowRead (0x400000 + 2 ^ (14 : Nat) * q + p / 4 * 8)).toNat / 2 ^ (16 * (p % 4)) % 2 ^ (16 : Nat)
      ((s.part q).places[p]? = none → e = 0) ∧ ∀ c, (s.part q).places[p]? = some c → e = 2 ^ (15 : Nat) + c.toNat) ∧
    (∀ off, off % 8 = 0 → (0x2000 ≤ off ∧ off < 0x10000) ∨ (0x10400 ≤ off ∧ off < 0x20000) ∨ (0x28000 ≤ off ∧ off < 0x30000) ∨
      (0x32000 ≤ off ∧ off < 0x40000) ∨ (0x50000 ≤ off ∧ off < 0x100000) ∨ (0x210400 ≤ off ∧ off < 0x300000) ∨
      (0x304000 ≤ off ∧ off < 0x400000) ∨ (0x500000 ≤ off ∧ off < 0x4000000) → s.windowRead off = 0))

/-- Waliasal core 0 serves, with no take-over under way (R24, R425). -/
def Serves (s : State) : Prop := Booted s ∧ s.roles[(0 : Fin 2)] ≠ .failed ∧ s.taking = none

/-- The journal's newest record closes a command, which is no longer open (R422). -/
def Closed (t : State) (x : Cmd) (id reason : Nat) (st : JStatus) : Prop :=
  t.journal.head? = some { seq := t.seq - 1, ctx := x.ctx, slot := x.slot, opcode := (x.words.getD 0 0).toNat % 256, id := id, reason := reason, status := st, tag := BitVec.ofNat 32 ((x.words.getD 0 0).toNat / 2 ^ (32 : Nat)), closes := x.seq } ∧
  ∀ y ∈ t.cmds, y.seq ≠ x.seq

/-- A key lies within a root key: by bounds and rights where both are of one kind; a local-store key by its rights and tenant (R421). -/
def KeyInside (r k : KCell) : Prop :=
  r.tag = true ∧ keyShape k = true ∧ k.tenant = r.tenant ∧ k.rights &&& r.rights = k.rights ∧
  ((k.kind = r.kind ∧ r.base ≤ k.base ∧ k.base + k.len ≤ r.base + r.len) ∨ (r.kind = 0 ∧ k.kind = 1))

/-- Every key that a command holds lies within its context's root key. -/
def KeysInside (s : State) (x : Cmd) : Prop :=
  ∀ i, i < 8 →
    let k : KCell := ⟨x.words.getD (16 + 2 * i) 0, x.words.getD (17 + 2 * i) 0, true, .full⟩
    (k.w0 = 0 ∧ k.w1 = 0) ∨ KeyInside (s.ctx x.ctx).root k

/-- One command is open, with an opcode. -/
def OnlyCmd (s : State) (x : Cmd) (op : Nat) : Prop := s.cmds = [x] ∧ (x.words.getD 0 0).toNat % 256 = op

/-- Moreover, the level it names is below 2, and its keys lie within the context's root key. -/
def OneCmd (s : State) (x : Cmd) (op : Nat) : Prop :=
  OnlyCmd s x op ∧ (x.words.getD 0 0).toNat / 2 ^ (8 : Nat) % 4 ≤ 1 ∧ KeysInside s x

/-- A command was refused with no effect but its records. -/
def Refused (s t : State) (x : Cmd) : Prop :=
  (∃ r, Closed t x 0 r .refused) ∧ t.parts = s.parts ∧ t.clusters = s.clusters ∧ t.cores = s.cores ∧ t.mem = s.mem

/-- Slots, doorbells, acceptance and the four commands. -/
def HostCommandsRun : Prop :=
  (∀ (s : State) (m : BitVec 2) (c : BitVec 12) (k : BitVec 4), Booted s → OwnerIs s m → k ≠ 15 →
    (∀ data, k ∉ (s.ctx c).posted → ∃ u w, exec (.commandSlotWrite m c k data) s = .next u ∧
      aget (u.ctx c).slots k = some w ∧ (∀ i, i < 32 → w.getD i 0 = data.getD i 0) ∧ (u.ctx c).posted = (s.ctx c).posted ∧
      ∀ j, j ≠ k → aget (u.ctx c).slots j = aget (s.ctx c).slots j) ∧
    (∀ data old, k ∈ (s.ctx c).posted → aget (s.ctx c).slots k = some old → ∃ u w,
      exec (.commandSlotWrite m c k data) s = .next u ∧ aget (u.ctx c).slots k = some w ∧
      ∀ i, i < 32 → w.getD i 0 = data.getD i 0 ∨ w.getD i 0 = old.getD i 0) ∧
    ((s.ctx c).tdi = .run → k ∉ (s.ctx c).posted → ∃ u, exec (.doorbell m c k) s = .next u ∧
      (u.ctx c).posted = (s.ctx c).posted ++ [k] ∧ u.journal = s.journal) ∧
    ((s.ctx c).tdi ≠ .run ∨ k ∈ (s.ctx c).posted → exec (.doorbell m c k) s = .next s)) ∧
  (∀ (s : State) (c : BitVec 12) (k : BitVec 4) (ws : List Word), Serves s → k ∈ (s.ctx c).posted →
    aget (s.ctx c).slots k = some ws → s.cmds = [] →
    let op := (ws.getD 0 0).toNat % 256
    let tag : BitVec 32 := BitVec.ofNat 32 ((ws.getD 0 0).toNat / 2 ^ (32 : Nat))
    (1 ≤ op → op ≤ 4 → ∃ u y, exec (.commandAcceptance c k) s = .next u ∧ u.cmds = [y] ∧ y.words = ws ∧ y.seq = s.seq ∧
      y.ctx = c ∧ y.slot = k ∧ y.held = false ∧ y.rest = none ∧ k ∉ (u.ctx c).posted ∧
      (u.ctx c).status = BitVec.ofNat 64 s.seq ∧ u.seq = s.seq + 1 ∧
      u.journal = (⟨s.seq, c, k, op, 0, 0, .accepted, tag, 0⟩ :: s.journal).take 2048) ∧
    (op = 0 ∨ 4 < op → ∃ u r, exec (.commandAcceptance c k) s = .next u ∧ u.cmds = [] ∧ u.seq = s.seq + 2 ∧
      u.journal = (⟨s.seq + 1, c, k, op, 0, r, .refused, tag, s.seq⟩ ::
        ((⟨s.seq, c, k, op, 0, 0, .accepted, tag, 0⟩ :: s.journal).take 2048)).take 2048)) ∧
  (∀ (s : State) (x : Cmd) (i : Nat), Serves s → s.cmds = [x] → (x.words.getD 0 0).toNat % 256 = 1 → x.rest = none →
    let none3 : LoadImages := ⟨[], [], []⟩
    let l0 := s.cmdLaunch { x with images := none3 }
    let g : EntryId := ⟨(s.ctx x.ctx).part, .graph, (x.words.getD 4 0).toNat⟩
    (x.held = false → ∀ r, s.launchRefusal { x with images := none3 } = some r →
      ∃ t, exec (.launchCommand x.seq none3) s = .next t ∧ Refused s t x) ∧
    (x.held = false → 1 < (x.words.getD 0 0).toNat / 2 ^ (8 : Nat) % 4 →
      ∃ t, exec (.launchCommand x.seq none3) s = .next t ∧ Refused s t x) ∧
    (x.held = false → s.launchRefusal { x with images := none3 } = none → s.freeLaunch g.part = none →
      ∃ t, exec (.launchCommand x.seq none3) s = .next t ∧ (∃ y, t.cmds = [y] ∧ y.held = true ∧ y.seq = x.seq) ∧
        t.journal = s.journal ∧ t.parts = s.parts ∧ exec .heldLaunch t = .next t) ∧
    (s.launchRefusal { x with images := none3 } = none → s.freeLaunch g.part = some i → s.cancelled 4 g = false → l0.n ≠ 0 →
      (∀ cl, (s.cluster cl).pending.length + l0.places ≤ 256) →
      ∀ j, (j = .launchCommand x.seq none3 ∧ x.held = false) ∨ (j = .heldLaunch ∧ x.held = true ∧ x.images = none3) →
      let gen := (s.lv ⟨g.part, .launch, i⟩).gen + 1
      let l := { l0 with id := BitVec.ofNat 16 (gen.toNat * 4096 + i) }
      ∃ t, exec j s = .next t ∧ Closed t x l.id.toNat 0 .complete ∧
        t.lv ⟨g.part, .launch, i⟩ = ⟨.sealed, false, gen, (s.ctx x.ctx).tenant, g.idx, l.n, some x.seq⟩ ∧
        t.lv g = { s.lv g with count := (s.lv g).count + 1 } ∧
        ∀ rel, rel < l.places → l.countAt rel ≠ 0 → ⟨l, rel, 0⟩ ∈ (t.cluster (clusterOf (s.launchCore l rel))).pending)) ∧
  (∀ (s : State) (x : Cmd), Serves s →
    let e := s.cmdEntry x
    let w := (x.words.getD 10 0).toNat
    let mine : Prop := (s.lv e).tenant = (s.ctx x.ctx).tenant
    e.idx < e.lvl.size →
    (OneCmd s x 2 → mine →
      (((s.lv e).st = .opened ∨ (s.lv e).st = .sealed) → ∃ t, exec (.cancelCommand x.seq) s = .next t ∧
        Closed t x e.idx 0 .complete ∧ (t.lv e).canc = true ∧ (t.lv e).st ≠ .opened) ∧
      (((s.lv e).st = .free ∨ (s.lv e).st = .done) → ∃ t, exec (.cancelCommand x.seq) s = .next t ∧
        Closed t x e.idx 0 .complete ∧ t.parts = s.parts ∧ t.cores = s.cores)) ∧
    (OneCmd s x 2 → ¬ mine → ((s.lv e).st = .opened ∨ (s.lv e).st = .sealed) →
      ∃ t, exec (.cancelCommand x.seq) s = .next t ∧ Refused s t x) ∧
    (∀ op j, (op = 2 ∧ j = .cancelCommand x.seq) ∨ (op = 3 ∧ j = .levelCommand x.seq) ∨ (op = 4 ∧ j = .queryCommand x.seq) →
      OnlyCmd s x op → 1 < (x.words.getD 0 0).toNat / 2 ^ (8 : Nat) % 4 ∨ ¬ KeysInside s x → ∃ t, exec j s = .next t ∧ Refused s t x) ∧
    (OneCmd s x 3 →
      (w % 8 = 0 → ∃ t, exec (.levelCommand x.seq) s = .next t ∧ Closed t x e.idx 0 .complete ∧ t.parts = s.parts) ∧
      (w % 8 = 1 → e.lvl = .job → (s.lv e).st = .free ∨ (s.lv e).st = .done → ∃ t, exec (.levelCommand x.seq) s = .next t ∧
        Closed t x e.idx 0 .complete ∧ t.lv e = { s.lv e with st := .opened, canc := false, tenant := BitVec.ofNat 9 (w / 2 ^ (32 : Nat)), parent := 0, count := 1, stamp := some x.seq }) ∧
      (w % 8 = 2 → (s.lv e).st = .opened → 2 ≤ (s.lv e).count → ∃ t, exec (.levelCommand x.seq) s = .next t ∧
        Closed t x e.idx 0 .complete ∧ t.lv e = { s.lv e with st := .sealed, count := (s.lv e).count - 1 }) ∧
      (w % 8 = 3 → (s.lv e).st = .done → ∃ t, exec (.levelCommand x.seq) s = .next t ∧
        Closed t x e.idx 0 .complete ∧ t.lv e = { s.lv e with st := .free }) ∧
      (4 ≤ w % 8 ∨ (w % 8 = 2 ∧ (s.lv e).st ≠ .opened) ∨ (w % 8 = 3 ∧ (s.lv e).st ≠ .done) →
        ∃ t, exec (.levelCommand x.seq) s = .next t ∧ Refused s t x)) ∧
    (OneCmd s x 4 → ∃ t, exec (.queryCommand x.seq) s = .next t ∧ Closed t x 0 0 .complete ∧ t.parts = s.parts ∧
      t.cores = s.cores ∧ t.mem = s.mem))

end Sys2Proof.Claims

/-- The host's commands and its control window (R93, R174, R401, R417, R419 to R424): tables and commands of BAR 0, host
accesses to device memory, slots and doorbells of BAR 2, and every command from its acceptance to the record that closes it. Where the
manual leaves room it rests on the model's choices (log entries 26, 27, 28, 35, 78, 79). -/
def Obligations.HostWindowsAndCommandsAct : Prop :=
  Sys2Proof.Claims.ControlWindowActs ∧ Sys2Proof.Claims.ControlWindowReads ∧ Sys2Proof.Claims.HostCommandsRun

namespace Sys2Proof.Claims

/-- Reports and notices wait: core 0 of Waliasal has failed, or core 2 has still to work off what it left (R425). -/
def Owes (s : State) : Prop := s.roles[(0 : Fin 2)] = .failed ∨ s.taking.isSome = true

/-- Owners and links (R424); an accepted offer sends notice 2, with the SEQ of its record, or it is owed (R423, R425). -/
def OwnersAreElected : Prop :=
  (∀ (s : State) (m : BitVec 2), Booted s →
    (¬ Elected s ∨ m = 3 → ∃ u, exec (.ownctlClaim m) s = .next u ∧ OwnerIs u m ∧ u.ownctl.getLsbD 3 = false ∧
      u.ownctl.toNat / 2 ^ (4 : Nat) % 4 = s.ownctl.toNat / 2 ^ (4 : Nat) % 4 ∧ u.mem = s.mem ∧ u.notices = s.notices) ∧
    (Elected s → m ≠ 3 → exec (.ownctlClaim m) s = .next s)) ∧
  (∀ (s : State) (m dest : BitVec 2), Booted s →
    (OwnerIs s m → ∃ u, exec (.ownctlOffer m dest) s = .next u ∧ OwnerIs u m ∧
      u.ownctl.toNat / 2 ^ (4 : Nat) % 4 = dest.toNat ∧ (u.ownctl.getLsbD 3 = true ↔ dest ≠ m)) ∧
    (¬ OwnerIs s m → exec (.ownctlOffer m dest) s = .next s)) ∧
  (∀ (s : State) (m : BitVec 2), Booted s →
    (s.ownctl.getLsbD 3 = true → s.ownctl.toNat / 2 ^ (4 : Nat) % 4 = m.toNat → ∃ u, exec (.ownctlAccept m) s = .next u ∧
      OwnerIs u m ∧ u.ownctl.getLsbD 3 = false ∧
      (¬ Owes s → u.notices = (2, s.seq) :: s.notices ∧ u.owed = s.owed ∧
        ∃ r, u.journal.head? = some r ∧ r.seq = s.seq ∧ r.reason = 2) ∧
      (Owes s → u.notices = s.notices ∧ u.journal = s.journal ∧ u.owed = s.owed ++ [.notice 2])) ∧
    (s.ownctl.getLsbD 3 = false ∨ s.ownctl.toNat / 2 ^ (4 : Nat) % 4 ≠ m.toNat → exec (.ownctlAccept m) s = .next s)) ∧
  (∀ (s : State) (m : BitVec 2),
    (∃ u, exec (.hostLinkDown m) s = .next u ∧ m ∈ u.down ∧ u.ownctl = s.ownctl ∧ ∀ j, j ≠ m → (j ∈ u.down ↔ j ∈ s.down)) ∧
    (∃ u, exec (.hostLinkUp m) s = .next u ∧ m ∉ u.down ∧ u.ownctl = s.ownctl ∧ ∀ j, j ≠ m → (j ∈ u.down ↔ j ∈ s.down)) ∧
    (OwnerIs s m → m ∈ s.down → ∃ u, exec .ownerLinkTimeout s = .next u ∧ ¬ Elected u ∧ u.mem = s.mem) ∧
    (OwnerIs s m → m ∉ s.down → exec .ownerLinkTimeout s = .next s))

/-- The standby (R425). A heartbeat clears the sender's count and adds one to the other's. -/
def StandbyTakesOver : Prop :=
  ∀ (s : State) (w : BitVec 1),
  let i : Fin 2 := w.toFin
  let o : Fin 2 := (1 - w).toFin
  (s.roles[i] ≠ .failed → ∃ u, exec (.heartbeat w) s = .next u ∧ u.beats[i] = 0 ∧ u.beats[o] = s.beats[o] + 1 ∧
    u.roles = s.roles) ∧
  (s.roles[i] = .failed → exec (.heartbeat w) s = .next s) ∧
  (s.standby = true → s.taking = none → (s.roles[i] = .failed ∨ (s.roles[i] = .active ∧ 2 ≤ s.beats[i])) →
    ∃ u, exec (.takeOver w) s = .next u ∧ u.roles[i] = .standby ∧ u.roles[o] = s.roles[o] ∧ u.standby = false ∧
      u.cores = s.cores ∧ u.clusters = s.clusters ∧ u.mem = s.mem ∧
      (w = 0 → u.taking = some s.seq ∧ u.owed = s.owed ∧ u.journal = s.journal ∧ u.notices = s.notices) ∧
      (w = 1 → u.taking = none ∧ (s.roles[o] ≠ .failed → u.notices = (1, s.seq) :: s.notices ∧ u.owed = s.owed) ∧
        (s.roles[o] = .failed → u.notices = s.notices ∧ u.owed = s.owed ++ [.notice 1]))) ∧
  (s.standby = true → s.roles[i] = .active → s.beats[i] < 2 → ∃ u, exec (.takeOver w) s = .next u ∧ u.roles[i] = .failed ∧
    u.roles[o] = s.roles[o] ∧ u.standby = true ∧ u.notices = s.notices ∧ u.journal = s.journal) ∧
  (s.standby = false → s.roles[i] ≠ .standby → exec (.takeOver w) s = .next s) ∧
  (∀ seq, s.roles[(0 : Fin 2)] = .standby → s.taking = some seq →
    let open_ : Prop := ∃ x ∈ s.cmds, x.seq < seq ∧ x.held = false
    (∀ c k, open_ ∨ (∃ p ∈ s.ctxs, p.2.posted ≠ [] ∧ p.1.toNat < c.toNat) → exec (.commandAcceptance c k) s = .next s) ∧
    (open_ ∨ (∃ p ∈ s.ctxs, p.2.posted ≠ []) → exec (.takeOver 0) s = .next s) ∧
    (¬ open_ → (∀ p ∈ s.ctxs, p.2.posted = []) → s.owed.length < 2047 → ∃ u, exec (.takeOver 0) s = .next u ∧
      u.taking = none ∧ u.owed = [] ∧ u.roles = s.roles ∧ u.seq = s.seq + s.owed.length + 1 ∧ u.cores = s.cores ∧
      u.notices.head? = some (1, s.seq + s.owed.length) ∧
      ∀ n x, s.owed[n]? = some x → ∃ r, u.journal[s.owed.length - n]? = some r ∧ r.seq = s.seq + n ∧
        match x with
        | .job e => r.opcode = 5 ∧ r.id = e.idx
        | .notice code => r.reason = code ∧ (code, s.seq + n) ∈ u.notices))

/-- Interface `c`, and it alone, holds what `y` says. -/
def OnlyCtx (s t : State) (c : BitVec 12) (y : Ctx) : Prop := t.ctx c = y ∧ ∀ j, j ≠ c → t.ctx j = s.ctx j

/-- Interface `c` has entered ERROR (R426): the write is not applied, its doorbells are ignored, the jobs of its tenant are cancelled, and
its tenant's key is drawn anew. -/
def Errs (s t : State) (c : BitVec 12) : Prop :=
  let x := s.ctx c
  (t.ctx c).tdi = .error ∧ (t.ctx c).posted = [] ∧ (t.ctx c).tenant = x.tenant ∧ (t.ctx c).root = x.root ∧ (t.ctx c).items = x.items ∧
  t.hdm = s.hdm ∧ t.cfg = s.cfg ∧ t.hdmBase = s.hdmBase ∧ (∃ tn g, t.keyNew = some (tn, some g)) ∧
  ∀ i, i < 16 → (s.lv ⟨x.part, .job, i⟩).tenant = x.tenant →
    (s.lv ⟨x.part, .job, i⟩).st = .opened ∨ (s.lv ⟨x.part, .job, i⟩).st = .sealed →
    (t.lv ⟨x.part, .job, i⟩).st ≠ .opened ∧ (t.lv ⟨x.part, .job, i⟩).canc = true

/-- Interface `c` alone has, and with notice 3. -/
def AloneErrs (s t : State) (c : BitVec 12) : Prop :=
  Errs s t c ∧ (∃ g, t.keyNew = some ((s.ctx c).tenant, some g)) ∧ (∀ j, j ≠ c → t.ctx j = s.ctx j) ∧
  (¬ Owes s → ∃ q r, t.notices = (3, q) :: (4, r) :: s.notices)

/-- A configuration item of an interface that locking freezes: tenant binding, root key, IDE stream, MSI-X entries. Their numbers are the
model's own. -/
def FrozenItem (item : Nat) : Prop := item = 4 ∨ item = 5 ∨ item = 6 ∨ item = 8 ∨ (0x100 ≤ item ∧ item < 0x900)

/-- Interfaces (R426), of a part that has booted. Items 0 to 3 are the BAR bases and enables of the function, those from 0x10000 on the
granules of the HDM window table, and those from 0x20000 on the decoders of the heads. -/
def InterfacesLockAndRun : Prop :=
  ∀ (s : State) (c : BitVec 12), Booted s → (s.ctxs.map fun p => p.1).Nodup →
  let x := s.ctx c
  let locked (d : BitVec 12) : Prop := (s.ctx d).tdi = .locked ∨ (s.ctx d).tdi = .run
  (s.krcmd.getLsbD 63 = true → s.keyNew.isSome = true) →
  (x.tdi = .unlocked → ∃ t, exec (.lockInterfaceRequest c) s = .next t ∧ OnlyCtx s t c { x with tdi := .locked }) ∧
  (x.tdi ≠ .unlocked → exec (.lockInterfaceRequest c) s = .next s) ∧
  (x.tdi = .locked → ∃ t, exec (.startInterfaceRequest c) s = .next t ∧ OnlyCtx s t c { x with tdi := .run }) ∧
  (x.tdi ≠ .locked → exec (.startInterfaceRequest c) s = .next s) ∧
  (∃ t, exec (.stopInterfaceRequest c) s = .next t ∧ OnlyCtx s t c { x with tdi := .unlocked, posted := [] }) ∧
  (locked c →
    (∃ t r, exec (.getDeviceInterfaceReport c) s = .next t ∧ OnlyCtx s t c { x with report := some r } ∧ r.range = 4096 * c.toNat ∧
      r.tenant = x.tenant ∧ r.part = x.part ∧ r.stpass = (List.range 8).map fun d => (s.die (BitVec.ofNat 3 d)).stpass) ∧
    (∃ t, exec (.frozenItemWrite c) s = .next t ∧ AloneErrs s t c) ∧
    (∀ item v, FrozenItem item → ∃ t, exec (.configWrite c item v) s = .next t ∧ AloneErrs s t c)) ∧
  (x.tdi = .unlocked ∨ x.tdi = .error → exec (.frozenItemWrite c) s = .next s) ∧
  (x.tdi = .error → ∀ item v, FrozenItem item → exec (.configWrite c item v) s = .next s) ∧
  (∀ v : Word, x.tdi = .unlocked →
    (∃ t, exec (.configWrite c 4 v) s = .next t ∧ OnlyCtx s t c { x with tenant := v.setWidth 9 }) ∧
    (∃ t, exec (.configWrite c 5 v) s = .next t ∧ OnlyCtx s t c { x with root := { x.root with w0 := v, tag := true } }) ∧
    (∃ t, exec (.configWrite c 6 v) s = .next t ∧ OnlyCtx s t c { x with root := { x.root with w1 := v, tag := true } }) ∧
    (∀ item, item = 8 ∨ (0x100 ≤ item ∧ item < 0x900) → ∃ t, exec (.configWrite c item v) s = .next t ∧
      aget (t.ctx c).items item = some v)) ∧
  (∀ v : Word, ∃ t, exec (.configWrite c 7 v) s = .next t ∧ OnlyCtx s t c { x with part := v.toNat % 64 }) ∧
  (∀ (item : Nat) (v : Word), item < 4 →
    ((∃ d, locked d) → ∃ t, exec (.configWrite c item v) s = .next t ∧ ∀ d, (locked d → Errs s t d) ∧ (¬ locked d → t.ctx d = s.ctx d)) ∧
    ((∀ d, ¬ locked d) → ∃ t, exec (.configWrite c item v) s = .next t ∧ aget t.cfg item = some v ∧ ∀ d, t.ctx d = s.ctx d)) ∧
  (∀ (g : Nat) (v : Word), g < 1152 →
    let bound (d : BitVec 12) : Prop := locked d ∧ ((s.ctx d).tenant = agetD s.hdm g 0 ∨ (s.ctx d).tenant = v.setWidth 9)
    ((∃ d, bound d) → ∃ t, exec (.configWrite c (0x10000 + g) v) s = .next t ∧
      ∀ d, (bound d → Errs s t d) ∧ (¬ bound d → t.ctx d = s.ctx d)) ∧
    ((∀ d, ¬ bound d) → ∃ t, exec (.configWrite c (0x10000 + g) v) s = .next t ∧ aget t.hdm g = some (v.setWidth 9) ∧
      ∀ d, t.ctx d = s.ctx d)) ∧
  (∀ (h : Fin 3) (v : Word), exec (.configWrite c (0x20000 + h.val) v) s = .next { s with hdmBase := s.hdmBase.set h v.toNat })

/-- A part that has not booted shows its boot status alone (R428). -/
def DarkPartsAnswerNothing : Prop :=
  ∀ (s : State) (c : BitVec 12) (m dest : BitVec 2) (k : BitVec 4) (off a item n : Nat) (v : Word) (ws : List Word) (l : List Byte)
    (g : BitVec 7) (b : FabricBody), ¬ Booted s →
  ∀ i ∈ [Instr.lockInterfaceRequest c, .startInterfaceRequest c, .stopInterfaceRequest c, .getDeviceInterfaceReport c,
      .frozenItemWrite c, .configWrite c item v, .gildozaFlit g n b, .ownctlClaim m, .ownctlOffer m dest, .ownctlAccept m,
      .controlWindowWrite m off v, .commandSlotWrite m c k ws, .doorbell m c k, .commandAcceptance c k, .cxlMemRead ⟨m, a⟩, .cxlMemWrite ⟨m, a⟩ l],
    exec i s = .next s

/-- Gildoza, power and reset (R363, R413, R427 to R429). -/
def FabricPowerAndReset : Prop :=
  (∀ (s : State) (p : BitVec 7) (n : Nat), exec (.gildozaFlit p n .corrupt) s = .next s) ∧
  (∀ (s : State) (p : BitVec 7) (n : Nat) (q : Req) (ws : List Word), Booted s → s.reqs = [q] → q.stage = .fabric → q.relaxed = false →
    let ends (how : FarEnd) (r : Req) : Prop := ∃ t, exec (.gildozaFlit p n (.reply q.id ws how)) s = .next t ∧ t.reqs = [r]
    let trapped (c : Nat) (x y : Word) : Req := { q with stage := .reply, reply := some (.trap c x y), inj := s.serial }
    (∀ b sx, q.op = .ld b sx → (∀ e ∈ (s.core q.core).arrayq, e.uid = q.uid → e.op ≠ .mswap) → ∃ w : Word,
      ends .ok { q with stage := .reply, reply := some (.words [w] false), inj := s.serial } ∧
      w = if sx then (BitVec.ofNat (8 * b) (ws.headD 0).toNat).signExtend 64
          else (BitVec.ofNat (8 * b) (ws.headD 0).toNat).setWidth 64) ∧
    ends .refused (trapped 0x05 (kinfo 5 (some q.key) 0 0).info (BitVec.ofNat 64 q.va)) ∧
    ends .quota (trapped 0x17 (q.tenant.setWidth 64) (BitVec.ofNat 64 q.va)) ∧
    ends .poison (trapped 0x14 0 (BitVec.ofNat 64 q.va)) ∧
    (q.retry < 255 → ends .full { q with
      stage := .backoff ((s.core q.core).cycle + 32 * 2 ^ min q.retry 5), retry := q.retry + 1 })) ∧
  (∀ (s : State) (p : BitVec 7) (n src num a : Nat) (tn : BitVec 9) (o : FarOp), Booted s →
    ∃ t r, exec (.gildozaFlit p n (.access src num tn a o)) s = .next t ∧ t.reqs = s.reqs ++ [r] ∧ t.mem = s.mem ∧ t.cores = s.cores ∧
      r.far = some (p, src, num) ∧ r.stage = .port ∧ r.dev = true ∧ r.tenant = tn ∧ r.va = a ∧ r.id = s.serial ∧
      (∀ b, o = .ld b → r.op = .ld b false ∧ r.size = b) ∧ (∀ b v, o = .st b v → r.op = .st b v ∧ r.size = b) ∧
      (∀ f b x y, o = .amo f b x y → r.op = .amo f b x y ∧ r.size = b) ∧ (∀ m, o = .lds m → r.op = .lds m ∧ r.size = 8) ∧
      (∀ m v, o = .sts m v → r.op = .sts m v ∧ r.size = 8)) ∧
  (∀ (s : State) (r : Req) (p : BitVec 7) (src num : Nat) (rep : Reply), s.reqs = [r] → r.far = some (p, src, num) → r.stage = .reply →
    r.reply = some rep → r.upd = none → r.dst = .tok → r.gate = false →
    exec (.accessReply r.id) s = .next { s with reqs := [], fabricOut := .answer src num rep :: s.fabricOut }) ∧
  (∀ (s : State) (p : BitVec 7) (n g k op el : Nat) (l : List Byte) (x : Group), aget s.groups g = some x →
    (Booted s → k < x.members.length → k ≠ x.rank → ∃ t y, exec (.gildozaFlit p n (.contribution g k op el l)) s = .next t ∧
      aget t.groups g = some y ∧ aget y.got k = some ⟨op, el, l⟩ ∧ y.members = x.members ∧ y.rank = x.rank ∧
      ∀ j, j ≠ k → aget y.got j = aget x.got j) ∧
    (x.members.length ≤ k ∨ k = x.rank → exec (.gildozaFlit p n (.contribution g k op el l)) s = .next s)) ∧
  (∀ (s : State) (p : BitVec 7) (n a : Nat) (t : BitVec 9) (w : Word) (lf : Leaf) (ks : KeySt), Booted s → s.mem.wf = true →
    s.translate t none false (a / 8 * 8) true false = .ok lf → s.keyOf t = some ks →
    ∃ u, exec (.gildozaFlit p n (.write t a w)) s = .next u ∧ u.rdW (.dev ks) (lf.pa / 8) = w ∧
      u.mem.tag (lf.pa / 8) = false ∧ ∀ j, j ≠ lf.pa / 8 → u.mem.word j = s.mem.word j) ∧
  (∀ (s : State) (l : List Word),
    (∃ t, exec (.powerOn true l) s = .next t ∧ t.boot = 1 ∧ t.off = false ∧ t.mem = State.reset.mem ∧ t.cores = [] ∧ t.parts = [] ∧
      t.journal = [] ∧ t.seq = 1 ∧ t.keyring = [] ∧ t.ownctl = 0 ∧ t.disabled = s.disabled ∧
      ∀ d : BitVec 3, (t.die d).stpass = l.getD d.toNat 0) ∧
    (∃ t, exec (.powerOn false l) s = .next t ∧ t.boot.toNat / 2 ^ (7 : Nat) = 1 ∧ t.mem = State.reset.mem ∧ t.cores = []) ∧
    (∃ t, exec (.warmReset l) s = .next t ∧ t.mem = s.mem ∧ t.keyring = s.keyring ∧ t.journal = s.journal ∧ t.seq = s.seq ∧
      t.boot = s.boot ∧ t.off = s.off ∧ t.cores = [] ∧ t.parts = [] ∧ t.ownctl = 0 ∧
      ∀ d : BitVec 3, (t.die d).stpass = l.getD d.toNat 0)) ∧
  (∀ (s : State) (d : BitVec 3), (s.off = false → ∃ t r, exec (.dieOvertemperature d) s = .next t ∧ t.off = true ∧
      t.journal.head? = some r ∧ r.seq = s.seq ∧ t.mem = s.mem) ∧
    (s.off = true → exec (.dieOvertemperature d) s = .next s))

end Sys2Proof.Claims

/-- Owners, the standby, interfaces, the fabric, power (R363, R413, R423 to R429). Which numbers the frozen items have, what a
warm reset keeps and how an overtemperature is recorded are the model's choices (log entries 29, 30, 31, 33). -/
def Obligations.OwnersInterfacesAndPower : Prop :=
  Sys2Proof.Claims.OwnersAreElected ∧ Sys2Proof.Claims.StandbyTakesOver ∧ Sys2Proof.Claims.InterfacesLockAndRun ∧
    Sys2Proof.Claims.DarkPartsAnswerNothing ∧ Sys2Proof.Claims.FabricPowerAndReset

namespace Sys2Proof.Claims

/-! ## Coupled pairs, soft errors, the shadow handler -/

/-- Status of `PAIR` (R412). -/
def pairWord (agreed : BitVec 32) (result state : Nat) : Word :=
  BitVec.ofNat 64 (agreed.toNat * 2 ^ (32 : Nat) + result * 2 ^ (8 : Nat) + state)

/-- A pair of cores may be coupled from here (R412): both enabled, in the issuer's partition, idle, neither the issuer's own,
and the second in no place table. -/
structure MayCouple (s : State) (i : BitVec 12) : Prop where
  enabled : BitVec.ofNat 13 (2 * i.toNat) ∉ s.disabled ∧ BitVec.ofNat 13 (2 * i.toNat + 1) ∉ s.disabled
  here : ∃ p, s.partOf s.cur.core = some p ∧ s.partOf (BitVec.ofNat 13 (2 * i.toNat)) = some p ∧
    s.partOf (BitVec.ofNat 13 (2 * i.toNat + 1)) = some p
  single : ∀ q ∈ s.parts, BitVec.ofNat 13 (2 * i.toNat + 1) ∉ q.2.places
  idle : s.occupied (BitVec.ofNat 13 (2 * i.toNat)) = false ∧ s.occupied (BitVec.ofNat 13 (2 * i.toNat + 1)) = false
  other : s.cur.core.toNat / 2 ≠ i.toNat

/-- `PAIR` and the checkpoints of a pair (R410 to R412). -/
def PairsCoupleAndAgree : Prop :=
  (∀ (s : State) (d : SReg) (a : Src), Ready s [sN d, a.need] → s.th.level ≠ .user →
    let w := val s a
    let i : BitVec 12 := w.setWidth 12
    (∃ t, exec (.pair d a) s = .next t ∧ SetOut s t (.pair 0 w) (.s d)) ∧
    (∃ t, exec (.pairOff d a) s = .next t ∧ SetOut s t (.pair 1 w) (.s d)) ∧
    (∃ t, exec (.pairSt d a) s = .next t ∧ SetOut s t (.pair 2 w) (.s d)) ∧
    (Quiet s →
      (w.toNat < 2 ^ (12 : Nat) → MayCouple s i → ∃ t p, AtHome s (.pair d a) t [pairWord 0 0 1] false ∧
        aget t.pairs i = some p ∧ p.agreed = 0 ∧ p.fails = 0 ∧ p.base = (s.core (BitVec.ofNat 13 (2 * i.toNat))).retired) ∧
      (w.toNat < 2 ^ (12 : Nat) → (BitVec.ofNat 13 (2 * i.toNat) ∈ s.disabled ∨ BitVec.ofNat 13 (2 * i.toNat + 1) ∈ s.disabled) →
        ∃ t, AtHome s (.pair d a) t [pairWord 0 2 0] false ∧ t.pairs = []) ∧
      (w.toNat < 2 ^ (12 : Nat) → ∃ t, AtHome s (.pairOff d a) t [pairWord 0 4 0] false ∧ t.pairs = []) ∧
      (w.toNat < 2 ^ (12 : Nat) → ∃ t, AtHome s (.pairSt d a) t [pairWord 0 0 0] false ∧ t.pairs = []) ∧
      (2 ^ (12 : Nat) ≤ w.toNat → ∀ j ∈ [Instr.pair d a, .pairOff d a, .pairSt d a],
        ∃ t, AtHome s j t [pairWord 0 5 0] false ∧ t.pairs = []))) ∧
  (∀ (s : State) (d : SReg) (a : Src) (i : BitVec 12) (p : PairRec), Quiet { s with pairs := [] } → Ready s [sN d, a.need] →
    s.th.level ≠ .user → val s a = i.setWidth 64 → MayCouple s i → s.pairs = [(i, p)] →
    let c : CoreId := BitVec.ofNat 13 (2 * i.toNat)
    let y : CoreId := BitVec.ofNat 13 (2 * i.toNat + 1)
    (s.core c).retired = p.base → s.gatedCount c = 0 →
    (∃ t, AtHome s (.pair d a) t [pairWord p.agreed 4 1] false ∧ t.pairs = s.pairs) ∧
    ∃ t, AtHome s (.pairOff d a) t [pairWord p.agreed 0 0] false ∧ t.pairs = [] ∧ t.core c = s.core c ∧
      t.core y = { s.core c with cycle := (s.core y).cycle }) ∧
  (∀ (s : State) (i : BitVec 12) (p : PairRec), aget s.pairs i = some p →
    let c : CoreId := BitVec.ofNat 13 (2 * i.toNat)
    (p.due = true → s.reqs = [] →
      (∃ t q, exec (.pairCheckpoint i true) s = .next t ∧ aget t.pairs i = some q ∧ q.agreed = p.agreed + 1 ∧ q.fails = 0 ∧
        q.due = false ∧ q.base = (s.core c).retired ∧ t.cores = s.cores ∧ t.mem = s.mem ∧
        (∀ m ∈ t.msgs, ∀ n, m.src = .slot c n → m.gate = false) ∧ (∀ m ∈ t.words, m.src = c → m.gate = false) ∧
        t.msgs.map Msg.id = s.msgs.map Msg.id) ∧
      (p.fails < 2 → s.clusters = [] → ∃ t q, exec (.pairCheckpoint i false) s = .next t ∧ aget t.pairs i = some q ∧
        q.agreed = p.agreed ∧ q.fails = p.fails + 1 ∧ q.due = false ∧
        (∀ m, m ∈ t.msgs ↔ m ∈ s.msgs ∧ ¬ (m.gate = true ∧ ((∃ n, m.src = .slot c n) ∨ ∃ e, m.src = .tide c e))) ∧
        (t.core c).ls = p.snap.1.ls ∧ (t.core c).tiles = p.snap.1.tiles ∧ (t.core c).tracks = p.snap.1.tracks ∧
        (t.core c).cycle = (s.core c).cycle ∧ (t.core c).inbox = (s.core c).inbox ∧ t.mem = s.mem ∧
        ∀ n : SlotId, (p.snap.1.slots[n]).st ≠ .free → (p.snap.1.slots[n]).st ≠ .disabled →
          ∃ w : Word, ((t.core c).slots[n]).th = { (p.snap.1.slots[n]).th with sinfo := w } ∧
            w.toNat % 2 ^ (8 : Nat) = 0x15 ∧ w.toNat / 2 ^ (32 : Nat) = p.agreed.toNat) ∧
      (2 ≤ p.fails → s.clusters = [] → ∃ t, exec (.pairCheckpoint i false) s = .next t ∧
        ∀ n : SlotId, (p.snap.1.slots[n]).st = .ready →
          ((t.core c).slots[n]).st = .parked ∧ ((t.core c).slots[n]).wait = .frozen ∧
          ∃ f ∈ t.freezes, f.cause = 0x15 ∧ f.slot = n ∧ f.pc = (p.snap.1.slots[n]).th.pc)) ∧
    (p.due = false → (s.core c).retired < p.base + 4096 → s.gatedCount c + s.loggedCount c < 512 →
      (∃ n : SlotId, ((s.core c).slots[n]).st = .ready) → (∀ n : SlotId, ((s.core c).slots[n]).st ≠ .draining) → s.reqs = [] →
      ∀ b, exec (.pairCheckpoint i b) s = .next s))

/-- Uncorrectable errors (R148, R414): a line is refetched, a word or a position is poisoned, a full register, of a resident window too,
becomes empty-with-fault with cause 0x14, a word of the inbox likewise once it is received. A lost row with no thread bound to its tile
has a record that stays with the tile, the model's choice (log entry 105). -/
def SoftErrorsAreContained : Prop :=
  ∀ (s : State) (c : CoreId),
  (∀ line, ∃ t, exec (.eccUncorrectableError (.icache c line)) s = .next t ∧ t.mem = s.mem ∧
    ∀ e, e ∈ (t.core c).icache ↔ e ∈ (s.core c).icache ∧ e.1.2 ≠ line / 64 * 64) ∧
  (∀ w, w ≤ paMax / 8 → ∃ t, exec (.eccUncorrectableError (.device w)) s = .next t ∧ t.mem.bad w = true ∧
    (∀ a, t.mem.byte a = s.mem.byte a) ∧ t.cores = s.cores) ∧
  (∀ w, w < 2 ^ (15 : Nat) → ∃ t, exec (.eccUncorrectableError (.local c w)) s = .next t ∧ (t.core c).ls.bad w = true ∧
    (∀ a, (t.core c).ls.byte a = (s.core c).ls.byte a) ∧ t.mem = s.mem) ∧
  (∀ (x : TrackId) (p : BitVec 8), (∃ t, exec (.eccUncorrectableError (.track c x p)) s = .next t ∧
      p.toNat ∈ ((t.core c).track x).bad ∧ ((t.core c).track x).rows = ((s.core c).track x).rows) ∧
    ∀ r, ∃ t, exec (.eccUncorrectableError (.code c x p r)) s = .next t ∧ look ((t.core c).track x).codes p.toNat = some r ∧
      ((t.core c).track x).rows = ((s.core c).track x).rows) ∧
  (∀ n : SlotId, let t0 := ((s.core c).slots[n]).th
    let f : Fill := .fault ⟨t0.uid, t0.pc, 0x14, 0, 0, 0⟩
    ((s.core c).slots[n]).st ≠ .free → ((s.core c).slots[n]).st ≠ .disabled →
    (∀ r : SReg, r ≠ 0 → (t0.s[r.toFin]).f = .full → ∃ t, exec (.eccUncorrectableError (.sreg c n r)) s = .next t ∧
      ((t.core c).slots[n]).th = { t0 with s := t0.s.set r.toFin ⟨0, f⟩ }) ∧
    (∀ r : KReg, (t0.k[r.toFin]).f = .full → ∃ t, exec (.eccUncorrectableError (.kreg c n r)) s = .next t ∧
      ((t.core c).slots[n]).th = { t0 with k := t0.k.set r.toFin ⟨0, 0, false, f⟩ }) ∧
    (∀ r : DReg, (t0.d[r.toFin]).f = .full → ∃ t, exec (.eccUncorrectableError (.dreg c n r)) s = .next t ∧
      ((t.core c).slots[n]).th = { t0 with d := t0.d.set r.toFin { DCell.zero with f := f } }) ∧
    (∀ (tl : TileId) (r : VReg), t0.bound = some tl → ownedBy (s.core c).aown[tl.toFin] t0 = true → t0.rowFaults = [] →
      (∀ j : SlotId, j ≠ n → ((s.core c).slots[j]).st = .free ∧ ((s.core c).slots[j]).th.uid ≠ t0.uid) →
      ∃ t, exec (.eccUncorrectableError (.tileRow c tl r)) s = .next t ∧
        ((t.core c).slots[n]).th = { t0 with rowFaults := [⟨tl, r, ⟨t0.uid, t0.pc, 0x14, 0, 0, 0⟩⟩] }) ∧
    ∀ (w : Fin 8) (r : Fin 16) (q : Vector Cell 16), t0.callers[w.val]? = some q → q[r].f = .full →
      ∃ t, exec (.eccUncorrectableError (.window c n w.val (BitVec.ofFin r))) s = .next t ∧
        ((t.core c).slots[n]).th = { t0 with callers := t0.callers.set w.val (q.set r ⟨0, f⟩) }) ∧
  (∀ (e : Nat) (w : Fin 8) (y : InEntry), (s.core c).inbox.entries[e]? = some y →
    ∃ t, exec (.eccUncorrectableError (.inbox c e (BitVec.ofFin w))) s = .next t ∧
      (t.core c).inbox.entries = (s.core c).inbox.entries.set e { y with bad := y.bad ++ [w.val] }) ∧
  (∀ (tl : TileId) (r : VReg), (∀ n : SlotId, ((s.core c).slots[n]).th.bound ≠ some tl) →
    ∃ t, exec (.eccUncorrectableError (.tileRow c tl r)) s = .next t ∧ t.core c = { s.core c with
      orphans := (s.core c).orphans ++ [⟨((s.core c).aown[tl.toFin]).setWidth 16, ((s.core c).aown[tl.toFin]).extractLsb' 32 9, tl, r⟩] })

/-- The shadow handler (R368, R369, R371, R376, R377): entry at a piece miss, `XLW`, `XRET`; and encoding faults (R40). -/
def ShadowHandlerRuns : Prop :=
  (∀ (s : State) (id : TensorId) (d : Desc) (ver row : Nat), s.pair = none → s.th.shadow = none →
    (s.here.pxvec = 0 → s.pieceMiss s.view id d ver row = .trap (tensorTrap id 0 15)) ∧
    (s.here.pxvec ≠ 0 → (∃ n : SlotId, (s.here.slots[n]).st = .ready ∧ (s.here.slots[n]).th.shadow.isSome = true) →
      s.pieceMiss s.view id d ver row = .park .shadow) ∧
    (s.here.pxvec ≠ 0 → (∀ n : SlotId, (s.here.slots[n]).th.shadow = none) → GoodPC s s.here.pxvec →
      ∃ t h, s.pieceMiss s.view id d ver row = .turn t ∧ t.th.shadow = some h ∧ h.pc = s.th.pc ∧
        t.th.pc = s.here.pxvec.toNat ∧ t.th.level = s.th.level ∧ t.th.fpMask = false ∧ t.th.k[(7 : Fin 8)] = d.key ∧
        t.th.sv 16 = BitVec.ofNat 64 id.toNat ∧ t.th.sv 17 = BitVec.ofNat 64 ver ∧ t.th.sv 18 = BitVec.ofNat 64 row ∧
        t.th.sv 19 = BitVec.ofNat 64 s.th.pc ∧ (∀ q : SReg, 20 ≤ q.toNat → t.th.sv q = 0) ∧
        (∀ q : SReg, q.toNat < 16 → t.th.sv q = s.th.sv q) ∧ (∀ q : Fin 8, q ≠ 7 → t.th.k[q] = s.th.k[q]) ∧ t.mem = s.mem)) ∧
  (∀ (s : State) (k : KReg) (a b : Src), Ready s [kN k, a.need, b.need] →
    (s.th.shadow.isSome = true →
      ((s.th.k[k.toFin]).tag = false → exec (.xlw k a b) s = .next (s.takeTrap (keyTrap 0 k 0 0))) ∧
      ((s.th.k[k.toFin]).tag = true → ∃ t e, exec (.xlw k a b) s = .next t ∧ t.th = (done s).th ∧ e ∈ t.here.pieces ∧
        t.here.ls = s.here.ls ∧ t.mem = s.mem ∧
        e.id = (val s a).setWidth 8 ∧ e.ver.toNat = (val s a).toNat / 2 ^ (16 : Nat) % 2 ^ (32 : Nat) ∧
        e.ord.toNat = (val s a).toNat / 2 ^ (48 : Nat) ∧ e.first = (val s b).toNat / 2 ^ (32 : Nat) ∧ e.rows = (val s b).toNat % 2 ^ (32 : Nat) ∧
        e.key = s.th.k[k.toFin] ∧
        ∀ x ∈ s.here.pieces, (x.id, x.ver, x.ord) ≠ (e.id, e.ver, e.ord) → s.here.pieces.length < 64 → x ∈ t.here.pieces)) ∧
    (s.th.shadow = none → exec (.xlw k a b) s = .next (s.takeTrap ⟨0x02, 3, 0, 0⟩))) ∧
  (∀ (s : State) (h : Shadow), s.pair = none →
    let back : State := s.setTh (leaveShadow s.th)
    (s.th.shadow = some h →
      back.th.shadow = none ∧ back.th.pc = h.pc ∧ back.th.k[(7 : Fin 8)] = h.k7 ∧
      (∀ q : Fin 8, q ≠ 7 → back.th.k[q] = s.th.k[q]) ∧ (∀ q : Fin 16, back.th.s[q.val + 16] = h.s[q]) ∧
      (∀ q : SReg, q.toNat < 16 → back.th.s[q.toFin] = s.th.s[q.toFin]) ∧
      ((s.th.sv 16).getLsbD 63 = false → back.targetSub h.pc = none → exec .xret s = .next (went back h.pc)) ∧
      ((s.th.sv 16).getLsbD 63 = true → ∃ t, exec .xret s = .next t ∧ t.th = (back.takeTrap
        ⟨0x0E, BitVec.ofNat 64 (2 ^ (8 : Nat) + h.id.toNat), BitVec.ofNat 64 h.row, 0⟩).th)) ∧
    (s.th.shadow = none → exec .xret s = .next (s.takeTrap ⟨0x02, 3, 0, 0⟩))) ∧
  (∀ (s : State) (n hd tl sub : Nat), s.pair = none → n < 32 → hd < 32 → tl < 4 → sub < 16 →
    exec (.encodingFault n hd tl sub) s =
      .next (s.takeTrap ⟨0x01, BitVec.ofNat 64 (n * 2 ^ (11 : Nat) + hd * 2 ^ (6 : Nat) + tl * 2 ^ (4 : Nat) + sub),
        (if sub = 10 ∨ sub = 11 then BitVec.ofNat 64 s.th.pc else 0), 0⟩))

end Sys2Proof.Claims

/-- Reliability and the shadow handler (R40, R148, R368, R369, R371, R376, R377, R410 to R412, R414). The addresses that a lost
register reports and the thread that a lost row is recorded for are the model's choices. Where the
manual leaves room it rests on the model's choices (log entries 23, 38, 42, 57, 70, 71). -/
def Obligations.PairsErrorsAndShadowHandler : Prop :=
  Sys2Proof.Claims.PairsCoupleAndAgree ∧ Sys2Proof.Claims.SoftErrorsAreContained ∧ Sys2Proof.Claims.ShadowHandlerRuns

namespace Sys2Proof.Claims

/-! ## Encodings, steps, reset, frames -/

/-- The scalar instructions without memory, each with the registers it names (R121 to R133). -/
def scalarForms (d : SReg) (a b : Src) (m : ShAmt) (imm : Half) (k : BitVec 2) (c : CReg) (pos : BitVec 6) (len : BitVec 7)
    (f : AddF) (h : MulhF) (u : Bool) : List (Instr × List Need) :=
  [(.add f d a b, need2 d a b), (.sub f d a b, need2 d a b), (.addi f d a imm, need1 d a), (.mul d a b, need2 d a b),
   (.mulh h d a b, need2 d a b), (.div u d a b, need2 d a b), (.rem u d a b, need2 d a b), (.and d a b, need2 d a b),
   (.or d a b, need2 d a b), (.xor d a b, need2 d a b), (.andn d a b, need2 d a b), (.shl d a m, [sN d, a.need] ++ m.needs),
   (.shr d a m, [sN d, a.need] ++ m.needs), (.sar d a m, [sN d, a.need] ++ m.needs), (.rotr d a m, [sN d, a.need] ++ m.needs),
   (.min u d a b, need2 d a b), (.max u d a b, need2 d a b), (.sel d a b c, need2 d a b), (.li d imm, [sN d]),
   (.lih k d a imm, need1 d a), (.clz u d a, need1 d a), (.popc d a, need1 d a), (.bfx u d a pos len, need1 d a),
   (.bfi d a b pos len, need2 d a b), (.clmul u d a b, need2 d a b), (.movc d, [sN d])]

/-- Everything but PC, loop counts, scalar and condition registers of the thread that issues is as before: its other registers,
its status and special registers, its slot's neighbours, the core's own registers, every byte, bit and row of storage. -/
structure OnlyScalars (s t : State) : Prop where
  thread : t.th = { s.th with s := t.th.s, c := t.th.c, pc := t.th.pc, line := t.th.line, lc0 := t.th.lc0, lc1 := t.th.lc1, fpMask := false }
  slots  : ∀ n : SlotId, n ≠ s.cur.slot → t.here.slots[n] = s.here.slots[n]
  mine   : t.me = { s.me with th := t.th, refusal := none }
  core   : t.here = { s.here with slots := t.here.slots, retired := s.here.retired + 1 }
  cores  : ∀ c : CoreId, c ≠ s.cur.core → t.core c = s.core c
  bytes  : ∀ a, t.mem.byte a = s.mem.byte a
  bits   : ∀ i, t.mem.isFull i = s.mem.isFull i ∧ t.mem.tag i = s.mem.tag i ∧ t.mem.bad i = s.mem.bad i
  loc    : ∀ c a, (t.core c).ls.byte a = (s.core c).ls.byte a
  parts  : t.parts = s.parts ∧ t.clusters = s.clusters ∧ t.reqs = s.reqs ∧ t.msgs = s.msgs ∧ t.tenants = s.tenants

/-- The thread of slot `n` of core `c` is next: `unit` is the state once the core's units have done their work of this cycle; there
the slot is the one that R70 picks, and the thread's line is at hand. `u` is the state that its bundle meets, `l` the line. -/
structure Issues (s : State) (c : CoreId) (rest : List Move) (n : SlotId) (unit u : State) (l : List Half) : Prop where
  turn  : s.turn = .core c :: rest
  power : s.off = false
  ticked : unit = State.tick exec { s with turn := rest, fresh := s.fresh + 32 } c
  runs  : unit.runs c = true
  slot  : unit.issueSlot c = some n
  stays : unit.suspendNow c n = false
  line  : State.fetch (let v : State := { unit with cur := ⟨c, n, 0, 1⟩, pair := none }
    v.setMe { v.me with last := some v.now, key := v.now }) = .ok (u, l)
  single : aget unit.pairs (State.pairOf c) = none

/-- The cycle ends (R66). -/
def stepEnd (c : CoreId) (o : Out) : Out :=
  match o with
  | .next t => .next (t.endCycle c)
  | o => o

end Sys2Proof.Claims

/-- A step of a core runs the bundle that the line at the PC decodes to (R25 to R32, R70): one instruction runs as `exec` says,
two run as a pair, and a line or head that does not decode raises its encoding fault. Where the
manual leaves room it rests on the model's choices (log entries 2, 17). -/
def Obligations.StepRunsTheDecodedInstruction : Prop :=
  ∀ (s unit u : State) (c : CoreId) (rest : List Move) (n : SlotId) (l : List Half), Issues s c rest n unit u l →
  let base := u.th.pc / 64 * 64
  let idx := u.th.pc / 2 % 32
  let here (w : Nat) : State := { u with cur := ⟨c, n, lineCount l, w⟩, pair := none }
  (∀ i, decodeBundle l base idx = .ok (.one i) → step s = stepEnd c (exec i (here 1))) ∧
  (∀ i j, decodeBundle l base idx = .ok (.two i j) →
    step s = stepEnd c (.next (runPair exec i j (arrayClass (lineHalf l idx)) (here 2)))) ∧
  (∀ f, decodeBundle l base idx = .error f →
    step s = stepEnd c (exec (.encodingFault (lineCount l) f.head f.tail f.sub) (here 1)))

/-- Words written out from the encoding tables (R28, R33, R52 to R59) decode to the instructions they stand for. -/
def Obligations.WrittenWordsDecode : Prop :=
  decodeTableWord 16 0x1400 = some .halt ∧
  decodeTableWord 32 0x20884280 = some (.add .wrap 8 ⟨8, false⟩ ⟨10, false⟩) ∧
  decodeTableWord 32 0x6687424B = some (.fdiv .s (.fixed .rup) 7 ⟨8, false⟩ ⟨9, false⟩) ∧
  decodeTableWord 32 0x58832000 = some (.pair 3 ⟨4, false⟩) ∧
  decodeTableWord 32 0x9A830801 = some (.kinfo .limit 3 ⟨1, false⟩) ∧
  decodeWords 0x8106 [0x2131, 0x0010] = .ok (.ld .b64 false false 6 (.index 1 ⟨4, false⟩ 0x0010)) ∧
  decodeTableWord 32 0xA0834242 = some (.send 3 2 ⟨8, false⟩ ⟨9, false⟩) ∧
  decodeTableWord 32 0xB4830064 = some (.hseek 3 100) ∧
  decodeTableWord 32 0xCE810330 = some (.mma false .tile 1 3 6) ∧
  decodeTableWord 32 0xD0820040 = some (.vadd false 2 ⟨0, false⟩ ⟨1, false⟩) ∧
  decodeTableWord 32 0xF2830880 = some (.ddot false 3 ⟨1, false⟩ ⟨2, false⟩) ∧
  decodeTableWord 32 0xFA802140 = some (.rtbl ⟨4, false⟩ ⟨5, false⟩)

/-- The encoder's words of any well-formed instruction decode to it; and a head with P = 0 and as many tails as it says that
decodes, decodes to a well-formed instruction whose words are these (R28, R33 to R40, R52 to R59). -/
def Obligations.DecodeAndEncodeAgree : Prop :=
  (∀ (i : Instr) (h : Half) (ts : List Half), i.wf = true → encode i = some (h :: ts) →
    decodeWords h ts = .ok i ∧ (unpackHead h).tl.toNat = ts.length ∧ (unpackHead h).p = false) ∧
  (∀ (h : Half) (ts : List Half) (i : Instr), (unpackHead h).p = false → (unpackHead h).tl.toNat = ts.length →
    decodeWords h ts = .ok i → i.wf = true ∧ encode i = some (h :: ts))

/-- Device memory keeps its canonical form through every step: addresses strictly rising, no byte listed that an unlisted
address reads as, full/empty, tag and poison marks and key records in rising order. -/
def Obligations.StepKeepsMemoryCanonical : Prop :=
  ∀ s t : State, s.mem.wf = true → step s = .next t → t.mem.wf = true

/-- After reset (R66, R87 to R89, R146, R173, R189, R260, R268, R313, R371, R391, R404, R405, R407, R415): slots free, counters and
control registers at the values of their maps, rows and tracks zero and full, memory canonical. That memory itself reads zero is the
model's choice (log entries 1 and 4). -/
def Obligations.ResetLeavesTheStatedValues : Prop :=
  ∀ (c : CoreId) (n : SlotId) (t : Fin 4) (r : Fin 32) (x : TrackId) (a : Nat),
  let k := State.reset.core c
  let tr := k.track x
  k.slots[n].st = .free ∧ k.cycle = 0 ∧ k.svec = 0 ∧ k.mvec = 0 ∧ k.pxvec = 0 ∧ k.qown = 0x1000000000 ∧ k.qweight = 0x01010101 ∧
  k.cur = Vector.replicate 4 0 ∧ k.region = 0 ∧ k.rlate = 0 ∧ k.suspb = 0 ∧ k.world = 0 ∧ k.aown[t] = 0 ∧ k.mown = 0 ∧
  k.tiles[t][r] = ⟨0, .full⟩ ∧ k.stat.st = .unloaded ∧ k.shad.st = .unloaded ∧ k.cfgk = 0 ∧ k.cfgn = 0 ∧
  look tr.rows a = none ∧ tr.bad = [] ∧ tr.pos = 0 ∧ tr.tag = 0 ∧ tr.errs = 0 ∧ tr.valid = false ∧ tr.lost = false ∧
  k.ls.byte a = 0 ∧ k.ls.isFull a = true ∧ k.ls.tag a = false ∧ k.ls.bad a = false ∧
  State.reset.krcmd = 0 ∧ State.reset.lvrctl = 0 ∧ State.reset.ownctl = 0 ∧
  State.reset.mem.wf = true ∧ State.reset.mem.byte a = 0 ∧ State.reset.mem.isFull a = true ∧ State.reset.mem.tag a = false ∧
  State.reset.mem.bad a = false

/-- What the scalar instructions without memory leave alone (R121 to R133): every scalar register but the destination, and all
of them where it is `s0` (R38); every condition register, but for a compare the one it names and for `MOVC` to conditions all
eight; and the rest of the machine, but for the PC, the loop counts of R112 and the count of bundles. -/
def Obligations.ScalarInstructionsChangeNothingElse : Prop :=
  ∀ (s : State) (d : SReg) (a b : Src) (m : ShAmt) (imm : Half) (k : BitVec 2) (c : CReg) (pos : BitVec 6) (len : BitVec 7)
    (f : AddF) (h : MulhF) (u : Bool) (r : Rel) (q : BitVec 3),
  (∀ p ∈ scalarForms d a b m imm k c pos len f h u, Ready s p.2 → ∃ t, exec p.1 s = .next t ∧ OnlyScalars s t ∧
    t.th.c = s.th.c ∧ (∀ x : SReg, x ≠ d → t.th.s[x.toFin] = s.th.s[x.toFin]) ∧ (d = 0 → t.th.s = s.th.s)) ∧
  (∀ p ∈ [(Instr.cmp r q a b, [a.need, b.need]), (.cmpi r q a imm, [a.need])], Ready s p.2 → ∃ t, exec p.1 s = .next t ∧
    OnlyScalars s t ∧ t.th.s = s.th.s ∧ ∀ i, i ≠ q.toNat → t.th.c.getLsbD i = s.th.c.getLsbD i) ∧
  (Ready s [a.need] → ∃ t, exec (.movcWr a) s = .next t ∧ OnlyScalars s t ∧ t.th.s = s.th.s)
end

