-- ==== Sys2Proof/Laws/Encoding.lean ====
section
/-! SUPPORT. The words of heads and tails: unpacking what was packed gives it back. -/
namespace Sys2Proof

theorem toNat_flag (b : Bool) : b.toNat < 2 := by cases b <;> decide

theorem bit_ofNat (w n i : Nat) (h : i < w) : (BitVec.ofNat w n).getLsbD i = decide (n / 2 ^ i % 2 = 1) := by
  rw [BitVec.getLsbD_ofNat]; simp only [h, decide_true, Bool.true_and, Nat.testBit_eq_decide_div_mod_eq]

theorem flag_eq (b : Bool) (n : Nat) (h : n = b.toNat) : decide (n = 1) = b := by
  subst h; cases b <;> rfl

theorem field_ofNat (w n s l : Nat) (h : s + l ≤ w) : ((BitVec.ofNat w n).extractLsb' s l).toNat = n / 2 ^ s % 2 ^ l := by
  simp only [BitVec.extractLsb'_toNat, BitVec.toNat_ofNat, Nat.shiftRight_eq_div_pow]
  rw [show w = s + (w - s) by omega, Nat.pow_add, Nat.mod_mul_right_div_self, Nat.mod_mod_of_dvd]
  exact Nat.pow_dvd_pow 2 (by omega)

theorem unpack_packHead (h : HeadW) : unpackHead (packHead h) = h := by
  obtain ⟨op, tl, p, d⟩ := h
  have h1 := op.isLt; have h2 := tl.isLt; have h3 := toNat_flag p; have h4 := d.isLt
  simp only [unpackHead, packHead, HeadW.mk.injEq]
  refine ⟨?_, ?_, ?_, ?_⟩
  · apply BitVec.eq_of_toNat_eq; rw [field_ofNat _ _ _ _ (by omega)]; omega
  · apply BitVec.eq_of_toNat_eq; rw [field_ofNat _ _ _ _ (by omega)]; omega
  · rw [bit_ofNat _ _ _ (by omega)]; exact flag_eq _ _ (by omega)
  · apply BitVec.eq_of_toNat_eq; rw [field_ofNat _ _ _ _ (by omega)]; omega

theorem unpack_packTR (t : TR) : unpackTR (packTR t) = t := by
  obtain ⟨a, b, wa, wb, f⟩ := t
  have h1 := a.isLt; have h2 := b.isLt; have h3 := toNat_flag wa; have h4 := toNat_flag wb; have h5 := f.isLt
  simp only [unpackTR, packTR, TR.mk.injEq]
  refine ⟨?_, ?_, ?_, ?_, ?_⟩
  · apply BitVec.eq_of_toNat_eq; rw [field_ofNat _ _ _ _ (by omega)]; omega
  · apply BitVec.eq_of_toNat_eq; rw [field_ofNat _ _ _ _ (by omega)]; omega
  · rw [bit_ofNat _ _ _ (by omega)]; exact flag_eq _ _ (by omega)
  · rw [bit_ofNat _ _ _ (by omega)]; exact flag_eq _ _ (by omega)
  · apply BitVec.eq_of_toNat_eq; rw [field_ofNat _ _ _ _ (by omega)]; omega

theorem unpack_packTM (t : TM) : unpackTM (packTM t) = t := by
  obtain ⟨x, k, r, wx, z, sx, m⟩ := t
  have h1 := x.isLt; have h2 := k.isLt; have h3 := toNat_flag r; have h4 := toNat_flag wx; have h5 := z.isLt
  have h6 := toNat_flag sx; have h7 := m.isLt
  simp only [unpackTM, packTM, TM.mk.injEq]
  refine ⟨?_, ?_, ?_, ?_, ?_, ?_, ?_⟩
  · apply BitVec.eq_of_toNat_eq; rw [field_ofNat _ _ _ _ (by omega)]; omega
  · apply BitVec.eq_of_toNat_eq; rw [field_ofNat _ _ _ _ (by omega)]; omega
  · rw [bit_ofNat _ _ _ (by omega)]; exact flag_eq _ _ (by omega)
  · rw [bit_ofNat _ _ _ (by omega)]; exact flag_eq _ _ (by omega)
  · apply BitVec.eq_of_toNat_eq; rw [field_ofNat _ _ _ _ (by omega)]; omega
  · rw [bit_ofNat _ _ _ (by omega)]; exact flag_eq _ _ (by omega)
  · apply BitVec.eq_of_toNat_eq; rw [field_ofNat _ _ _ _ (by omega)]; omega

theorem unpack_packTV2 (t : TV2) : unpackTV2 (packTV2 t) = t := by
  obtain ⟨c, wc, s, o, hi, lo⟩ := t
  have h1 := c.isLt; have h2 := toNat_flag wc; have h3 := toNat_flag s; have h4 := o.isLt; have h5 := hi.isLt
  have h6 := lo.isLt
  simp only [unpackTV2, packTV2, TV2.mk.injEq]
  refine ⟨?_, ?_, ?_, ?_, ?_, ?_⟩
  · apply BitVec.eq_of_toNat_eq; rw [field_ofNat _ _ _ _ (by omega)]; omega
  · rw [bit_ofNat _ _ _ (by omega)]; exact flag_eq _ _ (by omega)
  · rw [bit_ofNat _ _ _ (by omega)]; exact flag_eq _ _ (by omega)
  · apply BitVec.eq_of_toNat_eq; rw [field_ofNat _ _ _ _ (by omega)]; omega
  · apply BitVec.eq_of_toNat_eq; rw [field_ofNat _ _ _ _ (by omega)]; omega
  · apply BitVec.eq_of_toNat_eq; rw [field_ofNat _ _ _ _ (by omega)]; omega

theorem unpack_packTX (t : TX) : unpackTX (packTX t) = t := by
  obtain ⟨t, x, f⟩ := t
  have h1 := t.isLt; have h2 := x.isLt; have h3 := f.isLt
  simp only [unpackTX, packTX, TX.mk.injEq]
  refine ⟨?_, ?_, ?_⟩
  all_goals apply BitVec.eq_of_toNat_eq; rw [field_ofNat _ _ _ _ (by omega)]; omega

theorem unpack_packBT (t : BTarget) : unpackBT (packBT t) = t := by
  obtain ⟨d, i⟩ := t
  have h1 := d.isLt; have h2 := i.isLt
  simp only [unpackBT, packBT, BTarget.mk.injEq]
  refine ⟨?_, ?_⟩
  all_goals apply BitVec.eq_of_toNat_eq; rw [field_ofNat _ _ _ _ (by omega)]; omega

/-- The head of an encoded instruction: its major opcode, P = 0, D, and as many tails as stand after it. -/
theorem headOf_head (op : BitVec 7) (d : BitVec 6) (l : List Half) (hl : l.length ≤ 3) (h : Half) (ts : List Half)
    (e : headOf op d l = h :: ts) :
    ts = l ∧ unpackHead h = ⟨op, BitVec.ofNat 2 l.length, false, d⟩ ∧ (unpackHead h).tl.toNat = ts.length := by
  simp only [headOf, List.cons.injEq] at e
  obtain ⟨rfl, rfl⟩ := e
  refine ⟨rfl, unpack_packHead _, ?_⟩
  rw [unpack_packHead, BitVec.toNat_ofNat]
  omega

end Sys2Proof
end

