-- ==== Sys2Proof/Laws/State.lean ====
section
/-! SUPPORT. What an update of the state leaves: one lemma per field and update, true by unfolding the update alone; a
read after a write of the association lists that hold cores, clusters, dies, tenants and partitions; the same for the
thread that issues. -/
namespace Sys2Proof.Machine

/-! ## Association lists -/

theorem aget_aset_same [DecidableEq α] (l : List (α × β)) (k : α) (v : β) : aget (aset l k v) k = some v := by
  induction l with
  | nil => simp [aset, aget]
  | cons p r ih =>
    obtain ⟨k', v'⟩ := p
    by_cases h : k' = k <;> simp [aset, aget, h, ih]

theorem aget_aset_ne [DecidableEq α] (l : List (α × β)) (k j : α) (v : β) (h : j ≠ k) :
    aget (aset l k v) j = aget l j := by
  induction l with
  | nil => simp [aset, aget, Ne.symm h]
  | cons p r ih =>
    obtain ⟨k', v'⟩ := p
    by_cases h1 : k' = k
    · subst h1; simp [aset, aget, Ne.symm h]
    · by_cases h2 : k' = j
      · subst h2; simp [aset, aget, h1]
      · simp [aset, aget, h1, h2, ih]

@[simp] theorem agetD_aset_same [DecidableEq α] (l : List (α × β)) (k : α) (v d : β) :
    agetD (aset l k v) k d = v := by simp [agetD, aget_aset_same]

theorem agetD_aset_ne [DecidableEq α] (l : List (α × β)) (k j : α) (v d : β) (h : j ≠ k) :
    agetD (aset l k v) j d = agetD l j d := by simp [agetD, aget_aset_ne _ _ _ _ h]

namespace State

/-! ## `setCore` -/

@[simp] theorem setCore_cur (s : State) (c : CoreId) (x : Core) : (s.setCore c x).cur = s.cur := rfl
@[simp] theorem setCore_pair (s : State) (c : CoreId) (x : Core) : (s.setCore c x).pair = s.pair := rfl
@[simp] theorem setCore_turn (s : State) (c : CoreId) (x : Core) : (s.setCore c x).turn = s.turn := rfl
@[simp] theorem setCore_fresh (s : State) (c : CoreId) (x : Core) : (s.setCore c x).fresh = s.fresh := rfl
@[simp] theorem setCore_serial (s : State) (c : CoreId) (x : Core) : (s.setCore c x).serial = s.serial := rfl
@[simp] theorem setCore_clusters (s : State) (c : CoreId) (x : Core) : (s.setCore c x).clusters = s.clusters := rfl
@[simp] theorem setCore_copies (s : State) (c : CoreId) (x : Core) : (s.setCore c x).copies = s.copies := rfl
@[simp] theorem setCore_dies (s : State) (c : CoreId) (x : Core) : (s.setCore c x).dies = s.dies := rfl
@[simp] theorem setCore_parts (s : State) (c : CoreId) (x : Core) : (s.setCore c x).parts = s.parts := rfl
@[simp] theorem setCore_mem (s : State) (c : CoreId) (x : Core) : (s.setCore c x).mem = s.mem := rfl
@[simp] theorem setCore_reqs (s : State) (c : CoreId) (x : Core) : (s.setCore c x).reqs = s.reqs := rfl
@[simp] theorem setCore_msgs (s : State) (c : CoreId) (x : Core) : (s.setCore c x).msgs = s.msgs := rfl
@[simp] theorem setCore_drains (s : State) (c : CoreId) (x : Core) : (s.setCore c x).drains = s.drains := rfl
@[simp] theorem setCore_resvs (s : State) (c : CoreId) (x : Core) : (s.setCore c x).resvs = s.resvs := rfl
@[simp] theorem setCore_packets (s : State) (c : CoreId) (x : Core) : (s.setCore c x).packets = s.packets := rfl
@[simp] theorem setCore_tenants (s : State) (c : CoreId) (x : Core) : (s.setCore c x).tenants = s.tenants := rfl
@[simp] theorem setCore_keyring (s : State) (c : CoreId) (x : Core) : (s.setCore c x).keyring = s.keyring := rfl
@[simp] theorem setCore_disabled (s : State) (c : CoreId) (x : Core) : (s.setCore c x).disabled = s.disabled := rfl
@[simp] theorem setCore_pairs (s : State) (c : CoreId) (x : Core) : (s.setCore c x).pairs = s.pairs := rfl
@[simp] theorem setCore_probes (s : State) (c : CoreId) (x : Core) : (s.setCore c x).probes = s.probes := rfl
@[simp] theorem setCore_words (s : State) (c : CoreId) (x : Core) : (s.setCore c x).words = s.words := rfl
@[simp] theorem setCore_releases (s : State) (c : CoreId) (x : Core) : (s.setCore c x).releases = s.releases := rfl
@[simp] theorem setCore_returns (s : State) (c : CoreId) (x : Core) : (s.setCore c x).returns = s.returns := rfl
@[simp] theorem setCore_fabricStores (s : State) (c : CoreId) (x : Core) : (s.setCore c x).fabricStores = s.fabricStores := rfl
@[simp] theorem setCore_journal (s : State) (c : CoreId) (x : Core) : (s.setCore c x).journal = s.journal := rfl
@[simp] theorem setCore_seq (s : State) (c : CoreId) (x : Core) : (s.setCore c x).seq = s.seq := rfl
@[simp] theorem setCore_freezes (s : State) (c : CoreId) (x : Core) : (s.setCore c x).freezes = s.freezes := rfl
@[simp] theorem setCore_dirty (s : State) (c : CoreId) (x : Core) : (s.setCore c x).dirty = s.dirty := rfl
@[simp] theorem setCore_dirtyErr (s : State) (c : CoreId) (x : Core) : (s.setCore c x).dirtyErr = s.dirtyErr := rfl
@[simp] theorem setCore_dirtyCmd (s : State) (c : CoreId) (x : Core) : (s.setCore c x).dirtyCmd = s.dirtyCmd := rfl
@[simp] theorem setCore_dirtyFrame (s : State) (c : CoreId) (x : Core) : (s.setCore c x).dirtyFrame = s.dirtyFrame := rfl
@[simp] theorem setCore_inval (s : State) (c : CoreId) (x : Core) : (s.setCore c x).inval = s.inval := rfl
@[simp] theorem setCore_krcmd (s : State) (c : CoreId) (x : Core) : (s.setCore c x).krcmd = s.krcmd := rfl
@[simp] theorem setCore_keyNew (s : State) (c : CoreId) (x : Core) : (s.setCore c x).keyNew = s.keyNew := rfl
@[simp] theorem setCore_lvrctl (s : State) (c : CoreId) (x : Core) : (s.setCore c x).lvrctl = s.lvrctl := rfl
@[simp] theorem setCore_lvr (s : State) (c : CoreId) (x : Core) : (s.setCore c x).lvr = s.lvr := rfl
@[simp] theorem setCore_groups (s : State) (c : CoreId) (x : Core) : (s.setCore c x).groups = s.groups := rfl
@[simp] theorem setCore_hdm (s : State) (c : CoreId) (x : Core) : (s.setCore c x).hdm = s.hdm := rfl
@[simp] theorem setCore_ctxs (s : State) (c : CoreId) (x : Core) : (s.setCore c x).ctxs = s.ctxs := rfl
@[simp] theorem setCore_cmds (s : State) (c : CoreId) (x : Core) : (s.setCore c x).cmds = s.cmds := rfl
@[simp] theorem setCore_window (s : State) (c : CoreId) (x : Core) : (s.setCore c x).window = s.window := rfl
@[simp] theorem setCore_ownctl (s : State) (c : CoreId) (x : Core) : (s.setCore c x).ownctl = s.ownctl := rfl
@[simp] theorem setCore_drops (s : State) (c : CoreId) (x : Core) : (s.setCore c x).drops = s.drops := rfl
@[simp] theorem setCore_down (s : State) (c : CoreId) (x : Core) : (s.setCore c x).down = s.down := rfl
@[simp] theorem setCore_roles (s : State) (c : CoreId) (x : Core) : (s.setCore c x).roles = s.roles := rfl
@[simp] theorem setCore_beats (s : State) (c : CoreId) (x : Core) : (s.setCore c x).beats = s.beats := rfl
@[simp] theorem setCore_standby (s : State) (c : CoreId) (x : Core) : (s.setCore c x).standby = s.standby := rfl
@[simp] theorem setCore_owed (s : State) (c : CoreId) (x : Core) : (s.setCore c x).owed = s.owed := rfl
@[simp] theorem setCore_taking (s : State) (c : CoreId) (x : Core) : (s.setCore c x).taking = s.taking := rfl
@[simp] theorem setCore_notices (s : State) (c : CoreId) (x : Core) : (s.setCore c x).notices = s.notices := rfl
@[simp] theorem setCore_boot (s : State) (c : CoreId) (x : Core) : (s.setCore c x).boot = s.boot := rfl
@[simp] theorem setCore_off (s : State) (c : CoreId) (x : Core) : (s.setCore c x).off = s.off := rfl
@[simp] theorem setCore_stepping (s : State) (c : CoreId) (x : Core) : (s.setCore c x).stepping = s.stepping := rfl
@[simp] theorem setCore_hostRead (s : State) (c : CoreId) (x : Core) : (s.setCore c x).hostRead = s.hostRead := rfl
@[simp] theorem setCore_hdmBase (s : State) (c : CoreId) (x : Core) : (s.setCore c x).hdmBase = s.hdmBase := rfl
@[simp] theorem setCore_cfg (s : State) (c : CoreId) (x : Core) : (s.setCore c x).cfg = s.cfg := rfl
@[simp] theorem setCore_fabricOut (s : State) (c : CoreId) (x : Core) : (s.setCore c x).fabricOut = s.fabricOut := rfl

/-! ## `setCluster` -/

@[simp] theorem setCluster_cur (s : State) (c : BitVec 9) (x : Cluster) : (s.setCluster c x).cur = s.cur := rfl
@[simp] theorem setCluster_pair (s : State) (c : BitVec 9) (x : Cluster) : (s.setCluster c x).pair = s.pair := rfl
@[simp] theorem setCluster_turn (s : State) (c : BitVec 9) (x : Cluster) : (s.setCluster c x).turn = s.turn := rfl
@[simp] theorem setCluster_fresh (s : State) (c : BitVec 9) (x : Cluster) : (s.setCluster c x).fresh = s.fresh := rfl
@[simp] theorem setCluster_serial (s : State) (c : BitVec 9) (x : Cluster) : (s.setCluster c x).serial = s.serial := rfl
@[simp] theorem setCluster_cores (s : State) (c : BitVec 9) (x : Cluster) : (s.setCluster c x).cores = s.cores := rfl
@[simp] theorem setCluster_copies (s : State) (c : BitVec 9) (x : Cluster) : (s.setCluster c x).copies = s.copies := rfl
@[simp] theorem setCluster_dies (s : State) (c : BitVec 9) (x : Cluster) : (s.setCluster c x).dies = s.dies := rfl
@[simp] theorem setCluster_parts (s : State) (c : BitVec 9) (x : Cluster) : (s.setCluster c x).parts = s.parts := rfl
@[simp] theorem setCluster_mem (s : State) (c : BitVec 9) (x : Cluster) : (s.setCluster c x).mem = s.mem := rfl
@[simp] theorem setCluster_reqs (s : State) (c : BitVec 9) (x : Cluster) : (s.setCluster c x).reqs = s.reqs := rfl
@[simp] theorem setCluster_msgs (s : State) (c : BitVec 9) (x : Cluster) : (s.setCluster c x).msgs = s.msgs := rfl
@[simp] theorem setCluster_drains (s : State) (c : BitVec 9) (x : Cluster) : (s.setCluster c x).drains = s.drains := rfl
@[simp] theorem setCluster_resvs (s : State) (c : BitVec 9) (x : Cluster) : (s.setCluster c x).resvs = s.resvs := rfl
@[simp] theorem setCluster_packets (s : State) (c : BitVec 9) (x : Cluster) : (s.setCluster c x).packets = s.packets := rfl
@[simp] theorem setCluster_tenants (s : State) (c : BitVec 9) (x : Cluster) : (s.setCluster c x).tenants = s.tenants := rfl
@[simp] theorem setCluster_keyring (s : State) (c : BitVec 9) (x : Cluster) : (s.setCluster c x).keyring = s.keyring := rfl
@[simp] theorem setCluster_disabled (s : State) (c : BitVec 9) (x : Cluster) : (s.setCluster c x).disabled = s.disabled := rfl
@[simp] theorem setCluster_pairs (s : State) (c : BitVec 9) (x : Cluster) : (s.setCluster c x).pairs = s.pairs := rfl
@[simp] theorem setCluster_probes (s : State) (c : BitVec 9) (x : Cluster) : (s.setCluster c x).probes = s.probes := rfl
@[simp] theorem setCluster_words (s : State) (c : BitVec 9) (x : Cluster) : (s.setCluster c x).words = s.words := rfl
@[simp] theorem setCluster_releases (s : State) (c : BitVec 9) (x : Cluster) : (s.setCluster c x).releases = s.releases := rfl
@[simp] theorem setCluster_returns (s : State) (c : BitVec 9) (x : Cluster) : (s.setCluster c x).returns = s.returns := rfl
@[simp] theorem setCluster_fabricStores (s : State) (c : BitVec 9) (x : Cluster) : (s.setCluster c x).fabricStores = s.fabricStores := rfl
@[simp] theorem setCluster_journal (s : State) (c : BitVec 9) (x : Cluster) : (s.setCluster c x).journal = s.journal := rfl
@[simp] theorem setCluster_seq (s : State) (c : BitVec 9) (x : Cluster) : (s.setCluster c x).seq = s.seq := rfl
@[simp] theorem setCluster_freezes (s : State) (c : BitVec 9) (x : Cluster) : (s.setCluster c x).freezes = s.freezes := rfl
@[simp] theorem setCluster_dirty (s : State) (c : BitVec 9) (x : Cluster) : (s.setCluster c x).dirty = s.dirty := rfl
@[simp] theorem setCluster_dirtyErr (s : State) (c : BitVec 9) (x : Cluster) : (s.setCluster c x).dirtyErr = s.dirtyErr := rfl
@[simp] theorem setCluster_dirtyCmd (s : State) (c : BitVec 9) (x : Cluster) : (s.setCluster c x).dirtyCmd = s.dirtyCmd := rfl
@[simp] theorem setCluster_dirtyFrame (s : State) (c : BitVec 9) (x : Cluster) : (s.setCluster c x).dirtyFrame = s.dirtyFrame := rfl
@[simp] theorem setCluster_inval (s : State) (c : BitVec 9) (x : Cluster) : (s.setCluster c x).inval = s.inval := rfl
@[simp] theorem setCluster_krcmd (s : State) (c : BitVec 9) (x : Cluster) : (s.setCluster c x).krcmd = s.krcmd := rfl
@[simp] theorem setCluster_keyNew (s : State) (c : BitVec 9) (x : Cluster) : (s.setCluster c x).keyNew = s.keyNew := rfl
@[simp] theorem setCluster_lvrctl (s : State) (c : BitVec 9) (x : Cluster) : (s.setCluster c x).lvrctl = s.lvrctl := rfl
@[simp] theorem setCluster_lvr (s : State) (c : BitVec 9) (x : Cluster) : (s.setCluster c x).lvr = s.lvr := rfl
@[simp] theorem setCluster_groups (s : State) (c : BitVec 9) (x : Cluster) : (s.setCluster c x).groups = s.groups := rfl
@[simp] theorem setCluster_hdm (s : State) (c : BitVec 9) (x : Cluster) : (s.setCluster c x).hdm = s.hdm := rfl
@[simp] theorem setCluster_ctxs (s : State) (c : BitVec 9) (x : Cluster) : (s.setCluster c x).ctxs = s.ctxs := rfl
@[simp] theorem setCluster_cmds (s : State) (c : BitVec 9) (x : Cluster) : (s.setCluster c x).cmds = s.cmds := rfl
@[simp] theorem setCluster_window (s : State) (c : BitVec 9) (x : Cluster) : (s.setCluster c x).window = s.window := rfl
@[simp] theorem setCluster_ownctl (s : State) (c : BitVec 9) (x : Cluster) : (s.setCluster c x).ownctl = s.ownctl := rfl
@[simp] theorem setCluster_drops (s : State) (c : BitVec 9) (x : Cluster) : (s.setCluster c x).drops = s.drops := rfl
@[simp] theorem setCluster_down (s : State) (c : BitVec 9) (x : Cluster) : (s.setCluster c x).down = s.down := rfl
@[simp] theorem setCluster_roles (s : State) (c : BitVec 9) (x : Cluster) : (s.setCluster c x).roles = s.roles := rfl
@[simp] theorem setCluster_beats (s : State) (c : BitVec 9) (x : Cluster) : (s.setCluster c x).beats = s.beats := rfl
@[simp] theorem setCluster_standby (s : State) (c : BitVec 9) (x : Cluster) : (s.setCluster c x).standby = s.standby := rfl
@[simp] theorem setCluster_owed (s : State) (c : BitVec 9) (x : Cluster) : (s.setCluster c x).owed = s.owed := rfl
@[simp] theorem setCluster_taking (s : State) (c : BitVec 9) (x : Cluster) : (s.setCluster c x).taking = s.taking := rfl
@[simp] theorem setCluster_notices (s : State) (c : BitVec 9) (x : Cluster) : (s.setCluster c x).notices = s.notices := rfl
@[simp] theorem setCluster_boot (s : State) (c : BitVec 9) (x : Cluster) : (s.setCluster c x).boot = s.boot := rfl
@[simp] theorem setCluster_off (s : State) (c : BitVec 9) (x : Cluster) : (s.setCluster c x).off = s.off := rfl
@[simp] theorem setCluster_stepping (s : State) (c : BitVec 9) (x : Cluster) : (s.setCluster c x).stepping = s.stepping := rfl
@[simp] theorem setCluster_hostRead (s : State) (c : BitVec 9) (x : Cluster) : (s.setCluster c x).hostRead = s.hostRead := rfl
@[simp] theorem setCluster_hdmBase (s : State) (c : BitVec 9) (x : Cluster) : (s.setCluster c x).hdmBase = s.hdmBase := rfl
@[simp] theorem setCluster_cfg (s : State) (c : BitVec 9) (x : Cluster) : (s.setCluster c x).cfg = s.cfg := rfl
@[simp] theorem setCluster_fabricOut (s : State) (c : BitVec 9) (x : Cluster) : (s.setCluster c x).fabricOut = s.fabricOut := rfl

/-! ## `setDie` -/

@[simp] theorem setDie_cur (s : State) (c : BitVec 3) (x : Die) : (s.setDie c x).cur = s.cur := rfl
@[simp] theorem setDie_pair (s : State) (c : BitVec 3) (x : Die) : (s.setDie c x).pair = s.pair := rfl
@[simp] theorem setDie_turn (s : State) (c : BitVec 3) (x : Die) : (s.setDie c x).turn = s.turn := rfl
@[simp] theorem setDie_fresh (s : State) (c : BitVec 3) (x : Die) : (s.setDie c x).fresh = s.fresh := rfl
@[simp] theorem setDie_serial (s : State) (c : BitVec 3) (x : Die) : (s.setDie c x).serial = s.serial := rfl
@[simp] theorem setDie_cores (s : State) (c : BitVec 3) (x : Die) : (s.setDie c x).cores = s.cores := rfl
@[simp] theorem setDie_clusters (s : State) (c : BitVec 3) (x : Die) : (s.setDie c x).clusters = s.clusters := rfl
@[simp] theorem setDie_copies (s : State) (c : BitVec 3) (x : Die) : (s.setDie c x).copies = s.copies := rfl
@[simp] theorem setDie_parts (s : State) (c : BitVec 3) (x : Die) : (s.setDie c x).parts = s.parts := rfl
@[simp] theorem setDie_mem (s : State) (c : BitVec 3) (x : Die) : (s.setDie c x).mem = s.mem := rfl
@[simp] theorem setDie_reqs (s : State) (c : BitVec 3) (x : Die) : (s.setDie c x).reqs = s.reqs := rfl
@[simp] theorem setDie_msgs (s : State) (c : BitVec 3) (x : Die) : (s.setDie c x).msgs = s.msgs := rfl
@[simp] theorem setDie_drains (s : State) (c : BitVec 3) (x : Die) : (s.setDie c x).drains = s.drains := rfl
@[simp] theorem setDie_resvs (s : State) (c : BitVec 3) (x : Die) : (s.setDie c x).resvs = s.resvs := rfl
@[simp] theorem setDie_packets (s : State) (c : BitVec 3) (x : Die) : (s.setDie c x).packets = s.packets := rfl
@[simp] theorem setDie_tenants (s : State) (c : BitVec 3) (x : Die) : (s.setDie c x).tenants = s.tenants := rfl
@[simp] theorem setDie_keyring (s : State) (c : BitVec 3) (x : Die) : (s.setDie c x).keyring = s.keyring := rfl
@[simp] theorem setDie_disabled (s : State) (c : BitVec 3) (x : Die) : (s.setDie c x).disabled = s.disabled := rfl
@[simp] theorem setDie_pairs (s : State) (c : BitVec 3) (x : Die) : (s.setDie c x).pairs = s.pairs := rfl
@[simp] theorem setDie_probes (s : State) (c : BitVec 3) (x : Die) : (s.setDie c x).probes = s.probes := rfl
@[simp] theorem setDie_words (s : State) (c : BitVec 3) (x : Die) : (s.setDie c x).words = s.words := rfl
@[simp] theorem setDie_releases (s : State) (c : BitVec 3) (x : Die) : (s.setDie c x).releases = s.releases := rfl
@[simp] theorem setDie_returns (s : State) (c : BitVec 3) (x : Die) : (s.setDie c x).returns = s.returns := rfl
@[simp] theorem setDie_fabricStores (s : State) (c : BitVec 3) (x : Die) : (s.setDie c x).fabricStores = s.fabricStores := rfl
@[simp] theorem setDie_journal (s : State) (c : BitVec 3) (x : Die) : (s.setDie c x).journal = s.journal := rfl
@[simp] theorem setDie_seq (s : State) (c : BitVec 3) (x : Die) : (s.setDie c x).seq = s.seq := rfl
@[simp] theorem setDie_freezes (s : State) (c : BitVec 3) (x : Die) : (s.setDie c x).freezes = s.freezes := rfl
@[simp] theorem setDie_dirty (s : State) (c : BitVec 3) (x : Die) : (s.setDie c x).dirty = s.dirty := rfl
@[simp] theorem setDie_dirtyErr (s : State) (c : BitVec 3) (x : Die) : (s.setDie c x).dirtyErr = s.dirtyErr := rfl
@[simp] theorem setDie_dirtyCmd (s : State) (c : BitVec 3) (x : Die) : (s.setDie c x).dirtyCmd = s.dirtyCmd := rfl
@[simp] theorem setDie_dirtyFrame (s : State) (c : BitVec 3) (x : Die) : (s.setDie c x).dirtyFrame = s.dirtyFrame := rfl
@[simp] theorem setDie_inval (s : State) (c : BitVec 3) (x : Die) : (s.setDie c x).inval = s.inval := rfl
@[simp] theorem setDie_krcmd (s : State) (c : BitVec 3) (x : Die) : (s.setDie c x).krcmd = s.krcmd := rfl
@[simp] theorem setDie_keyNew (s : State) (c : BitVec 3) (x : Die) : (s.setDie c x).keyNew = s.keyNew := rfl
@[simp] theorem setDie_lvrctl (s : State) (c : BitVec 3) (x : Die) : (s.setDie c x).lvrctl = s.lvrctl := rfl
@[simp] theorem setDie_lvr (s : State) (c : BitVec 3) (x : Die) : (s.setDie c x).lvr = s.lvr := rfl
@[simp] theorem setDie_groups (s : State) (c : BitVec 3) (x : Die) : (s.setDie c x).groups = s.groups := rfl
@[simp] theorem setDie_hdm (s : State) (c : BitVec 3) (x : Die) : (s.setDie c x).hdm = s.hdm := rfl
@[simp] theorem setDie_ctxs (s : State) (c : BitVec 3) (x : Die) : (s.setDie c x).ctxs = s.ctxs := rfl
@[simp] theorem setDie_cmds (s : State) (c : BitVec 3) (x : Die) : (s.setDie c x).cmds = s.cmds := rfl
@[simp] theorem setDie_window (s : State) (c : BitVec 3) (x : Die) : (s.setDie c x).window = s.window := rfl
@[simp] theorem setDie_ownctl (s : State) (c : BitVec 3) (x : Die) : (s.setDie c x).ownctl = s.ownctl := rfl
@[simp] theorem setDie_drops (s : State) (c : BitVec 3) (x : Die) : (s.setDie c x).drops = s.drops := rfl
@[simp] theorem setDie_down (s : State) (c : BitVec 3) (x : Die) : (s.setDie c x).down = s.down := rfl
@[simp] theorem setDie_roles (s : State) (c : BitVec 3) (x : Die) : (s.setDie c x).roles = s.roles := rfl
@[simp] theorem setDie_beats (s : State) (c : BitVec 3) (x : Die) : (s.setDie c x).beats = s.beats := rfl
@[simp] theorem setDie_standby (s : State) (c : BitVec 3) (x : Die) : (s.setDie c x).standby = s.standby := rfl
@[simp] theorem setDie_owed (s : State) (c : BitVec 3) (x : Die) : (s.setDie c x).owed = s.owed := rfl
@[simp] theorem setDie_taking (s : State) (c : BitVec 3) (x : Die) : (s.setDie c x).taking = s.taking := rfl
@[simp] theorem setDie_notices (s : State) (c : BitVec 3) (x : Die) : (s.setDie c x).notices = s.notices := rfl
@[simp] theorem setDie_boot (s : State) (c : BitVec 3) (x : Die) : (s.setDie c x).boot = s.boot := rfl
@[simp] theorem setDie_off (s : State) (c : BitVec 3) (x : Die) : (s.setDie c x).off = s.off := rfl
@[simp] theorem setDie_stepping (s : State) (c : BitVec 3) (x : Die) : (s.setDie c x).stepping = s.stepping := rfl
@[simp] theorem setDie_hostRead (s : State) (c : BitVec 3) (x : Die) : (s.setDie c x).hostRead = s.hostRead := rfl
@[simp] theorem setDie_hdmBase (s : State) (c : BitVec 3) (x : Die) : (s.setDie c x).hdmBase = s.hdmBase := rfl
@[simp] theorem setDie_cfg (s : State) (c : BitVec 3) (x : Die) : (s.setDie c x).cfg = s.cfg := rfl
@[simp] theorem setDie_fabricOut (s : State) (c : BitVec 3) (x : Die) : (s.setDie c x).fabricOut = s.fabricOut := rfl

/-! ## `setTenant` -/

@[simp] theorem setTenant_cur (s : State) (c : BitVec 9) (x : Tenant) : (s.setTenant c x).cur = s.cur := rfl
@[simp] theorem setTenant_pair (s : State) (c : BitVec 9) (x : Tenant) : (s.setTenant c x).pair = s.pair := rfl
@[simp] theorem setTenant_turn (s : State) (c : BitVec 9) (x : Tenant) : (s.setTenant c x).turn = s.turn := rfl
@[simp] theorem setTenant_fresh (s : State) (c : BitVec 9) (x : Tenant) : (s.setTenant c x).fresh = s.fresh := rfl
@[simp] theorem setTenant_serial (s : State) (c : BitVec 9) (x : Tenant) : (s.setTenant c x).serial = s.serial := rfl
@[simp] theorem setTenant_cores (s : State) (c : BitVec 9) (x : Tenant) : (s.setTenant c x).cores = s.cores := rfl
@[simp] theorem setTenant_clusters (s : State) (c : BitVec 9) (x : Tenant) : (s.setTenant c x).clusters = s.clusters := rfl
@[simp] theorem setTenant_copies (s : State) (c : BitVec 9) (x : Tenant) : (s.setTenant c x).copies = s.copies := rfl
@[simp] theorem setTenant_dies (s : State) (c : BitVec 9) (x : Tenant) : (s.setTenant c x).dies = s.dies := rfl
@[simp] theorem setTenant_parts (s : State) (c : BitVec 9) (x : Tenant) : (s.setTenant c x).parts = s.parts := rfl
@[simp] theorem setTenant_mem (s : State) (c : BitVec 9) (x : Tenant) : (s.setTenant c x).mem = s.mem := rfl
@[simp] theorem setTenant_reqs (s : State) (c : BitVec 9) (x : Tenant) : (s.setTenant c x).reqs = s.reqs := rfl
@[simp] theorem setTenant_msgs (s : State) (c : BitVec 9) (x : Tenant) : (s.setTenant c x).msgs = s.msgs := rfl
@[simp] theorem setTenant_drains (s : State) (c : BitVec 9) (x : Tenant) : (s.setTenant c x).drains = s.drains := rfl
@[simp] theorem setTenant_resvs (s : State) (c : BitVec 9) (x : Tenant) : (s.setTenant c x).resvs = s.resvs := rfl
@[simp] theorem setTenant_packets (s : State) (c : BitVec 9) (x : Tenant) : (s.setTenant c x).packets = s.packets := rfl
@[simp] theorem setTenant_keyring (s : State) (c : BitVec 9) (x : Tenant) : (s.setTenant c x).keyring = s.keyring := rfl
@[simp] theorem setTenant_disabled (s : State) (c : BitVec 9) (x : Tenant) : (s.setTenant c x).disabled = s.disabled := rfl
@[simp] theorem setTenant_pairs (s : State) (c : BitVec 9) (x : Tenant) : (s.setTenant c x).pairs = s.pairs := rfl
@[simp] theorem setTenant_probes (s : State) (c : BitVec 9) (x : Tenant) : (s.setTenant c x).probes = s.probes := rfl
@[simp] theorem setTenant_words (s : State) (c : BitVec 9) (x : Tenant) : (s.setTenant c x).words = s.words := rfl
@[simp] theorem setTenant_releases (s : State) (c : BitVec 9) (x : Tenant) : (s.setTenant c x).releases = s.releases := rfl
@[simp] theorem setTenant_returns (s : State) (c : BitVec 9) (x : Tenant) : (s.setTenant c x).returns = s.returns := rfl
@[simp] theorem setTenant_fabricStores (s : State) (c : BitVec 9) (x : Tenant) : (s.setTenant c x).fabricStores = s.fabricStores := rfl
@[simp] theorem setTenant_journal (s : State) (c : BitVec 9) (x : Tenant) : (s.setTenant c x).journal = s.journal := rfl
@[simp] theorem setTenant_seq (s : State) (c : BitVec 9) (x : Tenant) : (s.setTenant c x).seq = s.seq := rfl
@[simp] theorem setTenant_freezes (s : State) (c : BitVec 9) (x : Tenant) : (s.setTenant c x).freezes = s.freezes := rfl
@[simp] theorem setTenant_dirty (s : State) (c : BitVec 9) (x : Tenant) : (s.setTenant c x).dirty = s.dirty := rfl
@[simp] theorem setTenant_dirtyErr (s : State) (c : BitVec 9) (x : Tenant) : (s.setTenant c x).dirtyErr = s.dirtyErr := rfl
@[simp] theorem setTenant_dirtyCmd (s : State) (c : BitVec 9) (x : Tenant) : (s.setTenant c x).dirtyCmd = s.dirtyCmd := rfl
@[simp] theorem setTenant_dirtyFrame (s : State) (c : BitVec 9) (x : Tenant) : (s.setTenant c x).dirtyFrame = s.dirtyFrame := rfl
@[simp] theorem setTenant_inval (s : State) (c : BitVec 9) (x : Tenant) : (s.setTenant c x).inval = s.inval := rfl
@[simp] theorem setTenant_krcmd (s : State) (c : BitVec 9) (x : Tenant) : (s.setTenant c x).krcmd = s.krcmd := rfl
@[simp] theorem setTenant_keyNew (s : State) (c : BitVec 9) (x : Tenant) : (s.setTenant c x).keyNew = s.keyNew := rfl
@[simp] theorem setTenant_lvrctl (s : State) (c : BitVec 9) (x : Tenant) : (s.setTenant c x).lvrctl = s.lvrctl := rfl
@[simp] theorem setTenant_lvr (s : State) (c : BitVec 9) (x : Tenant) : (s.setTenant c x).lvr = s.lvr := rfl
@[simp] theorem setTenant_groups (s : State) (c : BitVec 9) (x : Tenant) : (s.setTenant c x).groups = s.groups := rfl
@[simp] theorem setTenant_hdm (s : State) (c : BitVec 9) (x : Tenant) : (s.setTenant c x).hdm = s.hdm := rfl
@[simp] theorem setTenant_ctxs (s : State) (c : BitVec 9) (x : Tenant) : (s.setTenant c x).ctxs = s.ctxs := rfl
@[simp] theorem setTenant_cmds (s : State) (c : BitVec 9) (x : Tenant) : (s.setTenant c x).cmds = s.cmds := rfl
@[simp] theorem setTenant_window (s : State) (c : BitVec 9) (x : Tenant) : (s.setTenant c x).window = s.window := rfl
@[simp] theorem setTenant_ownctl (s : State) (c : BitVec 9) (x : Tenant) : (s.setTenant c x).ownctl = s.ownctl := rfl
@[simp] theorem setTenant_drops (s : State) (c : BitVec 9) (x : Tenant) : (s.setTenant c x).drops = s.drops := rfl
@[simp] theorem setTenant_down (s : State) (c : BitVec 9) (x : Tenant) : (s.setTenant c x).down = s.down := rfl
@[simp] theorem setTenant_roles (s : State) (c : BitVec 9) (x : Tenant) : (s.setTenant c x).roles = s.roles := rfl
@[simp] theorem setTenant_beats (s : State) (c : BitVec 9) (x : Tenant) : (s.setTenant c x).beats = s.beats := rfl
@[simp] theorem setTenant_standby (s : State) (c : BitVec 9) (x : Tenant) : (s.setTenant c x).standby = s.standby := rfl
@[simp] theorem setTenant_owed (s : State) (c : BitVec 9) (x : Tenant) : (s.setTenant c x).owed = s.owed := rfl
@[simp] theorem setTenant_taking (s : State) (c : BitVec 9) (x : Tenant) : (s.setTenant c x).taking = s.taking := rfl
@[simp] theorem setTenant_notices (s : State) (c : BitVec 9) (x : Tenant) : (s.setTenant c x).notices = s.notices := rfl
@[simp] theorem setTenant_boot (s : State) (c : BitVec 9) (x : Tenant) : (s.setTenant c x).boot = s.boot := rfl
@[simp] theorem setTenant_off (s : State) (c : BitVec 9) (x : Tenant) : (s.setTenant c x).off = s.off := rfl
@[simp] theorem setTenant_stepping (s : State) (c : BitVec 9) (x : Tenant) : (s.setTenant c x).stepping = s.stepping := rfl
@[simp] theorem setTenant_hostRead (s : State) (c : BitVec 9) (x : Tenant) : (s.setTenant c x).hostRead = s.hostRead := rfl
@[simp] theorem setTenant_hdmBase (s : State) (c : BitVec 9) (x : Tenant) : (s.setTenant c x).hdmBase = s.hdmBase := rfl
@[simp] theorem setTenant_cfg (s : State) (c : BitVec 9) (x : Tenant) : (s.setTenant c x).cfg = s.cfg := rfl
@[simp] theorem setTenant_fabricOut (s : State) (c : BitVec 9) (x : Tenant) : (s.setTenant c x).fabricOut = s.fabricOut := rfl

/-! ## `setPart` -/

@[simp] theorem setPart_cur (s : State) (c : Nat) (x : Partition) : (s.setPart c x).cur = s.cur := rfl
@[simp] theorem setPart_pair (s : State) (c : Nat) (x : Partition) : (s.setPart c x).pair = s.pair := rfl
@[simp] theorem setPart_turn (s : State) (c : Nat) (x : Partition) : (s.setPart c x).turn = s.turn := rfl
@[simp] theorem setPart_fresh (s : State) (c : Nat) (x : Partition) : (s.setPart c x).fresh = s.fresh := rfl
@[simp] theorem setPart_serial (s : State) (c : Nat) (x : Partition) : (s.setPart c x).serial = s.serial := rfl
@[simp] theorem setPart_cores (s : State) (c : Nat) (x : Partition) : (s.setPart c x).cores = s.cores := rfl
@[simp] theorem setPart_clusters (s : State) (c : Nat) (x : Partition) : (s.setPart c x).clusters = s.clusters := rfl
@[simp] theorem setPart_copies (s : State) (c : Nat) (x : Partition) : (s.setPart c x).copies = s.copies := rfl
@[simp] theorem setPart_dies (s : State) (c : Nat) (x : Partition) : (s.setPart c x).dies = s.dies := rfl
@[simp] theorem setPart_mem (s : State) (c : Nat) (x : Partition) : (s.setPart c x).mem = s.mem := rfl
@[simp] theorem setPart_reqs (s : State) (c : Nat) (x : Partition) : (s.setPart c x).reqs = s.reqs := rfl
@[simp] theorem setPart_msgs (s : State) (c : Nat) (x : Partition) : (s.setPart c x).msgs = s.msgs := rfl
@[simp] theorem setPart_drains (s : State) (c : Nat) (x : Partition) : (s.setPart c x).drains = s.drains := rfl
@[simp] theorem setPart_resvs (s : State) (c : Nat) (x : Partition) : (s.setPart c x).resvs = s.resvs := rfl
@[simp] theorem setPart_packets (s : State) (c : Nat) (x : Partition) : (s.setPart c x).packets = s.packets := rfl
@[simp] theorem setPart_tenants (s : State) (c : Nat) (x : Partition) : (s.setPart c x).tenants = s.tenants := rfl
@[simp] theorem setPart_keyring (s : State) (c : Nat) (x : Partition) : (s.setPart c x).keyring = s.keyring := rfl
@[simp] theorem setPart_disabled (s : State) (c : Nat) (x : Partition) : (s.setPart c x).disabled = s.disabled := rfl
@[simp] theorem setPart_pairs (s : State) (c : Nat) (x : Partition) : (s.setPart c x).pairs = s.pairs := rfl
@[simp] theorem setPart_probes (s : State) (c : Nat) (x : Partition) : (s.setPart c x).probes = s.probes := rfl
@[simp] theorem setPart_words (s : State) (c : Nat) (x : Partition) : (s.setPart c x).words = s.words := rfl
@[simp] theorem setPart_releases (s : State) (c : Nat) (x : Partition) : (s.setPart c x).releases = s.releases := rfl
@[simp] theorem setPart_returns (s : State) (c : Nat) (x : Partition) : (s.setPart c x).returns = s.returns := rfl
@[simp] theorem setPart_fabricStores (s : State) (c : Nat) (x : Partition) : (s.setPart c x).fabricStores = s.fabricStores := rfl
@[simp] theorem setPart_journal (s : State) (c : Nat) (x : Partition) : (s.setPart c x).journal = s.journal := rfl
@[simp] theorem setPart_seq (s : State) (c : Nat) (x : Partition) : (s.setPart c x).seq = s.seq := rfl
@[simp] theorem setPart_freezes (s : State) (c : Nat) (x : Partition) : (s.setPart c x).freezes = s.freezes := rfl
@[simp] theorem setPart_dirty (s : State) (c : Nat) (x : Partition) : (s.setPart c x).dirty = s.dirty := rfl
@[simp] theorem setPart_dirtyErr (s : State) (c : Nat) (x : Partition) : (s.setPart c x).dirtyErr = s.dirtyErr := rfl
@[simp] theorem setPart_dirtyCmd (s : State) (c : Nat) (x : Partition) : (s.setPart c x).dirtyCmd = s.dirtyCmd := rfl
@[simp] theorem setPart_dirtyFrame (s : State) (c : Nat) (x : Partition) : (s.setPart c x).dirtyFrame = s.dirtyFrame := rfl
@[simp] theorem setPart_inval (s : State) (c : Nat) (x : Partition) : (s.setPart c x).inval = s.inval := rfl
@[simp] theorem setPart_krcmd (s : State) (c : Nat) (x : Partition) : (s.setPart c x).krcmd = s.krcmd := rfl
@[simp] theorem setPart_keyNew (s : State) (c : Nat) (x : Partition) : (s.setPart c x).keyNew = s.keyNew := rfl
@[simp] theorem setPart_lvrctl (s : State) (c : Nat) (x : Partition) : (s.setPart c x).lvrctl = s.lvrctl := rfl
@[simp] theorem setPart_lvr (s : State) (c : Nat) (x : Partition) : (s.setPart c x).lvr = s.lvr := rfl
@[simp] theorem setPart_groups (s : State) (c : Nat) (x : Partition) : (s.setPart c x).groups = s.groups := rfl
@[simp] theorem setPart_hdm (s : State) (c : Nat) (x : Partition) : (s.setPart c x).hdm = s.hdm := rfl
@[simp] theorem setPart_ctxs (s : State) (c : Nat) (x : Partition) : (s.setPart c x).ctxs = s.ctxs := rfl
@[simp] theorem setPart_cmds (s : State) (c : Nat) (x : Partition) : (s.setPart c x).cmds = s.cmds := rfl
@[simp] theorem setPart_window (s : State) (c : Nat) (x : Partition) : (s.setPart c x).window = s.window := rfl
@[simp] theorem setPart_ownctl (s : State) (c : Nat) (x : Partition) : (s.setPart c x).ownctl = s.ownctl := rfl
@[simp] theorem setPart_drops (s : State) (c : Nat) (x : Partition) : (s.setPart c x).drops = s.drops := rfl
@[simp] theorem setPart_down (s : State) (c : Nat) (x : Partition) : (s.setPart c x).down = s.down := rfl
@[simp] theorem setPart_roles (s : State) (c : Nat) (x : Partition) : (s.setPart c x).roles = s.roles := rfl
@[simp] theorem setPart_beats (s : State) (c : Nat) (x : Partition) : (s.setPart c x).beats = s.beats := rfl
@[simp] theorem setPart_standby (s : State) (c : Nat) (x : Partition) : (s.setPart c x).standby = s.standby := rfl
@[simp] theorem setPart_owed (s : State) (c : Nat) (x : Partition) : (s.setPart c x).owed = s.owed := rfl
@[simp] theorem setPart_taking (s : State) (c : Nat) (x : Partition) : (s.setPart c x).taking = s.taking := rfl
@[simp] theorem setPart_notices (s : State) (c : Nat) (x : Partition) : (s.setPart c x).notices = s.notices := rfl
@[simp] theorem setPart_boot (s : State) (c : Nat) (x : Partition) : (s.setPart c x).boot = s.boot := rfl
@[simp] theorem setPart_off (s : State) (c : Nat) (x : Partition) : (s.setPart c x).off = s.off := rfl
@[simp] theorem setPart_stepping (s : State) (c : Nat) (x : Partition) : (s.setPart c x).stepping = s.stepping := rfl
@[simp] theorem setPart_hostRead (s : State) (c : Nat) (x : Partition) : (s.setPart c x).hostRead = s.hostRead := rfl
@[simp] theorem setPart_hdmBase (s : State) (c : Nat) (x : Partition) : (s.setPart c x).hdmBase = s.hdmBase := rfl
@[simp] theorem setPart_cfg (s : State) (c : Nat) (x : Partition) : (s.setPart c x).cfg = s.cfg := rfl
@[simp] theorem setPart_fabricOut (s : State) (c : Nat) (x : Partition) : (s.setPart c x).fabricOut = s.fabricOut := rfl

/-! ## `bump` -/

@[simp] theorem bump_cur (s : State) : s.bump.cur = s.cur := rfl
@[simp] theorem bump_pair (s : State) : s.bump.pair = s.pair := rfl
@[simp] theorem bump_turn (s : State) : s.bump.turn = s.turn := rfl
@[simp] theorem bump_fresh (s : State) : s.bump.fresh = s.fresh := rfl
@[simp] theorem bump_cores (s : State) : s.bump.cores = s.cores := rfl
@[simp] theorem bump_clusters (s : State) : s.bump.clusters = s.clusters := rfl
@[simp] theorem bump_copies (s : State) : s.bump.copies = s.copies := rfl
@[simp] theorem bump_dies (s : State) : s.bump.dies = s.dies := rfl
@[simp] theorem bump_parts (s : State) : s.bump.parts = s.parts := rfl
@[simp] theorem bump_mem (s : State) : s.bump.mem = s.mem := rfl
@[simp] theorem bump_reqs (s : State) : s.bump.reqs = s.reqs := rfl
@[simp] theorem bump_msgs (s : State) : s.bump.msgs = s.msgs := rfl
@[simp] theorem bump_drains (s : State) : s.bump.drains = s.drains := rfl
@[simp] theorem bump_resvs (s : State) : s.bump.resvs = s.resvs := rfl
@[simp] theorem bump_packets (s : State) : s.bump.packets = s.packets := rfl
@[simp] theorem bump_tenants (s : State) : s.bump.tenants = s.tenants := rfl
@[simp] theorem bump_keyring (s : State) : s.bump.keyring = s.keyring := rfl
@[simp] theorem bump_disabled (s : State) : s.bump.disabled = s.disabled := rfl
@[simp] theorem bump_pairs (s : State) : s.bump.pairs = s.pairs := rfl
@[simp] theorem bump_probes (s : State) : s.bump.probes = s.probes := rfl
@[simp] theorem bump_words (s : State) : s.bump.words = s.words := rfl
@[simp] theorem bump_releases (s : State) : s.bump.releases = s.releases := rfl
@[simp] theorem bump_returns (s : State) : s.bump.returns = s.returns := rfl
@[simp] theorem bump_fabricStores (s : State) : s.bump.fabricStores = s.fabricStores := rfl
@[simp] theorem bump_journal (s : State) : s.bump.journal = s.journal := rfl
@[simp] theorem bump_seq (s : State) : s.bump.seq = s.seq := rfl
@[simp] theorem bump_freezes (s : State) : s.bump.freezes = s.freezes := rfl
@[simp] theorem bump_dirty (s : State) : s.bump.dirty = s.dirty := rfl
@[simp] theorem bump_dirtyErr (s : State) : s.bump.dirtyErr = s.dirtyErr := rfl
@[simp] theorem bump_dirtyCmd (s : State) : s.bump.dirtyCmd = s.dirtyCmd := rfl
@[simp] theorem bump_dirtyFrame (s : State) : s.bump.dirtyFrame = s.dirtyFrame := rfl
@[simp] theorem bump_inval (s : State) : s.bump.inval = s.inval := rfl
@[simp] theorem bump_krcmd (s : State) : s.bump.krcmd = s.krcmd := rfl
@[simp] theorem bump_keyNew (s : State) : s.bump.keyNew = s.keyNew := rfl
@[simp] theorem bump_lvrctl (s : State) : s.bump.lvrctl = s.lvrctl := rfl
@[simp] theorem bump_lvr (s : State) : s.bump.lvr = s.lvr := rfl
@[simp] theorem bump_groups (s : State) : s.bump.groups = s.groups := rfl
@[simp] theorem bump_hdm (s : State) : s.bump.hdm = s.hdm := rfl
@[simp] theorem bump_ctxs (s : State) : s.bump.ctxs = s.ctxs := rfl
@[simp] theorem bump_cmds (s : State) : s.bump.cmds = s.cmds := rfl
@[simp] theorem bump_window (s : State) : s.bump.window = s.window := rfl
@[simp] theorem bump_ownctl (s : State) : s.bump.ownctl = s.ownctl := rfl
@[simp] theorem bump_drops (s : State) : s.bump.drops = s.drops := rfl
@[simp] theorem bump_down (s : State) : s.bump.down = s.down := rfl
@[simp] theorem bump_roles (s : State) : s.bump.roles = s.roles := rfl
@[simp] theorem bump_beats (s : State) : s.bump.beats = s.beats := rfl
@[simp] theorem bump_standby (s : State) : s.bump.standby = s.standby := rfl
@[simp] theorem bump_owed (s : State) : s.bump.owed = s.owed := rfl
@[simp] theorem bump_taking (s : State) : s.bump.taking = s.taking := rfl
@[simp] theorem bump_notices (s : State) : s.bump.notices = s.notices := rfl
@[simp] theorem bump_boot (s : State) : s.bump.boot = s.boot := rfl
@[simp] theorem bump_off (s : State) : s.bump.off = s.off := rfl
@[simp] theorem bump_stepping (s : State) : s.bump.stepping = s.stepping := rfl
@[simp] theorem bump_hostRead (s : State) : s.bump.hostRead = s.hostRead := rfl
@[simp] theorem bump_hdmBase (s : State) : s.bump.hdmBase = s.hdmBase := rfl
@[simp] theorem bump_cfg (s : State) : s.bump.cfg = s.cfg := rfl
@[simp] theorem bump_fabricOut (s : State) : s.bump.fabricOut = s.fabricOut := rfl
@[simp] theorem bump_core (s : State) (c : CoreId) : s.bump.core c = s.core c := rfl

/-! ## Reads after writes -/

@[simp] theorem core_setCore (s : State) (c : CoreId) (x : Core) : (s.setCore c x).core c = x := by
  simp [core, setCore]
theorem core_setCore_ne (s : State) (c d : CoreId) (x : Core) (h : d ≠ c) : (s.setCore c x).core d = s.core d :=
  agetD_aset_ne _ _ _ _ _ h
@[simp] theorem cluster_setCluster (s : State) (c : BitVec 9) (x : Cluster) : (s.setCluster c x).cluster c = x := by
  simp [cluster, setCluster]
theorem cluster_setCluster_ne (s : State) (c d : BitVec 9) (x : Cluster) (h : d ≠ c) :
    (s.setCluster c x).cluster d = s.cluster d := agetD_aset_ne _ _ _ _ _ h
@[simp] theorem die_setDie (s : State) (c : BitVec 3) (x : Die) : (s.setDie c x).die c = x := by simp [die, setDie]
@[simp] theorem tenant_setTenant (s : State) (c : BitVec 9) (x : Tenant) : (s.setTenant c x).tenant c = x := by
  simp [tenant, setTenant]
@[simp] theorem part_setPart (s : State) (p : Nat) (x : Partition) : (s.setPart p x).part p = x := by
  simp [part, setPart]
theorem part_setPart_ne (s : State) (p q : Nat) (x : Partition) (h : q ≠ p) : (s.setPart p x).part q = s.part q :=
  agetD_aset_ne _ _ _ _ _ h
@[simp] theorem core_setCluster (s : State) (c : BitVec 9) (x : Cluster) (d : CoreId) :
    (s.setCluster c x).core d = s.core d := rfl
@[simp] theorem core_setPart (s : State) (c : Nat) (x : Partition) (d : CoreId) : (s.setPart c x).core d = s.core d := rfl
@[simp] theorem core_setDie (s : State) (c : BitVec 3) (x : Die) (d : CoreId) : (s.setDie c x).core d = s.core d := rfl
@[simp] theorem core_setTenant (s : State) (c : BitVec 9) (x : Tenant) (d : CoreId) :
    (s.setTenant c x).core d = s.core d := rfl
@[simp] theorem part_setCore (s : State) (c : CoreId) (x : Core) (p : Nat) : (s.setCore c x).part p = s.part p := rfl
@[simp] theorem cluster_setCore (s : State) (c : CoreId) (x : Core) (d : BitVec 9) :
    (s.setCore c x).cluster d = s.cluster d := rfl
@[simp] theorem die_setCore (s : State) (c : CoreId) (x : Core) (d : BitVec 3) : (s.setCore c x).die d = s.die d := rfl
@[simp] theorem tenant_setCore (s : State) (c : CoreId) (x : Core) (d : BitVec 9) :
    (s.setCore c x).tenant d = s.tenant d := rfl

/-! ## The core, slot and thread that issue -/

@[simp] theorem setHere_cur (s : State) (x : Core) : (s.setHere x).cur = s.cur := rfl
@[simp] theorem setHere_pair (s : State) (x : Core) : (s.setHere x).pair = s.pair := rfl
@[simp] theorem setHere_turn (s : State) (x : Core) : (s.setHere x).turn = s.turn := rfl
@[simp] theorem setHere_fresh (s : State) (x : Core) : (s.setHere x).fresh = s.fresh := rfl
@[simp] theorem setHere_serial (s : State) (x : Core) : (s.setHere x).serial = s.serial := rfl
@[simp] theorem setHere_clusters (s : State) (x : Core) : (s.setHere x).clusters = s.clusters := rfl
@[simp] theorem setHere_copies (s : State) (x : Core) : (s.setHere x).copies = s.copies := rfl
@[simp] theorem setHere_dies (s : State) (x : Core) : (s.setHere x).dies = s.dies := rfl
@[simp] theorem setHere_parts (s : State) (x : Core) : (s.setHere x).parts = s.parts := rfl
@[simp] theorem setHere_mem (s : State) (x : Core) : (s.setHere x).mem = s.mem := rfl
@[simp] theorem setHere_reqs (s : State) (x : Core) : (s.setHere x).reqs = s.reqs := rfl
@[simp] theorem setHere_msgs (s : State) (x : Core) : (s.setHere x).msgs = s.msgs := rfl
@[simp] theorem setHere_drains (s : State) (x : Core) : (s.setHere x).drains = s.drains := rfl
@[simp] theorem setHere_resvs (s : State) (x : Core) : (s.setHere x).resvs = s.resvs := rfl
@[simp] theorem setHere_packets (s : State) (x : Core) : (s.setHere x).packets = s.packets := rfl
@[simp] theorem setHere_tenants (s : State) (x : Core) : (s.setHere x).tenants = s.tenants := rfl
@[simp] theorem setHere_keyring (s : State) (x : Core) : (s.setHere x).keyring = s.keyring := rfl
@[simp] theorem setHere_disabled (s : State) (x : Core) : (s.setHere x).disabled = s.disabled := rfl
@[simp] theorem setHere_pairs (s : State) (x : Core) : (s.setHere x).pairs = s.pairs := rfl
@[simp] theorem setHere_probes (s : State) (x : Core) : (s.setHere x).probes = s.probes := rfl
@[simp] theorem setHere_words (s : State) (x : Core) : (s.setHere x).words = s.words := rfl
@[simp] theorem setHere_releases (s : State) (x : Core) : (s.setHere x).releases = s.releases := rfl
@[simp] theorem setHere_returns (s : State) (x : Core) : (s.setHere x).returns = s.returns := rfl
@[simp] theorem setHere_fabricStores (s : State) (x : Core) : (s.setHere x).fabricStores = s.fabricStores := rfl
@[simp] theorem setHere_journal (s : State) (x : Core) : (s.setHere x).journal = s.journal := rfl
@[simp] theorem setHere_seq (s : State) (x : Core) : (s.setHere x).seq = s.seq := rfl
@[simp] theorem setHere_freezes (s : State) (x : Core) : (s.setHere x).freezes = s.freezes := rfl
@[simp] theorem setHere_dirty (s : State) (x : Core) : (s.setHere x).dirty = s.dirty := rfl
@[simp] theorem setHere_dirtyErr (s : State) (x : Core) : (s.setHere x).dirtyErr = s.dirtyErr := rfl
@[simp] theorem setHere_dirtyCmd (s : State) (x : Core) : (s.setHere x).dirtyCmd = s.dirtyCmd := rfl
@[simp] theorem setHere_dirtyFrame (s : State) (x : Core) : (s.setHere x).dirtyFrame = s.dirtyFrame := rfl
@[simp] theorem setHere_inval (s : State) (x : Core) : (s.setHere x).inval = s.inval := rfl
@[simp] theorem setHere_krcmd (s : State) (x : Core) : (s.setHere x).krcmd = s.krcmd := rfl
@[simp] theorem setHere_keyNew (s : State) (x : Core) : (s.setHere x).keyNew = s.keyNew := rfl
@[simp] theorem setHere_lvrctl (s : State) (x : Core) : (s.setHere x).lvrctl = s.lvrctl := rfl
@[simp] theorem setHere_lvr (s : State) (x : Core) : (s.setHere x).lvr = s.lvr := rfl
@[simp] theorem setHere_groups (s : State) (x : Core) : (s.setHere x).groups = s.groups := rfl
@[simp] theorem setHere_hdm (s : State) (x : Core) : (s.setHere x).hdm = s.hdm := rfl
@[simp] theorem setHere_ctxs (s : State) (x : Core) : (s.setHere x).ctxs = s.ctxs := rfl
@[simp] theorem setHere_cmds (s : State) (x : Core) : (s.setHere x).cmds = s.cmds := rfl
@[simp] theorem setHere_window (s : State) (x : Core) : (s.setHere x).window = s.window := rfl
@[simp] theorem setHere_ownctl (s : State) (x : Core) : (s.setHere x).ownctl = s.ownctl := rfl
@[simp] theorem setHere_drops (s : State) (x : Core) : (s.setHere x).drops = s.drops := rfl
@[simp] theorem setHere_down (s : State) (x : Core) : (s.setHere x).down = s.down := rfl
@[simp] theorem setHere_roles (s : State) (x : Core) : (s.setHere x).roles = s.roles := rfl
@[simp] theorem setHere_beats (s : State) (x : Core) : (s.setHere x).beats = s.beats := rfl
@[simp] theorem setHere_standby (s : State) (x : Core) : (s.setHere x).standby = s.standby := rfl
@[simp] theorem setHere_owed (s : State) (x : Core) : (s.setHere x).owed = s.owed := rfl
@[simp] theorem setHere_taking (s : State) (x : Core) : (s.setHere x).taking = s.taking := rfl
@[simp] theorem setHere_notices (s : State) (x : Core) : (s.setHere x).notices = s.notices := rfl
@[simp] theorem setHere_boot (s : State) (x : Core) : (s.setHere x).boot = s.boot := rfl
@[simp] theorem setHere_off (s : State) (x : Core) : (s.setHere x).off = s.off := rfl
@[simp] theorem setHere_stepping (s : State) (x : Core) : (s.setHere x).stepping = s.stepping := rfl
@[simp] theorem setHere_hostRead (s : State) (x : Core) : (s.setHere x).hostRead = s.hostRead := rfl
@[simp] theorem setHere_hdmBase (s : State) (x : Core) : (s.setHere x).hdmBase = s.hdmBase := rfl
@[simp] theorem setHere_cfg (s : State) (x : Core) : (s.setHere x).cfg = s.cfg := rfl
@[simp] theorem setHere_fabricOut (s : State) (x : Core) : (s.setHere x).fabricOut = s.fabricOut := rfl

@[simp] theorem setMe_cur (s : State) (x : Slot) : (s.setMe x).cur = s.cur := rfl
@[simp] theorem setMe_pair (s : State) (x : Slot) : (s.setMe x).pair = s.pair := rfl
@[simp] theorem setMe_turn (s : State) (x : Slot) : (s.setMe x).turn = s.turn := rfl
@[simp] theorem setMe_fresh (s : State) (x : Slot) : (s.setMe x).fresh = s.fresh := rfl
@[simp] theorem setMe_serial (s : State) (x : Slot) : (s.setMe x).serial = s.serial := rfl
@[simp] theorem setMe_clusters (s : State) (x : Slot) : (s.setMe x).clusters = s.clusters := rfl
@[simp] theorem setMe_copies (s : State) (x : Slot) : (s.setMe x).copies = s.copies := rfl
@[simp] theorem setMe_dies (s : State) (x : Slot) : (s.setMe x).dies = s.dies := rfl
@[simp] theorem setMe_parts (s : State) (x : Slot) : (s.setMe x).parts = s.parts := rfl
@[simp] theorem setMe_mem (s : State) (x : Slot) : (s.setMe x).mem = s.mem := rfl
@[simp] theorem setMe_reqs (s : State) (x : Slot) : (s.setMe x).reqs = s.reqs := rfl
@[simp] theorem setMe_msgs (s : State) (x : Slot) : (s.setMe x).msgs = s.msgs := rfl
@[simp] theorem setMe_drains (s : State) (x : Slot) : (s.setMe x).drains = s.drains := rfl
@[simp] theorem setMe_resvs (s : State) (x : Slot) : (s.setMe x).resvs = s.resvs := rfl
@[simp] theorem setMe_packets (s : State) (x : Slot) : (s.setMe x).packets = s.packets := rfl
@[simp] theorem setMe_tenants (s : State) (x : Slot) : (s.setMe x).tenants = s.tenants := rfl
@[simp] theorem setMe_keyring (s : State) (x : Slot) : (s.setMe x).keyring = s.keyring := rfl
@[simp] theorem setMe_disabled (s : State) (x : Slot) : (s.setMe x).disabled = s.disabled := rfl
@[simp] theorem setMe_pairs (s : State) (x : Slot) : (s.setMe x).pairs = s.pairs := rfl
@[simp] theorem setMe_probes (s : State) (x : Slot) : (s.setMe x).probes = s.probes := rfl
@[simp] theorem setMe_words (s : State) (x : Slot) : (s.setMe x).words = s.words := rfl
@[simp] theorem setMe_releases (s : State) (x : Slot) : (s.setMe x).releases = s.releases := rfl
@[simp] theorem setMe_returns (s : State) (x : Slot) : (s.setMe x).returns = s.returns := rfl
@[simp] theorem setMe_fabricStores (s : State) (x : Slot) : (s.setMe x).fabricStores = s.fabricStores := rfl
@[simp] theorem setMe_journal (s : State) (x : Slot) : (s.setMe x).journal = s.journal := rfl
@[simp] theorem setMe_seq (s : State) (x : Slot) : (s.setMe x).seq = s.seq := rfl
@[simp] theorem setMe_freezes (s : State) (x : Slot) : (s.setMe x).freezes = s.freezes := rfl
@[simp] theorem setMe_dirty (s : State) (x : Slot) : (s.setMe x).dirty = s.dirty := rfl
@[simp] theorem setMe_dirtyErr (s : State) (x : Slot) : (s.setMe x).dirtyErr = s.dirtyErr := rfl
@[simp] theorem setMe_dirtyCmd (s : State) (x : Slot) : (s.setMe x).dirtyCmd = s.dirtyCmd := rfl
@[simp] theorem setMe_dirtyFrame (s : State) (x : Slot) : (s.setMe x).dirtyFrame = s.dirtyFrame := rfl
@[simp] theorem setMe_inval (s : State) (x : Slot) : (s.setMe x).inval = s.inval := rfl
@[simp] theorem setMe_krcmd (s : State) (x : Slot) : (s.setMe x).krcmd = s.krcmd := rfl
@[simp] theorem setMe_keyNew (s : State) (x : Slot) : (s.setMe x).keyNew = s.keyNew := rfl
@[simp] theorem setMe_lvrctl (s : State) (x : Slot) : (s.setMe x).lvrctl = s.lvrctl := rfl
@[simp] theorem setMe_lvr (s : State) (x : Slot) : (s.setMe x).lvr = s.lvr := rfl
@[simp] theorem setMe_groups (s : State) (x : Slot) : (s.setMe x).groups = s.groups := rfl
@[simp] theorem setMe_hdm (s : State) (x : Slot) : (s.setMe x).hdm = s.hdm := rfl
@[simp] theorem setMe_ctxs (s : State) (x : Slot) : (s.setMe x).ctxs = s.ctxs := rfl
@[simp] theorem setMe_cmds (s : State) (x : Slot) : (s.setMe x).cmds = s.cmds := rfl
@[simp] theorem setMe_window (s : State) (x : Slot) : (s.setMe x).window = s.window := rfl
@[simp] theorem setMe_ownctl (s : State) (x : Slot) : (s.setMe x).ownctl = s.ownctl := rfl
@[simp] theorem setMe_drops (s : State) (x : Slot) : (s.setMe x).drops = s.drops := rfl
@[simp] theorem setMe_down (s : State) (x : Slot) : (s.setMe x).down = s.down := rfl
@[simp] theorem setMe_roles (s : State) (x : Slot) : (s.setMe x).roles = s.roles := rfl
@[simp] theorem setMe_beats (s : State) (x : Slot) : (s.setMe x).beats = s.beats := rfl
@[simp] theorem setMe_standby (s : State) (x : Slot) : (s.setMe x).standby = s.standby := rfl
@[simp] theorem setMe_owed (s : State) (x : Slot) : (s.setMe x).owed = s.owed := rfl
@[simp] theorem setMe_taking (s : State) (x : Slot) : (s.setMe x).taking = s.taking := rfl
@[simp] theorem setMe_notices (s : State) (x : Slot) : (s.setMe x).notices = s.notices := rfl
@[simp] theorem setMe_boot (s : State) (x : Slot) : (s.setMe x).boot = s.boot := rfl
@[simp] theorem setMe_off (s : State) (x : Slot) : (s.setMe x).off = s.off := rfl
@[simp] theorem setMe_stepping (s : State) (x : Slot) : (s.setMe x).stepping = s.stepping := rfl
@[simp] theorem setMe_hostRead (s : State) (x : Slot) : (s.setMe x).hostRead = s.hostRead := rfl
@[simp] theorem setMe_hdmBase (s : State) (x : Slot) : (s.setMe x).hdmBase = s.hdmBase := rfl
@[simp] theorem setMe_cfg (s : State) (x : Slot) : (s.setMe x).cfg = s.cfg := rfl
@[simp] theorem setMe_fabricOut (s : State) (x : Slot) : (s.setMe x).fabricOut = s.fabricOut := rfl

@[simp] theorem setTh_cur (s : State) (t : Thread) : (s.setTh t).cur = s.cur := rfl
@[simp] theorem setTh_pair (s : State) (t : Thread) : (s.setTh t).pair = s.pair := rfl
@[simp] theorem setTh_turn (s : State) (t : Thread) : (s.setTh t).turn = s.turn := rfl
@[simp] theorem setTh_fresh (s : State) (t : Thread) : (s.setTh t).fresh = s.fresh := rfl
@[simp] theorem setTh_serial (s : State) (t : Thread) : (s.setTh t).serial = s.serial := rfl
@[simp] theorem setTh_clusters (s : State) (t : Thread) : (s.setTh t).clusters = s.clusters := rfl
@[simp] theorem setTh_copies (s : State) (t : Thread) : (s.setTh t).copies = s.copies := rfl
@[simp] theorem setTh_dies (s : State) (t : Thread) : (s.setTh t).dies = s.dies := rfl
@[simp] theorem setTh_parts (s : State) (t : Thread) : (s.setTh t).parts = s.parts := rfl
@[simp] theorem setTh_mem (s : State) (t : Thread) : (s.setTh t).mem = s.mem := rfl
@[simp] theorem setTh_reqs (s : State) (t : Thread) : (s.setTh t).reqs = s.reqs := rfl
@[simp] theorem setTh_msgs (s : State) (t : Thread) : (s.setTh t).msgs = s.msgs := rfl
@[simp] theorem setTh_drains (s : State) (t : Thread) : (s.setTh t).drains = s.drains := rfl
@[simp] theorem setTh_resvs (s : State) (t : Thread) : (s.setTh t).resvs = s.resvs := rfl
@[simp] theorem setTh_packets (s : State) (t : Thread) : (s.setTh t).packets = s.packets := rfl
@[simp] theorem setTh_tenants (s : State) (t : Thread) : (s.setTh t).tenants = s.tenants := rfl
@[simp] theorem setTh_keyring (s : State) (t : Thread) : (s.setTh t).keyring = s.keyring := rfl
@[simp] theorem setTh_disabled (s : State) (t : Thread) : (s.setTh t).disabled = s.disabled := rfl
@[simp] theorem setTh_pairs (s : State) (t : Thread) : (s.setTh t).pairs = s.pairs := rfl
@[simp] theorem setTh_probes (s : State) (t : Thread) : (s.setTh t).probes = s.probes := rfl
@[simp] theorem setTh_words (s : State) (t : Thread) : (s.setTh t).words = s.words := rfl
@[simp] theorem setTh_releases (s : State) (t : Thread) : (s.setTh t).releases = s.releases := rfl
@[simp] theorem setTh_returns (s : State) (t : Thread) : (s.setTh t).returns = s.returns := rfl
@[simp] theorem setTh_fabricStores (s : State) (t : Thread) : (s.setTh t).fabricStores = s.fabricStores := rfl
@[simp] theorem setTh_journal (s : State) (t : Thread) : (s.setTh t).journal = s.journal := rfl
@[simp] theorem setTh_seq (s : State) (t : Thread) : (s.setTh t).seq = s.seq := rfl
@[simp] theorem setTh_freezes (s : State) (t : Thread) : (s.setTh t).freezes = s.freezes := rfl
@[simp] theorem setTh_dirty (s : State) (t : Thread) : (s.setTh t).dirty = s.dirty := rfl
@[simp] theorem setTh_dirtyErr (s : State) (t : Thread) : (s.setTh t).dirtyErr = s.dirtyErr := rfl
@[simp] theorem setTh_dirtyCmd (s : State) (t : Thread) : (s.setTh t).dirtyCmd = s.dirtyCmd := rfl
@[simp] theorem setTh_dirtyFrame (s : State) (t : Thread) : (s.setTh t).dirtyFrame = s.dirtyFrame := rfl
@[simp] theorem setTh_inval (s : State) (t : Thread) : (s.setTh t).inval = s.inval := rfl
@[simp] theorem setTh_krcmd (s : State) (t : Thread) : (s.setTh t).krcmd = s.krcmd := rfl
@[simp] theorem setTh_keyNew (s : State) (t : Thread) : (s.setTh t).keyNew = s.keyNew := rfl
@[simp] theorem setTh_lvrctl (s : State) (t : Thread) : (s.setTh t).lvrctl = s.lvrctl := rfl
@[simp] theorem setTh_lvr (s : State) (t : Thread) : (s.setTh t).lvr = s.lvr := rfl
@[simp] theorem setTh_groups (s : State) (t : Thread) : (s.setTh t).groups = s.groups := rfl
@[simp] theorem setTh_hdm (s : State) (t : Thread) : (s.setTh t).hdm = s.hdm := rfl
@[simp] theorem setTh_ctxs (s : State) (t : Thread) : (s.setTh t).ctxs = s.ctxs := rfl
@[simp] theorem setTh_cmds (s : State) (t : Thread) : (s.setTh t).cmds = s.cmds := rfl
@[simp] theorem setTh_window (s : State) (t : Thread) : (s.setTh t).window = s.window := rfl
@[simp] theorem setTh_ownctl (s : State) (t : Thread) : (s.setTh t).ownctl = s.ownctl := rfl
@[simp] theorem setTh_drops (s : State) (t : Thread) : (s.setTh t).drops = s.drops := rfl
@[simp] theorem setTh_down (s : State) (t : Thread) : (s.setTh t).down = s.down := rfl
@[simp] theorem setTh_roles (s : State) (t : Thread) : (s.setTh t).roles = s.roles := rfl
@[simp] theorem setTh_beats (s : State) (t : Thread) : (s.setTh t).beats = s.beats := rfl
@[simp] theorem setTh_standby (s : State) (t : Thread) : (s.setTh t).standby = s.standby := rfl
@[simp] theorem setTh_owed (s : State) (t : Thread) : (s.setTh t).owed = s.owed := rfl
@[simp] theorem setTh_taking (s : State) (t : Thread) : (s.setTh t).taking = s.taking := rfl
@[simp] theorem setTh_notices (s : State) (t : Thread) : (s.setTh t).notices = s.notices := rfl
@[simp] theorem setTh_boot (s : State) (t : Thread) : (s.setTh t).boot = s.boot := rfl
@[simp] theorem setTh_off (s : State) (t : Thread) : (s.setTh t).off = s.off := rfl
@[simp] theorem setTh_stepping (s : State) (t : Thread) : (s.setTh t).stepping = s.stepping := rfl
@[simp] theorem setTh_hostRead (s : State) (t : Thread) : (s.setTh t).hostRead = s.hostRead := rfl
@[simp] theorem setTh_hdmBase (s : State) (t : Thread) : (s.setTh t).hdmBase = s.hdmBase := rfl
@[simp] theorem setTh_cfg (s : State) (t : Thread) : (s.setTh t).cfg = s.cfg := rfl
@[simp] theorem setTh_fabricOut (s : State) (t : Thread) : (s.setTh t).fabricOut = s.fabricOut := rfl

@[simp] theorem setSlot_cur (s : State) (c : CoreId) (n : SlotId) (x : Slot) : (s.setSlot c n x).cur = s.cur := rfl
@[simp] theorem setSlot_pair (s : State) (c : CoreId) (n : SlotId) (x : Slot) : (s.setSlot c n x).pair = s.pair := rfl
@[simp] theorem setSlot_turn (s : State) (c : CoreId) (n : SlotId) (x : Slot) : (s.setSlot c n x).turn = s.turn := rfl
@[simp] theorem setSlot_fresh (s : State) (c : CoreId) (n : SlotId) (x : Slot) : (s.setSlot c n x).fresh = s.fresh := rfl
@[simp] theorem setSlot_serial (s : State) (c : CoreId) (n : SlotId) (x : Slot) : (s.setSlot c n x).serial = s.serial := rfl
@[simp] theorem setSlot_clusters (s : State) (c : CoreId) (n : SlotId) (x : Slot) : (s.setSlot c n x).clusters = s.clusters := rfl
@[simp] theorem setSlot_copies (s : State) (c : CoreId) (n : SlotId) (x : Slot) : (s.setSlot c n x).copies = s.copies := rfl
@[simp] theorem setSlot_dies (s : State) (c : CoreId) (n : SlotId) (x : Slot) : (s.setSlot c n x).dies = s.dies := rfl
@[simp] theorem setSlot_parts (s : State) (c : CoreId) (n : SlotId) (x : Slot) : (s.setSlot c n x).parts = s.parts := rfl
@[simp] theorem setSlot_mem (s : State) (c : CoreId) (n : SlotId) (x : Slot) : (s.setSlot c n x).mem = s.mem := rfl
@[simp] theorem setSlot_reqs (s : State) (c : CoreId) (n : SlotId) (x : Slot) : (s.setSlot c n x).reqs = s.reqs := rfl
@[simp] theorem setSlot_msgs (s : State) (c : CoreId) (n : SlotId) (x : Slot) : (s.setSlot c n x).msgs = s.msgs := rfl
@[simp] theorem setSlot_drains (s : State) (c : CoreId) (n : SlotId) (x : Slot) : (s.setSlot c n x).drains = s.drains := rfl
@[simp] theorem setSlot_resvs (s : State) (c : CoreId) (n : SlotId) (x : Slot) : (s.setSlot c n x).resvs = s.resvs := rfl
@[simp] theorem setSlot_packets (s : State) (c : CoreId) (n : SlotId) (x : Slot) : (s.setSlot c n x).packets = s.packets := rfl
@[simp] theorem setSlot_tenants (s : State) (c : CoreId) (n : SlotId) (x : Slot) : (s.setSlot c n x).tenants = s.tenants := rfl
@[simp] theorem setSlot_keyring (s : State) (c : CoreId) (n : SlotId) (x : Slot) : (s.setSlot c n x).keyring = s.keyring := rfl
@[simp] theorem setSlot_disabled (s : State) (c : CoreId) (n : SlotId) (x : Slot) : (s.setSlot c n x).disabled = s.disabled := rfl
@[simp] theorem setSlot_pairs (s : State) (c : CoreId) (n : SlotId) (x : Slot) : (s.setSlot c n x).pairs = s.pairs := rfl
@[simp] theorem setSlot_probes (s : State) (c : CoreId) (n : SlotId) (x : Slot) : (s.setSlot c n x).probes = s.probes := rfl
@[simp] theorem setSlot_words (s : State) (c : CoreId) (n : SlotId) (x : Slot) : (s.setSlot c n x).words = s.words := rfl
@[simp] theorem setSlot_releases (s : State) (c : CoreId) (n : SlotId) (x : Slot) : (s.setSlot c n x).releases = s.releases := rfl
@[simp] theorem setSlot_returns (s : State) (c : CoreId) (n : SlotId) (x : Slot) : (s.setSlot c n x).returns = s.returns := rfl
@[simp] theorem setSlot_fabricStores (s : State) (c : CoreId) (n : SlotId) (x : Slot) : (s.setSlot c n x).fabricStores = s.fabricStores := rfl
@[simp] theorem setSlot_journal (s : State) (c : CoreId) (n : SlotId) (x : Slot) : (s.setSlot c n x).journal = s.journal := rfl
@[simp] theorem setSlot_seq (s : State) (c : CoreId) (n : SlotId) (x : Slot) : (s.setSlot c n x).seq = s.seq := rfl
@[simp] theorem setSlot_freezes (s : State) (c : CoreId) (n : SlotId) (x : Slot) : (s.setSlot c n x).freezes = s.freezes := rfl
@[simp] theorem setSlot_dirty (s : State) (c : CoreId) (n : SlotId) (x : Slot) : (s.setSlot c n x).dirty = s.dirty := rfl
@[simp] theorem setSlot_dirtyErr (s : State) (c : CoreId) (n : SlotId) (x : Slot) : (s.setSlot c n x).dirtyErr = s.dirtyErr := rfl
@[simp] theorem setSlot_dirtyCmd (s : State) (c : CoreId) (n : SlotId) (x : Slot) : (s.setSlot c n x).dirtyCmd = s.dirtyCmd := rfl
@[simp] theorem setSlot_dirtyFrame (s : State) (c : CoreId) (n : SlotId) (x : Slot) : (s.setSlot c n x).dirtyFrame = s.dirtyFrame := rfl
@[simp] theorem setSlot_inval (s : State) (c : CoreId) (n : SlotId) (x : Slot) : (s.setSlot c n x).inval = s.inval := rfl
@[simp] theorem setSlot_krcmd (s : State) (c : CoreId) (n : SlotId) (x : Slot) : (s.setSlot c n x).krcmd = s.krcmd := rfl
@[simp] theorem setSlot_keyNew (s : State) (c : CoreId) (n : SlotId) (x : Slot) : (s.setSlot c n x).keyNew = s.keyNew := rfl
@[simp] theorem setSlot_lvrctl (s : State) (c : CoreId) (n : SlotId) (x : Slot) : (s.setSlot c n x).lvrctl = s.lvrctl := rfl
@[simp] theorem setSlot_lvr (s : State) (c : CoreId) (n : SlotId) (x : Slot) : (s.setSlot c n x).lvr = s.lvr := rfl
@[simp] theorem setSlot_groups (s : State) (c : CoreId) (n : SlotId) (x : Slot) : (s.setSlot c n x).groups = s.groups := rfl
@[simp] theorem setSlot_hdm (s : State) (c : CoreId) (n : SlotId) (x : Slot) : (s.setSlot c n x).hdm = s.hdm := rfl
@[simp] theorem setSlot_ctxs (s : State) (c : CoreId) (n : SlotId) (x : Slot) : (s.setSlot c n x).ctxs = s.ctxs := rfl
@[simp] theorem setSlot_cmds (s : State) (c : CoreId) (n : SlotId) (x : Slot) : (s.setSlot c n x).cmds = s.cmds := rfl
@[simp] theorem setSlot_window (s : State) (c : CoreId) (n : SlotId) (x : Slot) : (s.setSlot c n x).window = s.window := rfl
@[simp] theorem setSlot_ownctl (s : State) (c : CoreId) (n : SlotId) (x : Slot) : (s.setSlot c n x).ownctl = s.ownctl := rfl
@[simp] theorem setSlot_drops (s : State) (c : CoreId) (n : SlotId) (x : Slot) : (s.setSlot c n x).drops = s.drops := rfl
@[simp] theorem setSlot_down (s : State) (c : CoreId) (n : SlotId) (x : Slot) : (s.setSlot c n x).down = s.down := rfl
@[simp] theorem setSlot_roles (s : State) (c : CoreId) (n : SlotId) (x : Slot) : (s.setSlot c n x).roles = s.roles := rfl
@[simp] theorem setSlot_beats (s : State) (c : CoreId) (n : SlotId) (x : Slot) : (s.setSlot c n x).beats = s.beats := rfl
@[simp] theorem setSlot_standby (s : State) (c : CoreId) (n : SlotId) (x : Slot) : (s.setSlot c n x).standby = s.standby := rfl
@[simp] theorem setSlot_owed (s : State) (c : CoreId) (n : SlotId) (x : Slot) : (s.setSlot c n x).owed = s.owed := rfl
@[simp] theorem setSlot_taking (s : State) (c : CoreId) (n : SlotId) (x : Slot) : (s.setSlot c n x).taking = s.taking := rfl
@[simp] theorem setSlot_notices (s : State) (c : CoreId) (n : SlotId) (x : Slot) : (s.setSlot c n x).notices = s.notices := rfl
@[simp] theorem setSlot_boot (s : State) (c : CoreId) (n : SlotId) (x : Slot) : (s.setSlot c n x).boot = s.boot := rfl
@[simp] theorem setSlot_off (s : State) (c : CoreId) (n : SlotId) (x : Slot) : (s.setSlot c n x).off = s.off := rfl
@[simp] theorem setSlot_stepping (s : State) (c : CoreId) (n : SlotId) (x : Slot) : (s.setSlot c n x).stepping = s.stepping := rfl
@[simp] theorem setSlot_hostRead (s : State) (c : CoreId) (n : SlotId) (x : Slot) : (s.setSlot c n x).hostRead = s.hostRead := rfl
@[simp] theorem setSlot_hdmBase (s : State) (c : CoreId) (n : SlotId) (x : Slot) : (s.setSlot c n x).hdmBase = s.hdmBase := rfl
@[simp] theorem setSlot_cfg (s : State) (c : CoreId) (n : SlotId) (x : Slot) : (s.setSlot c n x).cfg = s.cfg := rfl
@[simp] theorem setSlot_fabricOut (s : State) (c : CoreId) (n : SlotId) (x : Slot) : (s.setSlot c n x).fabricOut = s.fabricOut := rfl

@[simp] theorem here_setHere (s : State) (x : Core) : (s.setHere x).here = x := by simp [here, setHere]
@[simp] theorem slotAt_setSlot (s : State) (c : CoreId) (n : SlotId) (x : Slot) : (s.setSlot c n x).slotAt c n = x := by
  simp [slotAt, setSlot]
theorem slotAt_setSlot_ne (s : State) (c : CoreId) (n m : SlotId) (x : Slot) (h : m ≠ n) :
    (s.setSlot c n x).slotAt c m = s.slotAt c m := by
  have h' : (n : Nat) ≠ m := fun e => h (Fin.ext e.symm)
  simp [slotAt, setSlot, h']
theorem slotAt_setSlot_other (s : State) (c d : CoreId) (n m : SlotId) (x : Slot) (h : d ≠ c) :
    (s.setSlot c n x).slotAt d m = s.slotAt d m := by
  simp [slotAt, setSlot, core_setCore_ne _ _ _ _ h]
@[simp] theorem me_setMe (s : State) (x : Slot) : (s.setMe x).me = x := by simp [me, setMe]
@[simp] theorem th_setTh (s : State) (t : Thread) : (s.setTh t).th = t := by simp [th, setTh]
@[simp] theorem me_setTh (s : State) (t : Thread) : (s.setTh t).me = { s.me with th := t } := by simp [setTh]
@[simp] theorem th_setMe (s : State) (x : Slot) : (s.setMe x).th = x.th := by simp [th]
@[simp] theorem th_bump (s : State) : s.bump.th = s.th := rfl
@[simp] theorem me_bump (s : State) : s.bump.me = s.me := rfl
@[simp] theorem here_bump (s : State) : s.bump.here = s.here := rfl

/-- The slots apart, an update of a slot leaves its core as it was. -/
theorem core_setSlot (s : State) (c : CoreId) (n : SlotId) (x : Slot) :
    (s.setSlot c n x).core c = { s.core c with slots := (s.core c).slots.set n x } := by simp [setSlot]
theorem here_setMe (s : State) (x : Slot) : (s.setMe x).here = { s.here with slots := s.here.slots.set s.cur.slot x } := by
  simp [here, setMe, setSlot]

@[simp] theorem here_setMe_cycle (s : State) (x : Slot) : (s.setMe x).here.cycle = s.here.cycle := by simp [here_setMe]
@[simp] theorem here_setTh_cycle (s : State) (t : Thread) : (s.setTh t).here.cycle = s.here.cycle := by simp [setTh]
@[simp] theorem here_setMe_ls (s : State) (x : Slot) : (s.setMe x).here.ls = s.here.ls := by simp [here_setMe]
@[simp] theorem here_setTh_ls (s : State) (t : Thread) : (s.setTh t).here.ls = s.here.ls := by simp [setTh]
@[simp] theorem here_setMe_inbox (s : State) (x : Slot) : (s.setMe x).here.inbox = s.here.inbox := by simp [here_setMe]
@[simp] theorem here_setTh_inbox (s : State) (t : Thread) : (s.setTh t).here.inbox = s.here.inbox := by simp [setTh]
@[simp] theorem here_setMe_ports (s : State) (x : Slot) : (s.setMe x).here.ports = s.here.ports := by simp [here_setMe]
@[simp] theorem here_setTh_ports (s : State) (t : Thread) : (s.setTh t).here.ports = s.here.ports := by simp [setTh]
@[simp] theorem here_setMe_landing (s : State) (x : Slot) : (s.setMe x).here.landing = s.here.landing := by simp [here_setMe]
@[simp] theorem here_setTh_landing (s : State) (t : Thread) : (s.setTh t).here.landing = s.here.landing := by simp [setTh]
@[simp] theorem here_setMe_resvq (s : State) (x : Slot) : (s.setMe x).here.resvq = s.here.resvq := by simp [here_setMe]
@[simp] theorem here_setTh_resvq (s : State) (t : Thread) : (s.setTh t).here.resvq = s.here.resvq := by simp [setTh]
@[simp] theorem here_setMe_tiles (s : State) (x : Slot) : (s.setMe x).here.tiles = s.here.tiles := by simp [here_setMe]
@[simp] theorem here_setTh_tiles (s : State) (t : Thread) : (s.setTh t).here.tiles = s.here.tiles := by simp [setTh]
@[simp] theorem here_setMe_orphans (s : State) (x : Slot) : (s.setMe x).here.orphans = s.here.orphans := by simp [here_setMe]
@[simp] theorem here_setTh_orphans (s : State) (t : Thread) : (s.setTh t).here.orphans = s.here.orphans := by simp [setTh]
@[simp] theorem here_setMe_aown (s : State) (x : Slot) : (s.setMe x).here.aown = s.here.aown := by simp [here_setMe]
@[simp] theorem here_setTh_aown (s : State) (t : Thread) : (s.setTh t).here.aown = s.here.aown := by simp [setTh]
@[simp] theorem here_setMe_mown (s : State) (x : Slot) : (s.setMe x).here.mown = s.here.mown := by simp [here_setMe]
@[simp] theorem here_setTh_mown (s : State) (t : Thread) : (s.setTh t).here.mown = s.here.mown := by simp [setTh]
@[simp] theorem here_setMe_xferBy (s : State) (x : Slot) : (s.setMe x).here.xferBy = s.here.xferBy := by simp [here_setMe]
@[simp] theorem here_setTh_xferBy (s : State) (t : Thread) : (s.setTh t).here.xferBy = s.here.xferBy := by simp [setTh]
@[simp] theorem here_setMe_acquire (s : State) (x : Slot) : (s.setMe x).here.acquire = s.here.acquire := by simp [here_setMe]
@[simp] theorem here_setTh_acquire (s : State) (t : Thread) : (s.setTh t).here.acquire = s.here.acquire := by simp [setTh]
@[simp] theorem here_setMe_tracks (s : State) (x : Slot) : (s.setMe x).here.tracks = s.here.tracks := by simp [here_setMe]
@[simp] theorem here_setTh_tracks (s : State) (t : Thread) : (s.setTh t).here.tracks = s.here.tracks := by simp [setTh]
@[simp] theorem here_setMe_shiftq (s : State) (x : Slot) : (s.setMe x).here.shiftq = s.here.shiftq := by simp [here_setMe]
@[simp] theorem here_setTh_shiftq (s : State) (t : Thread) : (s.setTh t).here.shiftq = s.here.shiftq := by simp [setTh]
@[simp] theorem here_setMe_pieces (s : State) (x : Slot) : (s.setMe x).here.pieces = s.here.pieces := by simp [here_setMe]
@[simp] theorem here_setTh_pieces (s : State) (t : Thread) : (s.setTh t).here.pieces = s.here.pieces := by simp [setTh]
@[simp] theorem here_setMe_areas (s : State) (x : Slot) : (s.setMe x).here.areas = s.here.areas := by simp [here_setMe]
@[simp] theorem here_setTh_areas (s : State) (t : Thread) : (s.setTh t).here.areas = s.here.areas := by simp [setTh]
@[simp] theorem here_setMe_cur (s : State) (x : Slot) : (s.setMe x).here.cur = s.here.cur := by simp [here_setMe]
@[simp] theorem here_setTh_cur (s : State) (t : Thread) : (s.setTh t).here.cur = s.here.cur := by simp [setTh]
@[simp] theorem here_setMe_bwLast (s : State) (x : Slot) : (s.setMe x).here.bwLast = s.here.bwLast := by simp [here_setMe]
@[simp] theorem here_setTh_bwLast (s : State) (t : Thread) : (s.setTh t).here.bwLast = s.here.bwLast := by simp [setTh]
@[simp] theorem here_setMe_svec (s : State) (x : Slot) : (s.setMe x).here.svec = s.here.svec := by simp [here_setMe]
@[simp] theorem here_setTh_svec (s : State) (t : Thread) : (s.setTh t).here.svec = s.here.svec := by simp [setTh]
@[simp] theorem here_setMe_mvec (s : State) (x : Slot) : (s.setMe x).here.mvec = s.here.mvec := by simp [here_setMe]
@[simp] theorem here_setTh_mvec (s : State) (t : Thread) : (s.setTh t).here.mvec = s.here.mvec := by simp [setTh]
@[simp] theorem here_setMe_pxvec (s : State) (x : Slot) : (s.setMe x).here.pxvec = s.here.pxvec := by simp [here_setMe]
@[simp] theorem here_setTh_pxvec (s : State) (t : Thread) : (s.setTh t).here.pxvec = s.here.pxvec := by simp [setTh]
@[simp] theorem here_setMe_qown (s : State) (x : Slot) : (s.setMe x).here.qown = s.here.qown := by simp [here_setMe]
@[simp] theorem here_setTh_qown (s : State) (t : Thread) : (s.setTh t).here.qown = s.here.qown := by simp [setTh]
@[simp] theorem here_setMe_qweight (s : State) (x : Slot) : (s.setMe x).here.qweight = s.here.qweight := by simp [here_setMe]
@[simp] theorem here_setTh_qweight (s : State) (t : Thread) : (s.setTh t).here.qweight = s.here.qweight := by simp [setTh]
@[simp] theorem here_setMe_region (s : State) (x : Slot) : (s.setMe x).here.region = s.here.region := by simp [here_setMe]
@[simp] theorem here_setTh_region (s : State) (t : Thread) : (s.setTh t).here.region = s.here.region := by simp [setTh]
@[simp] theorem here_setMe_lvlctl (s : State) (x : Slot) : (s.setMe x).here.lvlctl = s.here.lvlctl := by simp [here_setMe]
@[simp] theorem here_setTh_lvlctl (s : State) (t : Thread) : (s.setTh t).here.lvlctl = s.here.lvlctl := by simp [setTh]
@[simp] theorem here_setMe_lvlerr (s : State) (x : Slot) : (s.setMe x).here.lvlerr = s.here.lvlerr := by simp [here_setMe]
@[simp] theorem here_setTh_lvlerr (s : State) (t : Thread) : (s.setTh t).here.lvlerr = s.here.lvlerr := by simp [setTh]
@[simp] theorem here_setMe_rlate (s : State) (x : Slot) : (s.setMe x).here.rlate = s.here.rlate := by simp [here_setMe]
@[simp] theorem here_setTh_rlate (s : State) (t : Thread) : (s.setTh t).here.rlate = s.here.rlate := by simp [setTh]
@[simp] theorem here_setMe_suspb (s : State) (x : Slot) : (s.setMe x).here.suspb = s.here.suspb := by simp [here_setMe]
@[simp] theorem here_setTh_suspb (s : State) (t : Thread) : (s.setTh t).here.suspb = s.here.suspb := by simp [setTh]
@[simp] theorem here_setMe_susp (s : State) (x : Slot) : (s.setMe x).here.susp = s.here.susp := by simp [here_setMe]
@[simp] theorem here_setTh_susp (s : State) (t : Thread) : (s.setTh t).here.susp = s.here.susp := by simp [setTh]
@[simp] theorem here_setMe_world (s : State) (x : Slot) : (s.setMe x).here.world = s.here.world := by simp [here_setMe]
@[simp] theorem here_setTh_world (s : State) (t : Thread) : (s.setTh t).here.world = s.here.world := by simp [setTh]
@[simp] theorem here_setMe_retired (s : State) (x : Slot) : (s.setMe x).here.retired = s.here.retired := by simp [here_setMe]
@[simp] theorem here_setTh_retired (s : State) (t : Thread) : (s.setTh t).here.retired = s.here.retired := by simp [setTh]
@[simp] theorem here_setMe_icache (s : State) (x : Slot) : (s.setMe x).here.icache = s.here.icache := by simp [here_setMe]
@[simp] theorem here_setTh_icache (s : State) (t : Thread) : (s.setTh t).here.icache = s.here.icache := by simp [setTh]
@[simp] theorem here_setMe_stat (s : State) (x : Slot) : (s.setMe x).here.stat = s.here.stat := by simp [here_setMe]
@[simp] theorem here_setTh_stat (s : State) (t : Thread) : (s.setTh t).here.stat = s.here.stat := by simp [setTh]
@[simp] theorem here_setMe_shad (s : State) (x : Slot) : (s.setMe x).here.shad = s.here.shad := by simp [here_setMe]
@[simp] theorem here_setTh_shad (s : State) (t : Thread) : (s.setTh t).here.shad = s.here.shad := by simp [setTh]
@[simp] theorem here_setMe_cfgk (s : State) (x : Slot) : (s.setMe x).here.cfgk = s.here.cfgk := by simp [here_setMe]
@[simp] theorem here_setTh_cfgk (s : State) (t : Thread) : (s.setTh t).here.cfgk = s.here.cfgk := by simp [setTh]
@[simp] theorem here_setMe_cfgn (s : State) (x : Slot) : (s.setMe x).here.cfgn = s.here.cfgn := by simp [here_setMe]
@[simp] theorem here_setTh_cfgn (s : State) (t : Thread) : (s.setTh t).here.cfgn = s.here.cfgn := by simp [setTh]
@[simp] theorem here_setMe_arrayq (s : State) (x : Slot) : (s.setMe x).here.arrayq = s.here.arrayq := by simp [here_setMe]
@[simp] theorem here_setTh_arrayq (s : State) (t : Thread) : (s.setTh t).here.arrayq = s.here.arrayq := by simp [setTh]
@[simp] theorem here_setMe_failed (s : State) (x : Slot) : (s.setMe x).here.failed = s.here.failed := by simp [here_setMe]
@[simp] theorem here_setTh_failed (s : State) (t : Thread) : (s.setTh t).here.failed = s.here.failed := by simp [setTh]
@[simp] theorem here_setMe_sfuq (s : State) (x : Slot) : (s.setMe x).here.sfuq = s.here.sfuq := by simp [here_setMe]
@[simp] theorem here_setTh_sfuq (s : State) (t : Thread) : (s.setTh t).here.sfuq = s.here.sfuq := by simp [setTh]
@[simp] theorem here_setMe_sfuSusp (s : State) (x : Slot) : (s.setMe x).here.sfuSusp = s.here.sfuSusp := by simp [here_setMe]
@[simp] theorem here_setTh_sfuSusp (s : State) (t : Thread) : (s.setTh t).here.sfuSusp = s.here.sfuSusp := by simp [setTh]
@[simp] theorem here_setMe_sfuRun (s : State) (x : Slot) : (s.setMe x).here.sfuRun = s.here.sfuRun := by simp [here_setMe]
@[simp] theorem here_setTh_sfuRun (s : State) (t : Thread) : (s.setTh t).here.sfuRun = s.here.sfuRun := by simp [setTh]
@[simp] theorem here_setMe_vdqs (s : State) (x : Slot) : (s.setMe x).here.vdqs = s.here.vdqs := by simp [here_setMe]
@[simp] theorem here_setTh_vdqs (s : State) (t : Thread) : (s.setTh t).here.vdqs = s.here.vdqs := by simp [setTh]
@[simp] theorem here_setMe_dirs (s : State) (x : Slot) : (s.setMe x).here.dirs = s.here.dirs := by simp [here_setMe]
@[simp] theorem here_setTh_dirs (s : State) (t : Thread) : (s.setTh t).here.dirs = s.here.dirs := by simp [setTh]
@[simp] theorem here_setMe_tide (s : State) (x : Slot) : (s.setMe x).here.tide = s.here.tide := by simp [here_setMe]
@[simp] theorem here_setTh_tide (s : State) (t : Thread) : (s.setTh t).here.tide = s.here.tide := by simp [setTh]
@[simp] theorem here_setMe_berths (s : State) (x : Slot) : (s.setMe x).here.berths = s.here.berths := by simp [here_setMe]
@[simp] theorem here_setTh_berths (s : State) (t : Thread) : (s.setTh t).here.berths = s.here.berths := by simp [setTh]

theorem me_setHere (s : State) (x : Core) : (s.setHere x).me = x.slots[s.cur.slot] := by
  simp [me, slotAt, setHere]
/-- An update of the issuing core that keeps its slots keeps the thread. -/
theorem me_setHere_slots (s : State) (x : Core) (h : x.slots = s.here.slots) : (s.setHere x).me = s.me := by
  simp only [me_setHere, h]; rfl
theorem th_setHere_slots (s : State) (x : Core) (h : x.slots = s.here.slots) : (s.setHere x).th = s.th := by
  simp [th, me_setHere_slots _ _ h]

end State

/-! ## Registers of a thread -/

@[simp] theorem Thread.setS_uid (t : Thread) (r : SReg) (w : Word) : (t.setS r w).uid = t.uid := by unfold Thread.setS; split <;> rfl
@[simp] theorem Thread.setS_pc (t : Thread) (r : SReg) (w : Word) : (t.setS r w).pc = t.pc := by unfold Thread.setS; split <;> rfl
@[simp] theorem Thread.setS_level (t : Thread) (r : SReg) (w : Word) : (t.setS r w).level = t.level := by unfold Thread.setS; split <;> rfl
@[simp] theorem Thread.setS_callers (t : Thread) (r : SReg) (w : Word) : (t.setS r w).callers = t.callers := by unfold Thread.setS; split <;> rfl
@[simp] theorem Thread.setS_spill (t : Thread) (r : SReg) (w : Word) : (t.setS r w).spill = t.spill := by unfold Thread.setS; split <;> rfl
@[simp] theorem Thread.setS_c (t : Thread) (r : SReg) (w : Word) : (t.setS r w).c = t.c := by unfold Thread.setS; split <;> rfl
@[simp] theorem Thread.setS_k (t : Thread) (r : SReg) (w : Word) : (t.setS r w).k = t.k := by unfold Thread.setS; split <;> rfl
@[simp] theorem Thread.setS_d (t : Thread) (r : SReg) (w : Word) : (t.setS r w).d = t.d := by unfold Thread.setS; split <;> rfl
@[simp] theorem Thread.setS_fsr (t : Thread) (r : SReg) (w : Word) : (t.setS r w).fsr = t.fsr := by unfold Thread.setS; split <;> rfl
@[simp] theorem Thread.setS_lc0 (t : Thread) (r : SReg) (w : Word) : (t.setS r w).lc0 = t.lc0 := by unfold Thread.setS; split <;> rfl
@[simp] theorem Thread.setS_lc1 (t : Thread) (r : SReg) (w : Word) : (t.setS r w).lc1 = t.lc1 := by unfold Thread.setS; split <;> rfl
@[simp] theorem Thread.setS_le0 (t : Thread) (r : SReg) (w : Word) : (t.setS r w).le0 = t.le0 := by unfold Thread.setS; split <;> rfl
@[simp] theorem Thread.setS_le1 (t : Thread) (r : SReg) (w : Word) : (t.setS r w).le1 = t.le1 := by unfold Thread.setS; split <;> rfl
@[simp] theorem Thread.setS_bita (t : Thread) (r : SReg) (w : Word) : (t.setS r w).bita = t.bita := by unfold Thread.setS; split <;> rfl
@[simp] theorem Thread.setS_tmask (t : Thread) (r : SReg) (w : Word) : (t.setS r w).tmask = t.tmask := by unfold Thread.setS; split <;> rfl
@[simp] theorem Thread.setS_shcnt (t : Thread) (r : SReg) (w : Word) : (t.setS r w).shcnt = t.shcnt := by unfold Thread.setS; split <;> rfl
@[simp] theorem Thread.setS_hclaim (t : Thread) (r : SReg) (w : Word) : (t.setS r w).hclaim = t.hclaim := by unfold Thread.setS; split <;> rfl
@[simp] theorem Thread.setS_tagf (t : Thread) (r : SReg) (w : Word) : (t.setS r w).tagf = t.tagf := by unfold Thread.setS; split <;> rfl
@[simp] theorem Thread.setS_tileb (t : Thread) (r : SReg) (w : Word) : (t.setS r w).tileb = t.tileb := by unfold Thread.setS; split <;> rfl
@[simp] theorem Thread.setS_wsp (t : Thread) (r : SReg) (w : Word) : (t.setS r w).wsp = t.wsp := by unfold Thread.setS; split <;> rfl
@[simp] theorem Thread.setS_self (t : Thread) (r : SReg) (w : Word) : (t.setS r w).self = t.self := by unfold Thread.setS; split <;> rfl
@[simp] theorem Thread.setS_tvec (t : Thread) (r : SReg) (w : Word) : (t.setS r w).tvec = t.tvec := by unfold Thread.setS; split <;> rfl
@[simp] theorem Thread.setS_epc (t : Thread) (r : SReg) (w : Word) : (t.setS r w).epc = t.epc := by unfold Thread.setS; split <;> rfl
@[simp] theorem Thread.setS_ecause (t : Thread) (r : SReg) (w : Word) : (t.setS r w).ecause = t.ecause := by unfold Thread.setS; split <;> rfl
@[simp] theorem Thread.setS_einfo (t : Thread) (r : SReg) (w : Word) : (t.setS r w).einfo = t.einfo := by unfold Thread.setS; split <;> rfl
@[simp] theorem Thread.setS_einfo2 (t : Thread) (r : SReg) (w : Word) : (t.setS r w).einfo2 = t.einfo2 := by unfold Thread.setS; split <;> rfl
@[simp] theorem Thread.setS_sepc (t : Thread) (r : SReg) (w : Word) : (t.setS r w).sepc = t.sepc := by unfold Thread.setS; split <;> rfl
@[simp] theorem Thread.setS_scause (t : Thread) (r : SReg) (w : Word) : (t.setS r w).scause = t.scause := by unfold Thread.setS; split <;> rfl
@[simp] theorem Thread.setS_sinfo (t : Thread) (r : SReg) (w : Word) : (t.setS r w).sinfo = t.sinfo := by unfold Thread.setS; split <;> rfl
@[simp] theorem Thread.setS_sinfo2 (t : Thread) (r : SReg) (w : Word) : (t.setS r w).sinfo2 = t.sinfo2 := by unfold Thread.setS; split <;> rfl
@[simp] theorem Thread.setS_mepc (t : Thread) (r : SReg) (w : Word) : (t.setS r w).mepc = t.mepc := by unfold Thread.setS; split <;> rfl
@[simp] theorem Thread.setS_mcause (t : Thread) (r : SReg) (w : Word) : (t.setS r w).mcause = t.mcause := by unfold Thread.setS; split <;> rfl
@[simp] theorem Thread.setS_minfo (t : Thread) (r : SReg) (w : Word) : (t.setS r w).minfo = t.minfo := by unfold Thread.setS; split <;> rfl
@[simp] theorem Thread.setS_minfo2 (t : Thread) (r : SReg) (w : Word) : (t.setS r w).minfo2 = t.minfo2 := by unfold Thread.setS; split <;> rfl
@[simp] theorem Thread.setS_dstore (t : Thread) (r : SReg) (w : Word) : (t.setS r w).dstore = t.dstore := by unfold Thread.setS; split <;> rfl
@[simp] theorem Thread.setS_rowFaults (t : Thread) (r : SReg) (w : Word) : (t.setS r w).rowFaults = t.rowFaults := by unfold Thread.setS; split <;> rfl
@[simp] theorem Thread.setS_fpMask (t : Thread) (r : SReg) (w : Word) : (t.setS r w).fpMask = t.fpMask := by unfold Thread.setS; split <;> rfl
@[simp] theorem Thread.setS_shadow (t : Thread) (r : SReg) (w : Word) : (t.setS r w).shadow = t.shadow := by unfold Thread.setS; split <;> rfl
@[simp] theorem Thread.setS_area (t : Thread) (r : SReg) (w : Word) : (t.setS r w).area = t.area := by unfold Thread.setS; split <;> rfl
@[simp] theorem Thread.setS_line (t : Thread) (r : SReg) (w : Word) : (t.setS r w).line = t.line := by unfold Thread.setS; split <;> rfl
@[simp] theorem Thread.setS_trapAt (t : Thread) (r : SReg) (w : Word) : (t.setS r w).trapAt = t.trapAt := by unfold Thread.setS; split <;> rfl
@[simp] theorem Thread.setK_uid (t : Thread) (r : KReg) (x : KCell) : (t.setK r x).uid = t.uid := rfl
@[simp] theorem Thread.setK_pc (t : Thread) (r : KReg) (x : KCell) : (t.setK r x).pc = t.pc := rfl
@[simp] theorem Thread.setK_level (t : Thread) (r : KReg) (x : KCell) : (t.setK r x).level = t.level := rfl
@[simp] theorem Thread.setK_s (t : Thread) (r : KReg) (x : KCell) : (t.setK r x).s = t.s := rfl
@[simp] theorem Thread.setK_callers (t : Thread) (r : KReg) (x : KCell) : (t.setK r x).callers = t.callers := rfl
@[simp] theorem Thread.setK_spill (t : Thread) (r : KReg) (x : KCell) : (t.setK r x).spill = t.spill := rfl
@[simp] theorem Thread.setK_c (t : Thread) (r : KReg) (x : KCell) : (t.setK r x).c = t.c := rfl
@[simp] theorem Thread.setK_d (t : Thread) (r : KReg) (x : KCell) : (t.setK r x).d = t.d := rfl
@[simp] theorem Thread.setK_fsr (t : Thread) (r : KReg) (x : KCell) : (t.setK r x).fsr = t.fsr := rfl
@[simp] theorem Thread.setK_lc0 (t : Thread) (r : KReg) (x : KCell) : (t.setK r x).lc0 = t.lc0 := rfl
@[simp] theorem Thread.setK_lc1 (t : Thread) (r : KReg) (x : KCell) : (t.setK r x).lc1 = t.lc1 := rfl
@[simp] theorem Thread.setK_le0 (t : Thread) (r : KReg) (x : KCell) : (t.setK r x).le0 = t.le0 := rfl
@[simp] theorem Thread.setK_le1 (t : Thread) (r : KReg) (x : KCell) : (t.setK r x).le1 = t.le1 := rfl
@[simp] theorem Thread.setK_bita (t : Thread) (r : KReg) (x : KCell) : (t.setK r x).bita = t.bita := rfl
@[simp] theorem Thread.setK_tmask (t : Thread) (r : KReg) (x : KCell) : (t.setK r x).tmask = t.tmask := rfl
@[simp] theorem Thread.setK_shcnt (t : Thread) (r : KReg) (x : KCell) : (t.setK r x).shcnt = t.shcnt := rfl
@[simp] theorem Thread.setK_hclaim (t : Thread) (r : KReg) (x : KCell) : (t.setK r x).hclaim = t.hclaim := rfl
@[simp] theorem Thread.setK_tagf (t : Thread) (r : KReg) (x : KCell) : (t.setK r x).tagf = t.tagf := rfl
@[simp] theorem Thread.setK_tileb (t : Thread) (r : KReg) (x : KCell) : (t.setK r x).tileb = t.tileb := rfl
@[simp] theorem Thread.setK_wsp (t : Thread) (r : KReg) (x : KCell) : (t.setK r x).wsp = t.wsp := rfl
@[simp] theorem Thread.setK_self (t : Thread) (r : KReg) (x : KCell) : (t.setK r x).self = t.self := rfl
@[simp] theorem Thread.setK_tvec (t : Thread) (r : KReg) (x : KCell) : (t.setK r x).tvec = t.tvec := rfl
@[simp] theorem Thread.setK_epc (t : Thread) (r : KReg) (x : KCell) : (t.setK r x).epc = t.epc := rfl
@[simp] theorem Thread.setK_ecause (t : Thread) (r : KReg) (x : KCell) : (t.setK r x).ecause = t.ecause := rfl
@[simp] theorem Thread.setK_einfo (t : Thread) (r : KReg) (x : KCell) : (t.setK r x).einfo = t.einfo := rfl
@[simp] theorem Thread.setK_einfo2 (t : Thread) (r : KReg) (x : KCell) : (t.setK r x).einfo2 = t.einfo2 := rfl
@[simp] theorem Thread.setK_sepc (t : Thread) (r : KReg) (x : KCell) : (t.setK r x).sepc = t.sepc := rfl
@[simp] theorem Thread.setK_scause (t : Thread) (r : KReg) (x : KCell) : (t.setK r x).scause = t.scause := rfl
@[simp] theorem Thread.setK_sinfo (t : Thread) (r : KReg) (x : KCell) : (t.setK r x).sinfo = t.sinfo := rfl
@[simp] theorem Thread.setK_sinfo2 (t : Thread) (r : KReg) (x : KCell) : (t.setK r x).sinfo2 = t.sinfo2 := rfl
@[simp] theorem Thread.setK_mepc (t : Thread) (r : KReg) (x : KCell) : (t.setK r x).mepc = t.mepc := rfl
@[simp] theorem Thread.setK_mcause (t : Thread) (r : KReg) (x : KCell) : (t.setK r x).mcause = t.mcause := rfl
@[simp] theorem Thread.setK_minfo (t : Thread) (r : KReg) (x : KCell) : (t.setK r x).minfo = t.minfo := rfl
@[simp] theorem Thread.setK_minfo2 (t : Thread) (r : KReg) (x : KCell) : (t.setK r x).minfo2 = t.minfo2 := rfl
@[simp] theorem Thread.setK_dstore (t : Thread) (r : KReg) (x : KCell) : (t.setK r x).dstore = t.dstore := rfl
@[simp] theorem Thread.setK_rowFaults (t : Thread) (r : KReg) (x : KCell) : (t.setK r x).rowFaults = t.rowFaults := rfl
@[simp] theorem Thread.setK_fpMask (t : Thread) (r : KReg) (x : KCell) : (t.setK r x).fpMask = t.fpMask := rfl
@[simp] theorem Thread.setK_shadow (t : Thread) (r : KReg) (x : KCell) : (t.setK r x).shadow = t.shadow := rfl
@[simp] theorem Thread.setK_area (t : Thread) (r : KReg) (x : KCell) : (t.setK r x).area = t.area := rfl
@[simp] theorem Thread.setK_line (t : Thread) (r : KReg) (x : KCell) : (t.setK r x).line = t.line := rfl
@[simp] theorem Thread.setK_trapAt (t : Thread) (r : KReg) (x : KCell) : (t.setK r x).trapAt = t.trapAt := rfl
@[simp] theorem Thread.setD_uid (t : Thread) (r : DReg) (x : DCell) : (t.setD r x).uid = t.uid := rfl
@[simp] theorem Thread.setD_pc (t : Thread) (r : DReg) (x : DCell) : (t.setD r x).pc = t.pc := rfl
@[simp] theorem Thread.setD_level (t : Thread) (r : DReg) (x : DCell) : (t.setD r x).level = t.level := rfl
@[simp] theorem Thread.setD_s (t : Thread) (r : DReg) (x : DCell) : (t.setD r x).s = t.s := rfl
@[simp] theorem Thread.setD_callers (t : Thread) (r : DReg) (x : DCell) : (t.setD r x).callers = t.callers := rfl
@[simp] theorem Thread.setD_spill (t : Thread) (r : DReg) (x : DCell) : (t.setD r x).spill = t.spill := rfl
@[simp] theorem Thread.setD_c (t : Thread) (r : DReg) (x : DCell) : (t.setD r x).c = t.c := rfl
@[simp] theorem Thread.setD_k (t : Thread) (r : DReg) (x : DCell) : (t.setD r x).k = t.k := rfl
@[simp] theorem Thread.setD_fsr (t : Thread) (r : DReg) (x : DCell) : (t.setD r x).fsr = t.fsr := rfl
@[simp] theorem Thread.setD_lc0 (t : Thread) (r : DReg) (x : DCell) : (t.setD r x).lc0 = t.lc0 := rfl
@[simp] theorem Thread.setD_lc1 (t : Thread) (r : DReg) (x : DCell) : (t.setD r x).lc1 = t.lc1 := rfl
@[simp] theorem Thread.setD_le0 (t : Thread) (r : DReg) (x : DCell) : (t.setD r x).le0 = t.le0 := rfl
@[simp] theorem Thread.setD_le1 (t : Thread) (r : DReg) (x : DCell) : (t.setD r x).le1 = t.le1 := rfl
@[simp] theorem Thread.setD_bita (t : Thread) (r : DReg) (x : DCell) : (t.setD r x).bita = t.bita := rfl
@[simp] theorem Thread.setD_tmask (t : Thread) (r : DReg) (x : DCell) : (t.setD r x).tmask = t.tmask := rfl
@[simp] theorem Thread.setD_shcnt (t : Thread) (r : DReg) (x : DCell) : (t.setD r x).shcnt = t.shcnt := rfl
@[simp] theorem Thread.setD_hclaim (t : Thread) (r : DReg) (x : DCell) : (t.setD r x).hclaim = t.hclaim := rfl
@[simp] theorem Thread.setD_tagf (t : Thread) (r : DReg) (x : DCell) : (t.setD r x).tagf = t.tagf := rfl
@[simp] theorem Thread.setD_tileb (t : Thread) (r : DReg) (x : DCell) : (t.setD r x).tileb = t.tileb := rfl
@[simp] theorem Thread.setD_wsp (t : Thread) (r : DReg) (x : DCell) : (t.setD r x).wsp = t.wsp := rfl
@[simp] theorem Thread.setD_self (t : Thread) (r : DReg) (x : DCell) : (t.setD r x).self = t.self := rfl
@[simp] theorem Thread.setD_tvec (t : Thread) (r : DReg) (x : DCell) : (t.setD r x).tvec = t.tvec := rfl
@[simp] theorem Thread.setD_epc (t : Thread) (r : DReg) (x : DCell) : (t.setD r x).epc = t.epc := rfl
@[simp] theorem Thread.setD_ecause (t : Thread) (r : DReg) (x : DCell) : (t.setD r x).ecause = t.ecause := rfl
@[simp] theorem Thread.setD_einfo (t : Thread) (r : DReg) (x : DCell) : (t.setD r x).einfo = t.einfo := rfl
@[simp] theorem Thread.setD_einfo2 (t : Thread) (r : DReg) (x : DCell) : (t.setD r x).einfo2 = t.einfo2 := rfl
@[simp] theorem Thread.setD_sepc (t : Thread) (r : DReg) (x : DCell) : (t.setD r x).sepc = t.sepc := rfl
@[simp] theorem Thread.setD_scause (t : Thread) (r : DReg) (x : DCell) : (t.setD r x).scause = t.scause := rfl
@[simp] theorem Thread.setD_sinfo (t : Thread) (r : DReg) (x : DCell) : (t.setD r x).sinfo = t.sinfo := rfl
@[simp] theorem Thread.setD_sinfo2 (t : Thread) (r : DReg) (x : DCell) : (t.setD r x).sinfo2 = t.sinfo2 := rfl
@[simp] theorem Thread.setD_mepc (t : Thread) (r : DReg) (x : DCell) : (t.setD r x).mepc = t.mepc := rfl
@[simp] theorem Thread.setD_mcause (t : Thread) (r : DReg) (x : DCell) : (t.setD r x).mcause = t.mcause := rfl
@[simp] theorem Thread.setD_minfo (t : Thread) (r : DReg) (x : DCell) : (t.setD r x).minfo = t.minfo := rfl
@[simp] theorem Thread.setD_minfo2 (t : Thread) (r : DReg) (x : DCell) : (t.setD r x).minfo2 = t.minfo2 := rfl
@[simp] theorem Thread.setD_dstore (t : Thread) (r : DReg) (x : DCell) : (t.setD r x).dstore = t.dstore := rfl
@[simp] theorem Thread.setD_rowFaults (t : Thread) (r : DReg) (x : DCell) : (t.setD r x).rowFaults = t.rowFaults := rfl
@[simp] theorem Thread.setD_fpMask (t : Thread) (r : DReg) (x : DCell) : (t.setD r x).fpMask = t.fpMask := rfl
@[simp] theorem Thread.setD_shadow (t : Thread) (r : DReg) (x : DCell) : (t.setD r x).shadow = t.shadow := rfl
@[simp] theorem Thread.setD_area (t : Thread) (r : DReg) (x : DCell) : (t.setD r x).area = t.area := rfl
@[simp] theorem Thread.setD_line (t : Thread) (r : DReg) (x : DCell) : (t.setD r x).line = t.line := rfl
@[simp] theorem Thread.setD_trapAt (t : Thread) (r : DReg) (x : DCell) : (t.setD r x).trapAt = t.trapAt := rfl
@[simp] theorem Thread.setC_uid (t : Thread) (i : BitVec 3) (b : Bool) : (t.setC i b).uid = t.uid := rfl
@[simp] theorem Thread.setC_pc (t : Thread) (i : BitVec 3) (b : Bool) : (t.setC i b).pc = t.pc := rfl
@[simp] theorem Thread.setC_level (t : Thread) (i : BitVec 3) (b : Bool) : (t.setC i b).level = t.level := rfl
@[simp] theorem Thread.setC_s (t : Thread) (i : BitVec 3) (b : Bool) : (t.setC i b).s = t.s := rfl
@[simp] theorem Thread.setC_callers (t : Thread) (i : BitVec 3) (b : Bool) : (t.setC i b).callers = t.callers := rfl
@[simp] theorem Thread.setC_spill (t : Thread) (i : BitVec 3) (b : Bool) : (t.setC i b).spill = t.spill := rfl
@[simp] theorem Thread.setC_k (t : Thread) (i : BitVec 3) (b : Bool) : (t.setC i b).k = t.k := rfl
@[simp] theorem Thread.setC_d (t : Thread) (i : BitVec 3) (b : Bool) : (t.setC i b).d = t.d := rfl
@[simp] theorem Thread.setC_fsr (t : Thread) (i : BitVec 3) (b : Bool) : (t.setC i b).fsr = t.fsr := rfl
@[simp] theorem Thread.setC_lc0 (t : Thread) (i : BitVec 3) (b : Bool) : (t.setC i b).lc0 = t.lc0 := rfl
@[simp] theorem Thread.setC_lc1 (t : Thread) (i : BitVec 3) (b : Bool) : (t.setC i b).lc1 = t.lc1 := rfl
@[simp] theorem Thread.setC_le0 (t : Thread) (i : BitVec 3) (b : Bool) : (t.setC i b).le0 = t.le0 := rfl
@[simp] theorem Thread.setC_le1 (t : Thread) (i : BitVec 3) (b : Bool) : (t.setC i b).le1 = t.le1 := rfl
@[simp] theorem Thread.setC_bita (t : Thread) (i : BitVec 3) (b : Bool) : (t.setC i b).bita = t.bita := rfl
@[simp] theorem Thread.setC_tmask (t : Thread) (i : BitVec 3) (b : Bool) : (t.setC i b).tmask = t.tmask := rfl
@[simp] theorem Thread.setC_shcnt (t : Thread) (i : BitVec 3) (b : Bool) : (t.setC i b).shcnt = t.shcnt := rfl
@[simp] theorem Thread.setC_hclaim (t : Thread) (i : BitVec 3) (b : Bool) : (t.setC i b).hclaim = t.hclaim := rfl
@[simp] theorem Thread.setC_tagf (t : Thread) (i : BitVec 3) (b : Bool) : (t.setC i b).tagf = t.tagf := rfl
@[simp] theorem Thread.setC_tileb (t : Thread) (i : BitVec 3) (b : Bool) : (t.setC i b).tileb = t.tileb := rfl
@[simp] theorem Thread.setC_wsp (t : Thread) (i : BitVec 3) (b : Bool) : (t.setC i b).wsp = t.wsp := rfl
@[simp] theorem Thread.setC_self (t : Thread) (i : BitVec 3) (b : Bool) : (t.setC i b).self = t.self := rfl
@[simp] theorem Thread.setC_tvec (t : Thread) (i : BitVec 3) (b : Bool) : (t.setC i b).tvec = t.tvec := rfl
@[simp] theorem Thread.setC_epc (t : Thread) (i : BitVec 3) (b : Bool) : (t.setC i b).epc = t.epc := rfl
@[simp] theorem Thread.setC_ecause (t : Thread) (i : BitVec 3) (b : Bool) : (t.setC i b).ecause = t.ecause := rfl
@[simp] theorem Thread.setC_einfo (t : Thread) (i : BitVec 3) (b : Bool) : (t.setC i b).einfo = t.einfo := rfl
@[simp] theorem Thread.setC_einfo2 (t : Thread) (i : BitVec 3) (b : Bool) : (t.setC i b).einfo2 = t.einfo2 := rfl
@[simp] theorem Thread.setC_sepc (t : Thread) (i : BitVec 3) (b : Bool) : (t.setC i b).sepc = t.sepc := rfl
@[simp] theorem Thread.setC_scause (t : Thread) (i : BitVec 3) (b : Bool) : (t.setC i b).scause = t.scause := rfl
@[simp] theorem Thread.setC_sinfo (t : Thread) (i : BitVec 3) (b : Bool) : (t.setC i b).sinfo = t.sinfo := rfl
@[simp] theorem Thread.setC_sinfo2 (t : Thread) (i : BitVec 3) (b : Bool) : (t.setC i b).sinfo2 = t.sinfo2 := rfl
@[simp] theorem Thread.setC_mepc (t : Thread) (i : BitVec 3) (b : Bool) : (t.setC i b).mepc = t.mepc := rfl
@[simp] theorem Thread.setC_mcause (t : Thread) (i : BitVec 3) (b : Bool) : (t.setC i b).mcause = t.mcause := rfl
@[simp] theorem Thread.setC_minfo (t : Thread) (i : BitVec 3) (b : Bool) : (t.setC i b).minfo = t.minfo := rfl
@[simp] theorem Thread.setC_minfo2 (t : Thread) (i : BitVec 3) (b : Bool) : (t.setC i b).minfo2 = t.minfo2 := rfl
@[simp] theorem Thread.setC_dstore (t : Thread) (i : BitVec 3) (b : Bool) : (t.setC i b).dstore = t.dstore := rfl
@[simp] theorem Thread.setC_rowFaults (t : Thread) (i : BitVec 3) (b : Bool) : (t.setC i b).rowFaults = t.rowFaults := rfl
@[simp] theorem Thread.setC_fpMask (t : Thread) (i : BitVec 3) (b : Bool) : (t.setC i b).fpMask = t.fpMask := rfl
@[simp] theorem Thread.setC_shadow (t : Thread) (i : BitVec 3) (b : Bool) : (t.setC i b).shadow = t.shadow := rfl
@[simp] theorem Thread.setC_area (t : Thread) (i : BitVec 3) (b : Bool) : (t.setC i b).area = t.area := rfl
@[simp] theorem Thread.setC_line (t : Thread) (i : BitVec 3) (b : Bool) : (t.setC i b).line = t.line := rfl
@[simp] theorem Thread.setC_trapAt (t : Thread) (i : BitVec 3) (b : Bool) : (t.setC i b).trapAt = t.trapAt := rfl
@[simp] theorem Thread.emptyS_uid (t : Thread) (r : SReg) (n : Nat) : (t.emptyS r n).uid = t.uid := by unfold Thread.emptyS; split <;> rfl
@[simp] theorem Thread.emptyS_pc (t : Thread) (r : SReg) (n : Nat) : (t.emptyS r n).pc = t.pc := by unfold Thread.emptyS; split <;> rfl
@[simp] theorem Thread.emptyS_level (t : Thread) (r : SReg) (n : Nat) : (t.emptyS r n).level = t.level := by unfold Thread.emptyS; split <;> rfl
@[simp] theorem Thread.emptyS_callers (t : Thread) (r : SReg) (n : Nat) : (t.emptyS r n).callers = t.callers := by unfold Thread.emptyS; split <;> rfl
@[simp] theorem Thread.emptyS_spill (t : Thread) (r : SReg) (n : Nat) : (t.emptyS r n).spill = t.spill := by unfold Thread.emptyS; split <;> rfl
@[simp] theorem Thread.emptyS_c (t : Thread) (r : SReg) (n : Nat) : (t.emptyS r n).c = t.c := by unfold Thread.emptyS; split <;> rfl
@[simp] theorem Thread.emptyS_k (t : Thread) (r : SReg) (n : Nat) : (t.emptyS r n).k = t.k := by unfold Thread.emptyS; split <;> rfl
@[simp] theorem Thread.emptyS_d (t : Thread) (r : SReg) (n : Nat) : (t.emptyS r n).d = t.d := by unfold Thread.emptyS; split <;> rfl
@[simp] theorem Thread.emptyS_fsr (t : Thread) (r : SReg) (n : Nat) : (t.emptyS r n).fsr = t.fsr := by unfold Thread.emptyS; split <;> rfl
@[simp] theorem Thread.emptyS_lc0 (t : Thread) (r : SReg) (n : Nat) : (t.emptyS r n).lc0 = t.lc0 := by unfold Thread.emptyS; split <;> rfl
@[simp] theorem Thread.emptyS_lc1 (t : Thread) (r : SReg) (n : Nat) : (t.emptyS r n).lc1 = t.lc1 := by unfold Thread.emptyS; split <;> rfl
@[simp] theorem Thread.emptyS_le0 (t : Thread) (r : SReg) (n : Nat) : (t.emptyS r n).le0 = t.le0 := by unfold Thread.emptyS; split <;> rfl
@[simp] theorem Thread.emptyS_le1 (t : Thread) (r : SReg) (n : Nat) : (t.emptyS r n).le1 = t.le1 := by unfold Thread.emptyS; split <;> rfl
@[simp] theorem Thread.emptyS_bita (t : Thread) (r : SReg) (n : Nat) : (t.emptyS r n).bita = t.bita := by unfold Thread.emptyS; split <;> rfl
@[simp] theorem Thread.emptyS_tmask (t : Thread) (r : SReg) (n : Nat) : (t.emptyS r n).tmask = t.tmask := by unfold Thread.emptyS; split <;> rfl
@[simp] theorem Thread.emptyS_shcnt (t : Thread) (r : SReg) (n : Nat) : (t.emptyS r n).shcnt = t.shcnt := by unfold Thread.emptyS; split <;> rfl
@[simp] theorem Thread.emptyS_hclaim (t : Thread) (r : SReg) (n : Nat) : (t.emptyS r n).hclaim = t.hclaim := by unfold Thread.emptyS; split <;> rfl
@[simp] theorem Thread.emptyS_tagf (t : Thread) (r : SReg) (n : Nat) : (t.emptyS r n).tagf = t.tagf := by unfold Thread.emptyS; split <;> rfl
@[simp] theorem Thread.emptyS_tileb (t : Thread) (r : SReg) (n : Nat) : (t.emptyS r n).tileb = t.tileb := by unfold Thread.emptyS; split <;> rfl
@[simp] theorem Thread.emptyS_wsp (t : Thread) (r : SReg) (n : Nat) : (t.emptyS r n).wsp = t.wsp := by unfold Thread.emptyS; split <;> rfl
@[simp] theorem Thread.emptyS_self (t : Thread) (r : SReg) (n : Nat) : (t.emptyS r n).self = t.self := by unfold Thread.emptyS; split <;> rfl
@[simp] theorem Thread.emptyS_tvec (t : Thread) (r : SReg) (n : Nat) : (t.emptyS r n).tvec = t.tvec := by unfold Thread.emptyS; split <;> rfl
@[simp] theorem Thread.emptyS_epc (t : Thread) (r : SReg) (n : Nat) : (t.emptyS r n).epc = t.epc := by unfold Thread.emptyS; split <;> rfl
@[simp] theorem Thread.emptyS_ecause (t : Thread) (r : SReg) (n : Nat) : (t.emptyS r n).ecause = t.ecause := by unfold Thread.emptyS; split <;> rfl
@[simp] theorem Thread.emptyS_einfo (t : Thread) (r : SReg) (n : Nat) : (t.emptyS r n).einfo = t.einfo := by unfold Thread.emptyS; split <;> rfl
@[simp] theorem Thread.emptyS_einfo2 (t : Thread) (r : SReg) (n : Nat) : (t.emptyS r n).einfo2 = t.einfo2 := by unfold Thread.emptyS; split <;> rfl
@[simp] theorem Thread.emptyS_sepc (t : Thread) (r : SReg) (n : Nat) : (t.emptyS r n).sepc = t.sepc := by unfold Thread.emptyS; split <;> rfl
@[simp] theorem Thread.emptyS_scause (t : Thread) (r : SReg) (n : Nat) : (t.emptyS r n).scause = t.scause := by unfold Thread.emptyS; split <;> rfl
@[simp] theorem Thread.emptyS_sinfo (t : Thread) (r : SReg) (n : Nat) : (t.emptyS r n).sinfo = t.sinfo := by unfold Thread.emptyS; split <;> rfl
@[simp] theorem Thread.emptyS_sinfo2 (t : Thread) (r : SReg) (n : Nat) : (t.emptyS r n).sinfo2 = t.sinfo2 := by unfold Thread.emptyS; split <;> rfl
@[simp] theorem Thread.emptyS_mepc (t : Thread) (r : SReg) (n : Nat) : (t.emptyS r n).mepc = t.mepc := by unfold Thread.emptyS; split <;> rfl
@[simp] theorem Thread.emptyS_mcause (t : Thread) (r : SReg) (n : Nat) : (t.emptyS r n).mcause = t.mcause := by unfold Thread.emptyS; split <;> rfl
@[simp] theorem Thread.emptyS_minfo (t : Thread) (r : SReg) (n : Nat) : (t.emptyS r n).minfo = t.minfo := by unfold Thread.emptyS; split <;> rfl
@[simp] theorem Thread.emptyS_minfo2 (t : Thread) (r : SReg) (n : Nat) : (t.emptyS r n).minfo2 = t.minfo2 := by unfold Thread.emptyS; split <;> rfl
@[simp] theorem Thread.emptyS_dstore (t : Thread) (r : SReg) (n : Nat) : (t.emptyS r n).dstore = t.dstore := by unfold Thread.emptyS; split <;> rfl
@[simp] theorem Thread.emptyS_rowFaults (t : Thread) (r : SReg) (n : Nat) : (t.emptyS r n).rowFaults = t.rowFaults := by unfold Thread.emptyS; split <;> rfl
@[simp] theorem Thread.emptyS_fpMask (t : Thread) (r : SReg) (n : Nat) : (t.emptyS r n).fpMask = t.fpMask := by unfold Thread.emptyS; split <;> rfl
@[simp] theorem Thread.emptyS_shadow (t : Thread) (r : SReg) (n : Nat) : (t.emptyS r n).shadow = t.shadow := by unfold Thread.emptyS; split <;> rfl
@[simp] theorem Thread.emptyS_area (t : Thread) (r : SReg) (n : Nat) : (t.emptyS r n).area = t.area := by unfold Thread.emptyS; split <;> rfl
@[simp] theorem Thread.emptyS_line (t : Thread) (r : SReg) (n : Nat) : (t.emptyS r n).line = t.line := by unfold Thread.emptyS; split <;> rfl
@[simp] theorem Thread.emptyS_trapAt (t : Thread) (r : SReg) (n : Nat) : (t.emptyS r n).trapAt = t.trapAt := by unfold Thread.emptyS; split <;> rfl

/-- R38: `s0` reads 0 whatever has been written to it. -/
@[simp] theorem Thread.sv_zero (t : Thread) : t.sv 0 = 0 := by simp [Thread.sv]
theorem Thread.sv_setS (t : Thread) (r : SReg) (w : Word) (h : r ≠ 0) : (t.setS r w).sv r = w := by
  simp only [Thread.sv, Thread.setS, if_neg h]
  simp
theorem Thread.sv_setS_ne (t : Thread) (r q : SReg) (w : Word) (h : q ≠ r) : (t.setS r w).sv q = t.sv q := by
  unfold Thread.setS
  split
  · rfl
  · have h' : (r.toFin : Nat) ≠ q.toFin := fun e => h (BitVec.eq_of_toFin_eq (Fin.ext e.symm))
    simp only [Thread.sv]
    split
    · rfl
    · simp at h'; simp [h']

end Sys2Proof.Machine
end

