-- ==== Sys2Proof/Laws/Issue.lean ====
section
/-! SUPPORT. Issue: what a bundle of one head does when every register it names is full, and what the scan, the bundle's
end and a control transfer leave alone. -/
namespace Sys2Proof.Machine
namespace State

/-- The scan of R31 over full registers finds nothing. -/
theorem scan_full (s : State) (v : View) (ns : List Need) (h : ∀ n ∈ ns, s.refSt v n.ref = .full) : s.scan v ns = .none := by
  induction ns with
  | nil => rfl
  | cons n r ih =>
    simp only [scan, h n (by simp)]
    exact ih fun m hm => h m (by simp [hm])

/-- The loop step reads the thread alone, so a bundle whose thread keeps PC, counts and bounds meets the same end. -/
theorem loopStep_congr (t u : Thread) (n : Nat) (hp : u.pc = t.pc) (h0 : u.lc0 = t.lc0) (h1 : u.lc1 = t.lc1)
    (e0 : u.le0 = t.le0) (e1 : u.le1 = t.le1) : loopStep u n = loopStep t n := by
  simp only [loopStep, hp, h0, h1, e0, e1]

theorem loopTrap_none (s : State) (n : Nat) (h : (loopStep s.th n).2.2 = none) : s.loopTrap n = none := by
  simp [loopTrap, h]

/-- A head that takes effect and meets no loop's end completes its bundle. -/
theorem settle_ok (s t : State) (h : (loopStep t.th s.cur.width).2.2 = none) :
    s.settle (.ok t) = t.advance t.cur.hcount s.cur.width := by simp [settle, loopTrap_none _ _ h]

theorem settle_pend (s t : State) (w : WaitOn) (h : (loopStep t.th s.cur.width).2.2 = none) :
    s.settle (.pend t w) = (t.setMe { t.me with hcount := t.cur.hcount, width := s.cur.width }).park w := by
  simp [settle, loopTrap_none _ _ h]

theorem settle_wait (s t : State) (w : WaitOn) (h : (loopStep t.th s.cur.width).2.2 = none) :
    s.settle (.wait t w) = (t.advance t.cur.hcount s.cur.width).park w := by simp [settle, loopTrap_none _ _ h]

@[simp] theorem settle_jump (s t : State) (a : Nat) (m : Bool) : s.settle (.jump t a m) = t.transfer a m := rfl
@[simp] theorem settle_trap (s : State) (i : TrapInfo) : s.settle (.trap i) = (s.markLost i).takeTrap i := rfl
@[simp] theorem settle_park (s : State) (w : WaitOn) : s.settle (.park w) = s.park w := rfl
@[simp] theorem settle_turn (s t : State) : s.settle (.turn t) = t := rfl
@[simp] theorem settle_gone (s t : State) :
    s.settle (.gone t) = t.setHere { t.here with retired := t.here.retired + 1 } := rfl

/-- Only a shift error leaves a mark. -/
theorem markLost_other (s : State) (i : TrapInfo) (h : i.cause ≠ 0x0B) : s.markLost i = s := by simp [markLost, h]

end State

/-- A bundle of one head whose privilege suffices and whose registers are full comes to its effect. -/
theorem issue_full (priv : View → State → Option TrapInfo) (needs : View → List Need) (body : View → State → Head)
    (s : State) (h1 : s.pair = none) (hp : priv s.view s = none)
    (hf : ∀ n ∈ needs s.view, s.refSt s.view n.ref = .full) :
    issue priv needs body s = .next (s.settle (body s.view s)) := by
  simp only [issue, h1, hp, State.scan_full _ _ _ hf, State.settleScan]

/-- Without the privilege it needs, an instruction takes its trap and has no effect. -/
theorem issue_priv (priv : View → State → Option TrapInfo) (needs : View → List Need) (body : View → State → Head)
    (s : State) (i : TrapInfo) (h1 : s.pair = none) (hp : priv s.view s = some i) :
    issue priv needs body s = .next (s.takeTrap i) := by
  simp only [issue, h1, hp]

theorem plain_full (needs : List Need) (body : View → State → Head) (s : State) (h1 : s.pair = none)
    (hf : ∀ n ∈ needs, s.refSt s.view n.ref = .full) :
    plain needs body s = .next (s.settle (body s.view s)) :=
  issue_full _ _ _ _ h1 rfl hf

/-- An instruction at issue never stops: it answers a next state. -/
theorem issue_next (priv : View → State → Option TrapInfo) (needs : View → List Need) (body : View → State → Head)
    (s : State) : ∃ t, issue priv needs body s = .next t := by
  unfold issue
  split <;> exact ⟨_, rfl⟩

end Sys2Proof.Machine
end

