-- ==== Sys2Proof/Laws/Mem.lean ====
section
/-! SUPPORT. Storage: every operation keeps the canonical form, and a read after a write gives what was written. -/
namespace Sys2Proof.Machine

/-! ## Sorted lists -/

theorem rising_iff (l : List Nat) : rising l = true ↔ l.Pairwise (· < ·) := by
  induction l with
  | nil => simp [rising]
  | cons a r ih =>
    cases r with
    | nil => simp [rising]
    | cons b r =>
      simp only [rising, Bool.and_eq_true, decide_eq_true_eq, ih, List.pairwise_cons]
      constructor
      · rintro ⟨h, h1, h2⟩
        refine ⟨fun x hx => ?_, h1, h2⟩
        rcases List.mem_cons.1 hx with rfl | hx
        · exact h
        · exact Nat.lt_trans h (h1 x hx)
      · rintro ⟨h, h1, h2⟩
        exact ⟨h b (by simp), h1, h2⟩

theorem mem_keys_put {l : List (Nat × β)} {k x : Nat} {v : Option β} (h : x ∈ (put l k v).map (·.1)) :
    x = k ∨ x ∈ l.map (·.1) := by
  induction l with
  | nil => cases v <;> simp_all [put]
  | cons p r ih =>
    obtain ⟨k', y⟩ := p
    simp only [put] at h
    split at h
    · cases v <;> simp_all
    · split at h
      · cases v with
        | none => exact .inr (by simp_all)
        | some v => rcases List.mem_cons.1 h with h | h <;> simp_all
      · rcases List.mem_cons.1 h with h | h
        · exact .inr (by simp_all)
        · rcases ih h with h | h <;> simp_all

theorem rising_put {l : List (Nat × β)} (k : Nat) (v : Option β) (h : rising (l.map (·.1)) = true) :
    rising ((put l k v).map (·.1)) = true := by
  rw [rising_iff] at h ⊢
  induction l with
  | nil => cases v <;> simp [put]
  | cons p r ih =>
    obtain ⟨k', y⟩ := p
    simp only [List.map_cons, List.pairwise_cons] at h
    simp only [put]
    split
    · cases v with
      | none => simpa using h
      | some v =>
        simp only [List.map_cons, List.pairwise_cons]
        refine ⟨fun x hx => ?_, h⟩
        rcases List.mem_cons.1 hx with rfl | hx
        · assumption
        · exact Nat.lt_trans (by assumption) (h.1 x hx)
    · split
      · subst_vars
        cases v with
        | none => exact h.2
        | some v => simpa using h
      · simp only [List.map_cons, List.pairwise_cons]
        refine ⟨fun x hx => ?_, ih h.2⟩
        rcases mem_keys_put hx with rfl | hx
        · omega
        · exact h.1 x hx

theorem look_put_same (l : List (Nat × β)) (k : Nat) (v : Option β) (h : rising (l.map (·.1)) = true) :
    look (put l k v) k = v := by
  rw [rising_iff] at h
  induction l with
  | nil => cases v <;> simp [put, look]
  | cons p r ih =>
    obtain ⟨k', y⟩ := p
    simp only [List.map_cons, List.pairwise_cons] at h
    have gone : ∀ (q : List (Nat × β)), (∀ x ∈ q.map (·.1), k < x) → look q k = none := by
      intro q
      induction q with
      | nil => simp [look]
      | cons p q iq =>
        intro hq
        have : k ≠ p.1 := by have := hq p.1 (by simp); omega
        simp only [look, if_neg this]
        exact iq fun x hx => hq x (by simp_all)
    simp only [put]
    split
    · have hk : k ≠ k' := by omega
      cases v with
      | none =>
        simp only [look, if_neg hk]
        exact gone r fun x hx => Nat.lt_trans (by assumption) (h.1 x hx)
      | some v => simp [look]
    · split
      · subst_vars
        cases v with
        | none => exact gone r h.1
        | some v => simp [look]
      · simp only [look, if_neg (by assumption : ¬ k = k')]
        exact ih h.2

theorem look_put_ne (l : List (Nat × β)) (k j : Nat) (v : Option β) (h : j ≠ k) : look (put l k v) j = look l j := by
  induction l with
  | nil => cases v <;> simp [put, look, h]
  | cons p r ih =>
    obtain ⟨k', y⟩ := p
    simp only [put]
    split
    · cases v <;> simp [look, h]
    · split
      · subst_vars
        cases v <;> simp [look, h]
      · simp [look, ih]

theorem mem_mark {l : List Nat} {k x : Nat} {on : Bool} (h : x ∈ mark l k on) : x = k ∨ x ∈ l := by
  induction l with
  | nil => cases on <;> simp_all [mark]
  | cons k' r ih =>
    simp only [mark] at h
    split at h
    · cases on <;> simp_all
    · split at h
      · cases on with
        | false => exact .inr (by simp_all)
        | true => rcases List.mem_cons.1 h with h | h <;> simp_all
      · rcases List.mem_cons.1 h with h | h
        · exact .inr (by simp_all)
        · rcases ih h with h | h <;> simp_all

theorem rising_mark {l : List Nat} (k : Nat) (on : Bool) (h : rising l = true) : rising (mark l k on) = true := by
  rw [rising_iff] at h ⊢
  induction l with
  | nil => cases on <;> simp [mark]
  | cons k' r ih =>
    simp only [List.pairwise_cons] at h
    simp only [mark]
    split
    · cases on with
      | false => simpa using h
      | true =>
        simp only [if_true, List.pairwise_cons]
        refine ⟨fun x hx => ?_, h⟩
        rcases List.mem_cons.1 hx with rfl | hx
        · assumption
        · exact Nat.lt_trans (by assumption) (h.1 x hx)
    · split
      · subst_vars
        cases on with
        | false => exact h.2
        | true => simpa using h
      · simp only [List.pairwise_cons]
        refine ⟨fun x hx => ?_, ih h.2⟩
        rcases mem_mark hx with rfl | hx
        · omega
        · exact h.1 x hx

theorem rising_filter {l : List Nat} (p : Nat → Bool) (h : rising l = true) : rising (l.filter p) = true := by
  rw [rising_iff] at h ⊢
  exact h.filter p

theorem rising_map_filter {l : List (Nat × β)} (p : Nat × β → Bool) (h : rising (l.map (·.1)) = true) :
    rising ((l.filter p).map (·.1)) = true := by
  rw [rising_iff] at h ⊢
  exact h.sublist (List.filter_sublist.map _)

/-! ## The canonical form -/

theorem Mem.wf_iff (m : Mem) : m.wf = true ↔
    rising (m.bytes.map (·.1)) = true ∧ (∀ c ∈ m.bytes, c.2 ≠ Mem.blank) ∧ rising m.empty = true ∧
      rising m.tags = true ∧ rising m.poison = true ∧ rising (m.keys.map (·.1)) = true := by
  simp [Mem.wf, and_assoc]

theorem Mem.wf_zero : Mem.zero.wf = true := by decide

theorem mem_put {l : List (Nat × β)} {k : Nat} {v : Option β} {c : Nat × β} (h : c ∈ put l k v) :
    (∃ x, v = some x ∧ c = (k, x)) ∨ c ∈ l := by
  induction l with
  | nil => cases v <;> simp_all [put]
  | cons p r ih =>
    obtain ⟨k', y⟩ := p
    simp only [put] at h
    split at h
    · cases v <;> simp_all
    · split at h
      · cases v with
        | none => exact .inr (by simp_all)
        | some v => rcases List.mem_cons.1 h with h | h <;> simp_all
      · rcases List.mem_cons.1 h with h | h
        · exact .inr (by simp_all)
        · rcases ih h with h | h <;> simp_all

theorem Mem.setByte_wf (m : Mem) (a : Nat) (b : Byte) (h : m.wf = true) : (m.setByte a b).wf = true := by
  rw [Mem.wf_iff] at h ⊢
  refine ⟨rising_put _ _ h.1, fun c hc => ?_, h.2.2⟩
  rcases mem_put hc with ⟨x, hx, rfl⟩ | hc
  · split at hx
    · simp at hx
    · rename_i hb
      exact fun e => hb ((Option.some.inj hx).trans e)
  · exact h.2.1 c hc

theorem Mem.write_wf (m : Mem) (a : Nat) (l : List Byte) (h : m.wf = true) : (m.write a l).wf = true := by
  induction l generalizing m a with
  | nil => exact h
  | cons b r ih => exact ih _ _ (Mem.setByte_wf m a b h)

theorem Mem.setWord_wf (m : Mem) (i : Nat) (w : Word) (h : m.wf = true) : (m.setWord i w).wf = true :=
  Mem.write_wf _ _ _ h

theorem Mem.setFull_wf (m : Mem) (i : Nat) (on : Bool) (h : m.wf = true) : (m.setFull i on).wf = true := by
  rw [Mem.wf_iff] at h ⊢
  exact ⟨h.1, h.2.1, rising_mark _ _ h.2.2.1, h.2.2.2⟩

theorem Mem.setTag_wf (m : Mem) (i : Nat) (on : Bool) (h : m.wf = true) : (m.setTag i on).wf = true := by
  rw [Mem.wf_iff] at h ⊢
  exact ⟨h.1, h.2.1, h.2.2.1, rising_mark _ _ h.2.2.2.1, h.2.2.2.2⟩

theorem Mem.setBad_wf (m : Mem) (i : Nat) (on : Bool) (h : m.wf = true) : (m.setBad i on).wf = true := by
  rw [Mem.wf_iff] at h ⊢
  exact ⟨h.1, h.2.1, h.2.2.1, h.2.2.2.1, rising_mark _ _ h.2.2.2.2.1, h.2.2.2.2.2⟩

theorem Mem.keys_wf (m : Mem) (i : Nat) (k : Option KeySt) (h : m.wf = true) :
    ({ m with keys := put m.keys i k } : Mem).wf = true := by
  rw [Mem.wf_iff] at h ⊢
  exact ⟨h.1, h.2.1, h.2.2.1, h.2.2.2.1, h.2.2.2.2.1, rising_put _ _ h.2.2.2.2.2⟩

/-! ## Bytes -/

theorem Mem.byte_setByte (m : Mem) (a : Nat) (b : Byte) (h : m.wf = true) : (m.setByte a b).byte a = b := by
  rw [Mem.wf_iff] at h
  simp only [Mem.byte, Mem.setByte, look_put_same _ _ _ h.1]
  split
  · subst_vars; rfl
  · rfl

theorem Mem.byte_setByte_ne (m : Mem) (a c : Nat) (b : Byte) (h : c ≠ a) : (m.setByte a b).byte c = m.byte c := by
  simp [Mem.byte, Mem.setByte, look_put_ne _ _ _ _ h]

/-- A write leaves every byte outside it alone. -/
theorem Mem.byte_write_out (m : Mem) (a c : Nat) (l : List Byte) (h : c < a ∨ a + l.length ≤ c) :
    (m.write a l).byte c = m.byte c := by
  induction l generalizing m a with
  | nil => rfl
  | cons b r ih =>
    simp only [List.length_cons] at h
    rw [Mem.write, ih _ _ (by omega), Mem.byte_setByte_ne _ _ _ _ (by omega)]

/-- A byte inside a write reads as written. -/
theorem Mem.byte_write_in (m : Mem) (a i : Nat) (l : List Byte) (hm : m.wf = true) (h : i < l.length) :
    (m.write a l).byte (a + i) = l[i] := by
  induction l generalizing m a i with
  | nil => simp at h
  | cons b r ih =>
    cases i with
    | zero =>
      rw [Mem.write, Mem.byte_write_out _ _ _ _ (by omega)]
      simpa using Mem.byte_setByte m a b hm
    | succ i =>
      have := ih (m.setByte a b) (a + 1) i (Mem.setByte_wf _ _ _ hm) (by simpa using h)
      rw [Mem.write, show a + (i + 1) = a + 1 + i by omega, this]
      rfl

@[simp] theorem Mem.byte_setFull (m : Mem) (i a : Nat) (on : Bool) : (m.setFull i on).byte a = m.byte a := rfl
@[simp] theorem Mem.byte_setTag (m : Mem) (i a : Nat) (on : Bool) : (m.setTag i on).byte a = m.byte a := rfl
@[simp] theorem Mem.byte_setBad (m : Mem) (i a : Nat) (on : Bool) : (m.setBad i on).byte a = m.byte a := rfl

end Sys2Proof.Machine
end

