-- ==== Sys2Proof/Laws/Frames.lean ====
section
/-! SUPPORT. What the shared operations leave alone: device memory stays as it is, or keeps its canonical form. -/
namespace Sys2Proof.Machine
namespace State

/-! ## Operations that do not touch device memory -/

@[simp] theorem parkAt_mem (s : State) (c : CoreId) (n : SlotId) (w : WaitOn) : (s.parkAt c n w).mem = s.mem := rfl
@[simp] theorem park_mem (s : State) (w : WaitOn) : (s.park w).mem = s.mem := rfl
@[simp] theorem wake_mem (s : State) (c : CoreId) (n : SlotId) : (s.wake c n).mem = s.mem := by
  unfold wake; dsimp only; split <;> simp
@[simp] theorem advance_mem (s : State) (h w : Nat) : (s.advance h w).mem = s.mem := rfl
@[simp] theorem transfer_mem (s : State) (t : Nat) (m : Bool) : (s.transfer t m).mem = s.mem := rfl
@[simp] theorem freeze_mem (s : State) (c : Nat) : (s.freeze c).mem = s.mem := rfl
@[simp] theorem markLost_mem (s : State) (i : TrapInfo) : (s.markLost i).mem = s.mem := by
  unfold markLost; split <;> simp

@[simp] theorem entry_mem (s : State) (x : Level) (e : Nat) (i : TrapInfo) (d : Bool) (n : Nat) :
    (s.entry x e i d n).1.mem = s.mem := by
  unfold entry
  dsimp only
  split
  · simp
  · split <;> simp

/-- Trap entry writes registers of the thread, or freezes it (R142, R147). -/
@[simp] theorem enter_mem (s : State) (fuel : Nat) (x : Option Level) (e : Nat) (i : TrapInfo) (d : Bool) (n : Nat) :
    (s.enter fuel x e i d n).mem = s.mem := by
  induction fuel generalizing s x e i d n with
  | zero =>
    cases x with
    | none => simp [enter]
    | some x =>
      have h := entry_mem s x e i d n
      simp only [enter]
      split <;> simp_all
  | succ k ih =>
    cases x with
    | none => simp [enter]
    | some x =>
      have h := entry_mem s x e i d n
      simp only [enter]
      split
      · simp_all
      · rename_i t j hj
        rw [hj] at h
        split
        · simpa using h
        · rw [ih]; exact h

@[simp] theorem takeTrap_mem (s : State) (i : TrapInfo) : (s.takeTrap i).mem = s.mem := by
  unfold takeTrap; dsimp only; split <;> simp

@[simp] theorem clearFault_mem (s : State) (r : Ref) : (s.clearFault r).mem = s.mem := by
  unfold clearFault
  split
  · simp
  · simp
  · simp
  · split <;> simp

@[simp] theorem deliver_mem (s : State) (r : Option Ref) (d : Deferred) : (s.deliver r d).mem = s.mem := by
  unfold deliver; cases r <;> dsimp only <;> split <;> simp

/-- The end of a bundle leaves memory as its effect has left it. -/
theorem settle_mem (s : State) (h : Head) : (s.settle h).mem = match h with
    | .ok t => if (t.loopTrap s.cur.width).isSome then s.mem else t.mem
    | .jump t _ _ => t.mem
    | .trap _ => s.mem
    | .late t _ => t.mem
    | .park _ => s.mem
    | .pend t _ => if (t.loopTrap s.cur.width).isSome then s.mem else t.mem
    | .wait t _ => if (t.loopTrap s.cur.width).isSome then s.mem else t.mem
    | .turn t => t.mem
    | .gone t => t.mem := by
  cases h <;> simp [settle]
  all_goals split <;> simp_all

theorem settleScan_mem (s t : State) (n : Note) (h : s.settleScan n = some t) : t.mem = s.mem := by
  unfold settleScan at h
  split at h <;> simp at h <;> subst h <;> simp

@[simp] theorem mapUid_mem (s : State) (u : Nat) (f : Thread → Thread) : (s.mapUid u f).mem = s.mem := rfl
@[simp] theorem mergeFl_mem (s : State) (u : Nat) (f : BitVec 5) : (s.mergeFl u f).mem = s.mem := by
  unfold mergeFl; split <;> simp
@[simp] theorem mergeFlags_mem (s : State) (f : BitVec 5) : (mergeFlags s f).mem = s.mem := by
  unfold mergeFlags; split <;> simp
@[simp] theorem at_mem (s : State) (c : CoreId) (n : SlotId) : (s.at_ c n).mem = s.mem := rfl
@[simp] theorem answer_mem (s : State) (c : CoreId) (n : SlotId) : (s.answer c n).mem = s.mem := by
  unfold answer; dsimp only; split <;> simp
@[simp] theorem unreserveNode_mem (s : State) (r : Req) : (s.unreserveNode r).mem = s.mem := by
  unfold unreserveNode; split
  · dsimp only; split
    · rfl
    · rfl
  · rfl
theorem foldl_mem {α : Type} (f : State → α → State) (h : ∀ s x, (f s x).mem = s.mem) (l : List α) (s : State) :
    (l.foldl f s).mem = s.mem := by
  induction l generalizing s with
  | nil => rfl
  | cons x r ih => rw [List.foldl_cons, ih, h]
@[simp] theorem withdraw_mem (s : State) (c : CoreId) (n : SlotId) : (s.withdraw c n).mem = s.mem := by
  unfold withdraw
  simp only [setSlot_mem, setCore_mem]
  exact foldl_mem _ unreserveNode_mem _ _
@[simp] theorem reparkAt_mem (s : State) (c : CoreId) (n : SlotId) (w : WaitOn) : (s.reparkAt c n w).mem = s.mem := by
  unfold reparkAt; dsimp only; split <;> simp
@[simp] theorem answerTrap_mem (s : State) (c : CoreId) (n : SlotId) (i : TrapInfo) : (s.answerTrap c n i).mem = s.mem := by
  unfold answerTrap wakeTo; dsimp only; split <;> simp
@[simp] theorem mapSlots_mem (s : State) (f : CoreId → Slot → Slot) : (s.mapSlots f).mem = s.mem := rfl
@[simp] theorem addReq_mem (s : State) (r : Req) : (s.addReq r).mem = s.mem := rfl
@[simp] theorem setReq_mem (s : State) (r : Req) : (s.setReq r).mem = s.mem := rfl
@[simp] theorem dropReq_mem (s : State) (i : Nat) : (s.dropReq i).mem = s.mem := rfl
@[simp] theorem setLv_mem (s : State) (e : EntryId) (x : LvEntry) : (s.setLv e x).mem = s.mem := rfl

/-! ## Operations that write storage: the canonical form stays -/

theorem setSpace_wf (s : State) (sp : Space) (m : Mem) (hs : s.mem.wf = true) (hm : m.wf = true) :
    (s.setSpace sp m).mem.wf = true := by
  cases sp
  · exact hm
  · exact hs

theorem setFull_wf (s : State) (sp : Space) (i : Nat) (on : Bool) (h : s.mem.wf = true) : (s.setFull sp i on).mem.wf = true := by
  cases sp
  · exact Mem.setFull_wf _ _ _ h
  · exact h

theorem setTagAt_wf (s : State) (sp : Space) (i : Nat) (on : Bool) (h : s.mem.wf = true) : (s.setTagAt sp i on).mem.wf = true := by
  cases sp
  · exact Mem.setTag_wf _ _ _ h
  · exact h

theorem setBadAt_wf (s : State) (sp : Space) (i : Nat) (on : Bool) (h : s.mem.wf = true) : (s.setBadAt sp i on).mem.wf = true := by
  cases sp
  · exact Mem.setBad_wf _ _ _ h
  · exact h

theorem wrW_wf (s : State) (sp : Space) (i : Nat) (w : Word) (h : s.mem.wf = true) : (s.wrW sp i w).mem.wf = true := by
  cases sp
  · exact Mem.keys_wf _ _ _ (Mem.setWord_wf _ _ _ h)
  · exact h

theorem storeW_wf (s : State) (sp : Space) (i : Nat) (w : Word) (h : s.mem.wf = true) : (s.storeW sp i w).mem.wf = true :=
  setBadAt_wf _ _ _ _ (setTagAt_wf _ _ _ _ (wrW_wf _ _ _ _ h))

theorem storeN_wf (s : State) (sp : Space) (a n v : Nat) (h : s.mem.wf = true) : (s.storeN sp a n v).mem.wf = true := by
  unfold storeN
  dsimp only
  split
  · exact storeW_wf _ _ _ _ h
  · exact setTagAt_wf _ _ _ _ (wrW_wf _ _ _ _ h)

theorem clearWords_wf (s : State) (a n : Nat) (h : s.mem.wf = true) : (s.clearWords a n).mem.wf = true := by
  unfold clearWords
  simp only [Mem.wf_iff] at h ⊢
  obtain ⟨h1, h2, h3, h4, h5, h6⟩ := h
  exact ⟨rising_map_filter _ h1, fun c hc => h2 c ((List.mem_filter.1 hc).1), rising_filter _ h3, rising_filter _ h4,
    rising_filter _ h5, rising_map_filter _ h6⟩

end State

theorem issue_mem (priv : View → State → Option TrapInfo) (needs : View → List Need) (body : View → State → Head)
    (s : State) (h1 : s.pair = none) (h2 : priv s.view s = none) (h3 : s.settleScan (s.scan s.view (needs s.view)) = none) :
    ∃ t, issue priv needs body s = .next t ∧ t.mem = (s.settle (body s.view s)).mem := by
  simp only [issue, h1, h2, h3]
  exact ⟨_, rfl, rfl⟩

end Sys2Proof.Machine
end

