-- ==== Sys2Proof/Laws/PerInstr.lean ====
section
/-! SUPPORT. One lemma per instruction about the words the encoder gives it: at most three tails stand after the head, the head says
how many, P is 0, and the major opcode is one of the table's. A step of an engine has no words. -/
namespace Sys2Proof.Laws.Heads
open Sys2Proof

def Statement (i : Instr) : Prop :=
  ∀ (h : Half) (ts : List Half), i.wf = true → encode i = some (h :: ts) →
    ts.length ≤ 3 ∧ (unpackHead h).tl.toNat = ts.length ∧ (unpackHead h).p = false ∧ (unpackHead h).op.toNat ≤ 0x7D

theorem of_headOf {i : Instr} {op : BitVec 7} {d : BitVec 6} {l : List Half} (e : encode i = some (headOf op d l))
    (ho : op.toNat ≤ 0x7D) (hl : i.wf = true → l.length ≤ 3) : Statement i := by
  intro h ts hw e'
  rw [e] at e'
  obtain ⟨rfl, h1, h2⟩ := headOf_head op d l (hl hw) h ts (Option.some.inj e')
  exact ⟨hl hw, h2, by rw [h1], by rw [h1]; exact ho⟩

theorem of_none {i : Instr} (e : encode i = none) : Statement i := by
  intro h ts _ e'
  rw [e] at e'
  cases e'

theorem mI_length (z : BitVec 2) (sx rl : Bool) (m : MemI) : (mI z sx rl m).length = 2 := by cases m <;> rfl
theorem mA_length (z : BitVec 2) (m : MemA) : (mA z m).length ≤ 2 := by
  cases m with
  | imm m => exact Nat.le_of_eq (mI_length _ _ _ m)
  | idx m => exact Nat.le_succ 1

end Sys2Proof.Laws.Heads

open Sys2Proof Sys2Proof.Laws.Heads

theorem Sys2Proof.Laws.Heads.nop (d : BitVec 6) (hints : List Half) : Statement (.nop d hints) := of_headOf rfl (by decide) fun h => of_decide_eq_true h
theorem Sys2Proof.Laws.Heads.br (t : BTarget) : Statement (.br t) := of_headOf rfl (by decide) fun _ => Nat.le_of_ble_eq_true rfl
theorem Sys2Proof.Laws.Heads.bc (n : Bool) (c : CReg) (t : BTarget) : Statement (.bc n c t) := of_headOf rfl (by decide) fun _ => Nat.le_of_ble_eq_true rfl
theorem Sys2Proof.Laws.Heads.jmp (s : SReg) : Statement (.jmp s) := of_headOf rfl (by decide) fun _ => Nat.le_of_ble_eq_true rfl
theorem Sys2Proof.Laws.Heads.callw (t : BTarget) : Statement (.callw t) := of_headOf rfl (by decide) fun _ => Nat.le_of_ble_eq_true rfl
theorem Sys2Proof.Laws.Heads.callwx (s : SReg) : Statement (.callwx s) := of_headOf rfl (by decide) fun _ => Nat.le_of_ble_eq_true rfl
theorem Sys2Proof.Laws.Heads.retw : Statement .retw := of_headOf rfl (by decide) fun _ => Nat.le_of_ble_eq_true rfl
theorem Sys2Proof.Laws.Heads.loop (cnt : SReg) (e : BTarget) : Statement (.loop cnt e) := of_headOf rfl (by decide) fun _ => Nat.le_of_ble_eq_true rfl
theorem Sys2Proof.Laws.Heads.loopImm (cnt : Half) (e : BTarget) : Statement (.loopImm cnt e) := of_headOf rfl (by decide) fun _ => Nat.le_of_ble_eq_true rfl
theorem Sys2Proof.Laws.Heads.park (c : CReg) : Statement (.park c) := of_headOf rfl (by decide) fun _ => Nat.le_of_ble_eq_true rfl
theorem Sys2Proof.Laws.Heads.yield : Statement .yield := of_headOf rfl (by decide) fun _ => Nat.le_of_ble_eq_true rfl
theorem Sys2Proof.Laws.Heads.halt : Statement .halt := of_headOf rfl (by decide) fun _ => Nat.le_of_ble_eq_true rfl
theorem Sys2Proof.Laws.Heads.trap (n : Half) : Statement (.trap n) := of_headOf rfl (by decide) fun _ => Nat.le_of_ble_eq_true rfl
theorem Sys2Proof.Laws.Heads.eret : Statement .eret := of_headOf rfl (by decide) fun _ => Nat.le_of_ble_eq_true rfl
theorem Sys2Proof.Laws.Heads.xret : Statement .xret := of_headOf rfl (by decide) fun _ => Nat.le_of_ble_eq_true rfl
theorem Sys2Proof.Laws.Heads.csrr (d : SReg) (n : BitVec 12) : Statement (.csrr d n) := of_headOf rfl (by decide) fun _ => Nat.le_of_ble_eq_true rfl
theorem Sys2Proof.Laws.Heads.csrw (s : SReg) (n : BitVec 12) : Statement (.csrw s n) := of_headOf rfl (by decide) fun _ => Nat.le_of_ble_eq_true rfl
theorem Sys2Proof.Laws.Heads.add (f : AddF) (d : SReg) (a b : Src) : Statement (.add f d a b) := of_headOf rfl (by decide) fun _ => Nat.le_of_ble_eq_true rfl
theorem Sys2Proof.Laws.Heads.sub (f : AddF) (d : SReg) (a b : Src) : Statement (.sub f d a b) := of_headOf rfl (by decide) fun _ => Nat.le_of_ble_eq_true rfl
theorem Sys2Proof.Laws.Heads.addi (f : AddF) (d : SReg) (a : Src) (imm : Half) : Statement (.addi f d a imm) := of_headOf rfl (by decide) fun _ => Nat.le_of_ble_eq_true rfl
theorem Sys2Proof.Laws.Heads.mul (d : SReg) (a b : Src) : Statement (.mul d a b) := of_headOf rfl (by decide) fun _ => Nat.le_of_ble_eq_true rfl
theorem Sys2Proof.Laws.Heads.mulh (f : MulhF) (d : SReg) (a b : Src) : Statement (.mulh f d a b) := of_headOf rfl (by decide) fun _ => Nat.le_of_ble_eq_true rfl
theorem Sys2Proof.Laws.Heads.div (u : Bool) (d : SReg) (a b : Src) : Statement (.div u d a b) := of_headOf rfl (by decide) fun _ => Nat.le_of_ble_eq_true rfl
theorem Sys2Proof.Laws.Heads.rem (u : Bool) (d : SReg) (a b : Src) : Statement (.rem u d a b) := of_headOf rfl (by decide) fun _ => Nat.le_of_ble_eq_true rfl
theorem Sys2Proof.Laws.Heads.and (d : SReg) (a b : Src) : Statement (.and d a b) := of_headOf rfl (by decide) fun _ => Nat.le_of_ble_eq_true rfl
theorem Sys2Proof.Laws.Heads.or (d : SReg) (a b : Src) : Statement (.or d a b) := of_headOf rfl (by decide) fun _ => Nat.le_of_ble_eq_true rfl
theorem Sys2Proof.Laws.Heads.xor (d : SReg) (a b : Src) : Statement (.xor d a b) := of_headOf rfl (by decide) fun _ => Nat.le_of_ble_eq_true rfl
theorem Sys2Proof.Laws.Heads.andn (d : SReg) (a b : Src) : Statement (.andn d a b) := of_headOf rfl (by decide) fun _ => Nat.le_of_ble_eq_true rfl
theorem Sys2Proof.Laws.Heads.shl (d : SReg) (a : Src) (m : ShAmt) : Statement (.shl d a m) := of_headOf rfl (by decide) fun _ => Nat.le_of_ble_eq_true rfl
theorem Sys2Proof.Laws.Heads.shr (d : SReg) (a : Src) (m : ShAmt) : Statement (.shr d a m) := of_headOf rfl (by decide) fun _ => Nat.le_of_ble_eq_true rfl
theorem Sys2Proof.Laws.Heads.sar (d : SReg) (a : Src) (m : ShAmt) : Statement (.sar d a m) := of_headOf rfl (by decide) fun _ => Nat.le_of_ble_eq_true rfl
theorem Sys2Proof.Laws.Heads.rotr (d : SReg) (a : Src) (m : ShAmt) : Statement (.rotr d a m) := of_headOf rfl (by decide) fun _ => Nat.le_of_ble_eq_true rfl
theorem Sys2Proof.Laws.Heads.min (u : Bool) (d : SReg) (a b : Src) : Statement (.min u d a b) := of_headOf rfl (by decide) fun _ => Nat.le_of_ble_eq_true rfl
theorem Sys2Proof.Laws.Heads.max (u : Bool) (d : SReg) (a b : Src) : Statement (.max u d a b) := of_headOf rfl (by decide) fun _ => Nat.le_of_ble_eq_true rfl
theorem Sys2Proof.Laws.Heads.cmp (r : Rel) (d : BitVec 3) (a b : Src) : Statement (.cmp r d a b) := of_headOf rfl (by decide) fun _ => Nat.le_of_ble_eq_true rfl
theorem Sys2Proof.Laws.Heads.cmpi (r : Rel) (d : BitVec 3) (a : Src) (imm : Half) : Statement (.cmpi r d a imm) := of_headOf rfl (by decide) fun _ => Nat.le_of_ble_eq_true rfl
theorem Sys2Proof.Laws.Heads.sel (d : SReg) (a b : Src) (c : CReg) : Statement (.sel d a b c) := of_headOf rfl (by decide) fun _ => Nat.le_of_ble_eq_true rfl
theorem Sys2Proof.Laws.Heads.li (d : SReg) (imm : Half) : Statement (.li d imm) := of_headOf rfl (by decide) fun _ => Nat.le_of_ble_eq_true rfl
theorem Sys2Proof.Laws.Heads.lih (pos : BitVec 2) (d : SReg) (a : Src) (imm : Half) : Statement (.lih pos d a imm) := of_headOf rfl (by decide) fun _ => Nat.le_of_ble_eq_true rfl
theorem Sys2Proof.Laws.Heads.clz (trail : Bool) (d : SReg) (a : Src) : Statement (.clz trail d a) := of_headOf rfl (by decide) fun _ => Nat.le_of_ble_eq_true rfl
theorem Sys2Proof.Laws.Heads.popc (d : SReg) (a : Src) : Statement (.popc d a) := of_headOf rfl (by decide) fun _ => Nat.le_of_ble_eq_true rfl
theorem Sys2Proof.Laws.Heads.bfx (sgn : Bool) (d : SReg) (a : Src) (pos : BitVec 6) (len : BitVec 7) : Statement (.bfx sgn d a pos len) :=
  of_headOf rfl (by decide) fun _ => Nat.le_of_ble_eq_true rfl
theorem Sys2Proof.Laws.Heads.bfi (d : SReg) (a b : Src) (pos : BitVec 6) (len : BitVec 7) : Statement (.bfi d a b pos len) := of_headOf rfl (by decide) fun _ => Nat.le_of_ble_eq_true rfl
theorem Sys2Proof.Laws.Heads.clmul (hi : Bool) (d : SReg) (a b : Src) : Statement (.clmul hi d a b) := of_headOf rfl (by decide) fun _ => Nat.le_of_ble_eq_true rfl
theorem Sys2Proof.Laws.Heads.movc (d : SReg) : Statement (.movc d) := of_headOf rfl (by decide) fun _ => Nat.le_of_ble_eq_true rfl
theorem Sys2Proof.Laws.Heads.movcWr (a : Src) : Statement (.movcWr a) := of_headOf rfl (by decide) fun _ => Nat.le_of_ble_eq_true rfl
theorem Sys2Proof.Laws.Heads.pair (d : SReg) (a : Src) : Statement (.pair d a) := of_headOf rfl (by decide) fun _ => Nat.le_of_ble_eq_true rfl
theorem Sys2Proof.Laws.Heads.pairOff (d : SReg) (a : Src) : Statement (.pairOff d a) := of_headOf rfl (by decide) fun _ => Nat.le_of_ble_eq_true rfl
theorem Sys2Proof.Laws.Heads.pairSt (d : SReg) (a : Src) : Statement (.pairSt d a) := of_headOf rfl (by decide) fun _ => Nat.le_of_ble_eq_true rfl
theorem Sys2Proof.Laws.Heads.harvest (d : SReg) (a b : Src) : Statement (.harvest d a b) := of_headOf rfl (by decide) fun _ => Nat.le_of_ble_eq_true rfl
theorem Sys2Proof.Laws.Heads.xlw (k : KReg) (a b : Src) : Statement (.xlw k a b) := of_headOf rfl (by decide) fun _ => Nat.le_of_ble_eq_true rfl
theorem Sys2Proof.Laws.Heads.fadd (p : Prec) (r : Rnd) (d : SReg) (a b : Src) : Statement (.fadd p r d a b) := of_headOf rfl (by decide) fun _ => Nat.le_of_ble_eq_true rfl
theorem Sys2Proof.Laws.Heads.fsub (p : Prec) (r : Rnd) (d : SReg) (a b : Src) : Statement (.fsub p r d a b) := of_headOf rfl (by decide) fun _ => Nat.le_of_ble_eq_true rfl
theorem Sys2Proof.Laws.Heads.fmul (p : Prec) (r : Rnd) (d : SReg) (a b : Src) : Statement (.fmul p r d a b) := of_headOf rfl (by decide) fun _ => Nat.le_of_ble_eq_true rfl
theorem Sys2Proof.Laws.Heads.fdiv (p : Prec) (r : Rnd) (d : SReg) (a b : Src) : Statement (.fdiv p r d a b) := of_headOf rfl (by decide) fun _ => Nat.le_of_ble_eq_true rfl
theorem Sys2Proof.Laws.Heads.fsqrt (p : Prec) (r : Rnd) (d : SReg) (a : Src) : Statement (.fsqrt p r d a) := of_headOf rfl (by decide) fun _ => Nat.le_of_ble_eq_true rfl
theorem Sys2Proof.Laws.Heads.fma (f : FmaF) (p : Prec) (r : Rnd) (d : SReg) (a b c : Src) : Statement (.fma f p r d a b c) := of_headOf rfl (by decide) fun _ => Nat.le_of_ble_eq_true rfl
theorem Sys2Proof.Laws.Heads.fminmax (f : MinMaxF) (p : Prec) (d : SReg) (a b : Src) : Statement (.fminmax f p d a b) := of_headOf rfl (by decide) fun _ => Nat.le_of_ble_eq_true rfl
theorem Sys2Proof.Laws.Heads.fcmp (f : FCmpF) (p : Prec) (d : BitVec 3) (a b : Src) : Statement (.fcmp f p d a b) := of_headOf rfl (by decide) fun _ => Nat.le_of_ble_eq_true rfl
theorem Sys2Proof.Laws.Heads.fcvt (k : CvtK) (p : Prec) (r : Rnd) (d : SReg) (a : Src) : Statement (.fcvt k p r d a) := of_headOf rfl (by decide) fun _ => Nat.le_of_ble_eq_true rfl
theorem Sys2Proof.Laws.Heads.fclass (p : Prec) (d : SReg) (a : Src) : Statement (.fclass p d a) := of_headOf rfl (by decide) fun _ => Nat.le_of_ble_eq_true rfl
theorem Sys2Proof.Laws.Heads.fsgn (f : SgnF) (p : Prec) (d : SReg) (a b : Src) : Statement (.fsgn f p d a b) := of_headOf rfl (by decide) fun _ => Nat.le_of_ble_eq_true rfl
theorem Sys2Proof.Laws.Heads.frint (x : Bool) (p : Prec) (r : Rnd) (d : SReg) (a : Src) : Statement (.frint x p r d a) := of_headOf rfl (by decide) fun _ => Nat.le_of_ble_eq_true rfl
theorem Sys2Proof.Laws.Heads.tdset (t : TensorId) (k : KReg) (x : SReg) : Statement (.tdset t k x) := of_headOf rfl (by decide) fun _ => Nat.le_of_ble_eq_true rfl
theorem Sys2Proof.Laws.Heads.tdget (d : SReg) (t : TensorId) (x : SReg) : Statement (.tdget d t x) := of_headOf rfl (by decide) fun _ => Nat.le_of_ble_eq_true rfl
theorem Sys2Proof.Laws.Heads.tdgetVer (d : SReg) (t : TensorId) : Statement (.tdgetVer d t) := of_headOf rfl (by decide) fun _ => Nat.le_of_ble_eq_true rfl
theorem Sys2Proof.Laws.Heads.taskCopy (d x : SReg) (a b : Src) (go : Bool) : Statement (.taskCopy d x a b go) := of_headOf rfl (by decide) fun _ => Nat.le_of_ble_eq_true rfl
theorem Sys2Proof.Laws.Heads.taskGather (d : SReg) (t : TensorId) (x : SReg) (a b : Src) (go : Bool) : Statement (.taskGather d t x a b go) := of_headOf rfl (by decide) fun _ => Nat.le_of_ble_eq_true rfl
theorem Sys2Proof.Laws.Heads.taskScatter (d : SReg) (t : TensorId) (x : SReg) (a b : Src) (go : Bool) : Statement (.taskScatter d t x a b go) := of_headOf rfl (by decide) fun _ => Nat.le_of_ble_eq_true rfl
theorem Sys2Proof.Laws.Heads.taskScatterAdd (d : SReg) (t : TensorId) (x : SReg) (a b : Src) (go : Bool) : Statement (.taskScatterAdd d t x a b go) := of_headOf rfl (by decide) fun _ => Nat.le_of_ble_eq_true rfl
theorem Sys2Proof.Laws.Heads.taskReduce (d x : SReg) (a b : Src) (go : Bool) : Statement (.taskReduce d x a b go) := of_headOf rfl (by decide) fun _ => Nat.le_of_ble_eq_true rfl
theorem Sys2Proof.Laws.Heads.taskCollective (d x : SReg) (a b : Src) (go : Bool) : Statement (.taskCollective d x a b go) := of_headOf rfl (by decide) fun _ => Nat.le_of_ble_eq_true rfl
theorem Sys2Proof.Laws.Heads.taskMigratePage (d x : SReg) (a b : Src) (go : Bool) : Statement (.taskMigratePage d x a b go) := of_headOf rfl (by decide) fun _ => Nat.le_of_ble_eq_true rfl
theorem Sys2Proof.Laws.Heads.tdep (a b : Src) : Statement (.tdep a b) := of_headOf rfl (by decide) fun _ => Nat.le_of_ble_eq_true rfl
theorem Sys2Proof.Laws.Heads.tdepGo (a : Src) : Statement (.tdepGo a) := of_headOf rfl (by decide) fun _ => Nat.le_of_ble_eq_true rfl
theorem Sys2Proof.Laws.Heads.ld (z : Size) (sx rlx : Bool) (d : SReg) (m : MemI) : Statement (.ld z sx rlx d m) := of_headOf rfl (by decide) fun _ => by rw [mI_length]; decide
theorem Sys2Proof.Laws.Heads.ldIndexed (z : Size) (sx rlx : Bool) (d : SReg) (m : MemX) : Statement (.ldIndexed z sx rlx d m) := of_headOf rfl (by decide) fun _ => Nat.le_of_ble_eq_true rfl
theorem Sys2Proof.Laws.Heads.ldPostinc (z : Size) (sx rlx : Bool) (d : SReg) (m : MemX) : Statement (.ldPostinc z sx rlx d m) := of_headOf rfl (by decide) fun _ => Nat.le_of_ble_eq_true rfl
theorem Sys2Proof.Laws.Heads.st (z : Size) (rlx : Bool) (d : SReg) (m : MemI) : Statement (.st z rlx d m) := of_headOf rfl (by decide) fun _ => by rw [mI_length]; decide
theorem Sys2Proof.Laws.Heads.stIndexed (z : Size) (rlx : Bool) (d : SReg) (m : MemX) : Statement (.stIndexed z rlx d m) := of_headOf rfl (by decide) fun _ => Nat.le_of_ble_eq_true rfl
theorem Sys2Proof.Laws.Heads.stPostinc (z : Size) (rlx : Bool) (d : SReg) (m : MemX) : Statement (.stPostinc z rlx d m) := of_headOf rfl (by decide) fun _ => Nat.le_of_ble_eq_true rfl
theorem Sys2Proof.Laws.Heads.ldb (sx : Bool) (d : SReg) (m : MemX) : Statement (.ldb sx d m) := of_headOf rfl (by decide) fun _ => Nat.le_of_ble_eq_true rfl
theorem Sys2Proof.Laws.Heads.stb (d : SReg) (m : MemX) : Statement (.stb d m) := of_headOf rfl (by decide) fun _ => Nat.le_of_ble_eq_true rfl
theorem Sys2Proof.Laws.Heads.lds (f : LdsMode) (d : SReg) (m : MemI) : Statement (.lds f d m) := of_headOf rfl (by decide) fun _ => by rw [mI_length]; decide
theorem Sys2Proof.Laws.Heads.ldsIndexed (f : LdsMode) (d : SReg) (m : MemX) : Statement (.ldsIndexed f d m) := of_headOf rfl (by decide) fun _ => Nat.le_of_ble_eq_true rfl
theorem Sys2Proof.Laws.Heads.sts (f : StsMode) (d : SReg) (m : MemI) : Statement (.sts f d m) := of_headOf rfl (by decide) fun _ => by rw [mI_length]; decide
theorem Sys2Proof.Laws.Heads.stsIndexed (f : StsMode) (d : SReg) (m : MemX) : Statement (.stsIndexed f d m) := of_headOf rfl (by decide) fun _ => Nat.le_of_ble_eq_true rfl
theorem Sys2Proof.Laws.Heads.amo (f : AmoF) (wide : Bool) (d : SReg) (m : MemA) (a b : Src) : Statement (.amo f wide d m a b) := of_headOf rfl (by decide) fun _ => by rw [List.length_append]; exact Nat.add_le_add_right (mA_length (if wide then 3 else 2) m) 1
theorem Sys2Proof.Laws.Heads.fence (sc : Scope) : Statement (.fence sc) := of_headOf rfl (by decide) fun _ => Nat.le_of_ble_eq_true rfl
theorem Sys2Proof.Laws.Heads.ldv (rlx : Bool) (v : VReg) (m : MemI) : Statement (.ldv rlx v m) := of_headOf rfl (by decide) fun _ => by rw [mI_length]; decide
theorem Sys2Proof.Laws.Heads.ldvIndexed (rlx : Bool) (v : VReg) (m : MemX) : Statement (.ldvIndexed rlx v m) := of_headOf rfl (by decide) fun _ => Nat.le_of_ble_eq_true rfl
theorem Sys2Proof.Laws.Heads.stv (rlx : Bool) (v : VReg) (m : MemI) : Statement (.stv rlx v m) := of_headOf rfl (by decide) fun _ => by rw [mI_length]; decide
theorem Sys2Proof.Laws.Heads.stvIndexed (rlx : Bool) (v : VReg) (m : MemX) : Statement (.stvIndexed rlx v m) := of_headOf rfl (by decide) fun _ => Nat.le_of_ble_eq_true rfl
theorem Sys2Proof.Laws.Heads.kld (k : KReg) (m : MemI) : Statement (.kld k m) := of_headOf rfl (by decide) fun _ => by rw [mI_length]; decide
theorem Sys2Proof.Laws.Heads.kldIndexed (k : KReg) (m : MemX) : Statement (.kldIndexed k m) := of_headOf rfl (by decide) fun _ => Nat.le_of_ble_eq_true rfl
theorem Sys2Proof.Laws.Heads.kst (k : KReg) (m : MemI) : Statement (.kst k m) := of_headOf rfl (by decide) fun _ => by rw [mI_length]; decide
theorem Sys2Proof.Laws.Heads.kstIndexed (k : KReg) (m : MemX) : Statement (.kstIndexed k m) := of_headOf rfl (by decide) fun _ => Nat.le_of_ble_eq_true rfl
theorem Sys2Proof.Laws.Heads.knarrow (d : KReg) (k : KSrc) (off len mask : Src) : Statement (.knarrow d k off len mask) := of_headOf rfl (by decide) fun _ => Nat.le_of_ble_eq_true rfl
theorem Sys2Proof.Laws.Heads.kinfo (f : KInfoF) (d : SReg) (k : KSrc) : Statement (.kinfo f d k) := of_headOf rfl (by decide) fun _ => Nat.le_of_ble_eq_true rfl
theorem Sys2Proof.Laws.Heads.spliceIns (d : SReg) (t : TensorId) (x : SReg) (k : KSrc) (b : Src) : Statement (.spliceIns d t x k b) := of_headOf rfl (by decide) fun _ => Nat.le_of_ble_eq_true rfl
theorem Sys2Proof.Laws.Heads.spliceRem (d : SReg) (t : TensorId) (x : SReg) : Statement (.spliceRem d t x) := of_headOf rfl (by decide) fun _ => Nat.le_of_ble_eq_true rfl
theorem Sys2Proof.Laws.Heads.spliceRep (d : SReg) (t : TensorId) (x : SReg) (k : KSrc) (b : Src) : Statement (.spliceRep d t x k b) := of_headOf rfl (by decide) fun _ => Nat.le_of_ble_eq_true rfl
theorem Sys2Proof.Laws.Heads.spin (d : SReg) (t : TensorId) : Statement (.spin d t) := of_headOf rfl (by decide) fun _ => Nat.le_of_ble_eq_true rfl
theorem Sys2Proof.Laws.Heads.spinUn (t : TensorId) (x : SReg) : Statement (.spinUn t x) := of_headOf rfl (by decide) fun _ => Nat.le_of_ble_eq_true rfl
theorem Sys2Proof.Laws.Heads.send (p : SReg) (n : BitVec 3) (a b : Src) : Statement (.send p n a b) := of_headOf rfl (by decide) fun _ => Nat.le_of_ble_eq_true rfl
theorem Sys2Proof.Laws.Heads.recv (d : SReg) : Statement (.recv d) := of_headOf rfl (by decide) fun _ => Nat.le_of_ble_eq_true rfl
theorem Sys2Proof.Laws.Heads.nsend (d : SReg) (p : Port) : Statement (.nsend d p) := of_headOf rfl (by decide) fun _ => Nat.le_of_ble_eq_true rfl
theorem Sys2Proof.Laws.Heads.nrecv (d : SReg) (p : Port) : Statement (.nrecv d p) := of_headOf rfl (by decide) fun _ => Nat.le_of_ble_eq_true rfl
theorem Sys2Proof.Laws.Heads.spawn (d : SReg) (spread : Bool) (cnt rng args q : Src) (e : BTarget) : Statement (.spawn d spread cnt rng args q e) :=
  of_headOf rfl (by decide) fun _ => Nat.le_of_ble_eq_true rfl
theorem Sys2Proof.Laws.Heads.cancel (l : Lvl) (a : Src) : Statement (.cancel l a) := of_headOf rfl (by decide) fun _ => Nat.le_of_ble_eq_true rfl
theorem Sys2Proof.Laws.Heads.join (l : Lvl) (a : Src) : Statement (.join l a) := of_headOf rfl (by decide) fun _ => Nat.le_of_ble_eq_true rfl
theorem Sys2Proof.Laws.Heads.migr (d : SReg) : Statement (.migr d) := of_headOf rfl (by decide) fun _ => Nat.le_of_ble_eq_true rfl
theorem Sys2Proof.Laws.Heads.hclm (d : SReg) (t : TrackId) : Statement (.hclm d t) := of_headOf rfl (by decide) fun _ => Nat.le_of_ble_eq_true rfl
theorem Sys2Proof.Laws.Heads.hclmAny (d : SReg) : Statement (.hclmAny d) := of_headOf rfl (by decide) fun _ => Nat.le_of_ble_eq_true rfl
theorem Sys2Proof.Laws.Heads.hrel (t : TrackId) : Statement (.hrel t) := of_headOf rfl (by decide) fun _ => Nat.le_of_ble_eq_true rfl
theorem Sys2Proof.Laws.Heads.hseek (t : TrackId) (p : BitVec 8) : Statement (.hseek t p) := of_headOf rfl (by decide) fun _ => Nat.le_of_ble_eq_true rfl
theorem Sys2Proof.Laws.Heads.hseekReg (t : TrackId) (s : SReg) : Statement (.hseekReg t s) := of_headOf rfl (by decide) fun _ => Nat.le_of_ble_eq_true rfl
theorem Sys2Proof.Laws.Heads.hrds (t : TrackId) (v : VReg) (nb : Bool) (step : BitVec 6) : Statement (.hrds t v nb step) := of_headOf rfl (by decide) fun _ => Nat.le_of_ble_eq_true rfl
theorem Sys2Proof.Laws.Heads.hwrs (t : TrackId) (v : Src) (step : BitVec 6) : Statement (.hwrs t v step) := of_headOf rfl (by decide) fun _ => Nat.le_of_ble_eq_true rfl
theorem Sys2Proof.Laws.Heads.hrwd (t : TrackId) : Statement (.hrwd t) := of_headOf rfl (by decide) fun _ => Nat.le_of_ble_eq_true rfl
theorem Sys2Proof.Laws.Heads.hrwdR (t : TrackId) : Statement (.hrwdR t) := of_headOf rfl (by decide) fun _ => Nat.le_of_ble_eq_true rfl
theorem Sys2Proof.Laws.Heads.hpos (d : SReg) (t : TrackId) : Statement (.hpos d t) := of_headOf rfl (by decide) fun _ => Nat.le_of_ble_eq_true rfl
theorem Sys2Proof.Laws.Heads.hfill (t : TrackId) (v : Src) (step : BitVec 6) (a : Src) : Statement (.hfill t v step a) := of_headOf rfl (by decide) fun _ => Nat.le_of_ble_eq_true rfl
theorem Sys2Proof.Laws.Heads.rret (d : SReg) (v : Src) : Statement (.rret d v) := of_headOf rfl (by decide) fun _ => Nat.le_of_ble_eq_true rfl
theorem Sys2Proof.Laws.Heads.rtbl (a b : Src) : Statement (.rtbl a b) := of_headOf rfl (by decide) fun _ => Nat.le_of_ble_eq_true rfl
theorem Sys2Proof.Laws.Heads.rtblRm (a : Src) : Statement (.rtblRm a) := of_headOf rfl (by decide) fun _ => Nat.le_of_ble_eq_true rfl
theorem Sys2Proof.Laws.Heads.abind (t : TileId) (ty : ETy) : Statement (.abind t ty) := of_headOf rfl (by decide) fun _ => Nat.le_of_ble_eq_true rfl
theorem Sys2Proof.Laws.Heads.abindOff : Statement .abindOff := of_headOf rfl (by decide) fun _ => Nat.le_of_ble_eq_true rfl
theorem Sys2Proof.Laws.Heads.asave (t : TileId) (m : MemI) : Statement (.asave t m) := of_headOf rfl (by decide) fun _ => by rw [mI_length]; decide
theorem Sys2Proof.Laws.Heads.asaveIndexed (t : TileId) (m : MemX) : Statement (.asaveIndexed t m) := of_headOf rfl (by decide) fun _ => Nat.le_of_ble_eq_true rfl
theorem Sys2Proof.Laws.Heads.aload (t : TileId) (m : MemI) : Statement (.aload t m) := of_headOf rfl (by decide) fun _ => by rw [mI_length]; decide
theorem Sys2Proof.Laws.Heads.aloadIndexed (t : TileId) (m : MemX) : Statement (.aloadIndexed t m) := of_headOf rfl (by decide) fun _ => Nat.le_of_ble_eq_true rfl
theorem Sys2Proof.Laws.Heads.azero (t : TileId) (first : BitVec 5) (count : BitVec 6) : Statement (.azero t first count) := of_headOf rfl (by decide) fun _ => Nat.le_of_ble_eq_true rfl
theorem Sys2Proof.Laws.Heads.mcfg (a : Src) : Statement (.mcfg a) := of_headOf rfl (by decide) fun _ => Nat.le_of_ble_eq_true rfl
theorem Sys2Proof.Laws.Heads.mldw (tr : Bool) (src : ASrc) (t : TensorId) (x : SReg) : Statement (.mldw tr src t x) := of_headOf rfl (by decide) fun _ => Nat.le_of_ble_eq_true rfl
theorem Sys2Proof.Laws.Heads.mswap : Statement .mswap := of_headOf rfl (by decide) fun _ => Nat.le_of_ble_eq_true rfl
theorem Sys2Proof.Laws.Heads.mma (ow : Bool) (src : ASrc) (d : TileId) (t : TensorId) (x : SReg) : Statement (.mma ow src d t x) :=
  of_headOf rfl (by decide) fun _ => Nat.le_of_ble_eq_true rfl
theorem Sys2Proof.Laws.Heads.vadd (sc : Bool) (d : VReg) (a b : Src) : Statement (.vadd sc d a b) := of_headOf rfl (by decide) fun _ => Nat.le_of_ble_eq_true rfl
theorem Sys2Proof.Laws.Heads.vaddTv2 (sc : Bool) (d : VReg) (a b : Src) (m : Mods) : Statement (.vaddTv2 sc d a b m) := of_headOf rfl (by decide) fun _ => Nat.le_of_ble_eq_true rfl
theorem Sys2Proof.Laws.Heads.vsub (sc : Bool) (d : VReg) (a b : Src) : Statement (.vsub sc d a b) := of_headOf rfl (by decide) fun _ => Nat.le_of_ble_eq_true rfl
theorem Sys2Proof.Laws.Heads.vsubTv2 (sc : Bool) (d : VReg) (a b : Src) (m : Mods) : Statement (.vsubTv2 sc d a b m) := of_headOf rfl (by decide) fun _ => Nat.le_of_ble_eq_true rfl
theorem Sys2Proof.Laws.Heads.vmul (sc : Bool) (d : VReg) (a b : Src) : Statement (.vmul sc d a b) := of_headOf rfl (by decide) fun _ => Nat.le_of_ble_eq_true rfl
theorem Sys2Proof.Laws.Heads.vmulTv2 (sc : Bool) (d : VReg) (a b : Src) (m : Mods) : Statement (.vmulTv2 sc d a b m) := of_headOf rfl (by decide) fun _ => Nat.le_of_ble_eq_true rfl
theorem Sys2Proof.Laws.Heads.vfma (f : FmaF) (d : VReg) (a b c : Src) (m : Mods) : Statement (.vfma f d a b c m) := of_headOf rfl (by decide) fun _ => Nat.le_of_ble_eq_true rfl
theorem Sys2Proof.Laws.Heads.vminmax (f : MinMaxF) (d : VReg) (a b : Src) : Statement (.vminmax f d a b) := of_headOf rfl (by decide) fun _ => Nat.le_of_ble_eq_true rfl
theorem Sys2Proof.Laws.Heads.vminmaxTv2 (f : MinMaxF) (d : VReg) (a b : Src) (m : ModsQ) : Statement (.vminmaxTv2 f d a b m) := of_headOf rfl (by decide) fun _ => Nat.le_of_ble_eq_true rfl
theorem Sys2Proof.Laws.Heads.vcmp (r : VRel) (d : VReg) (a b : Src) : Statement (.vcmp r d a b) := of_headOf rfl (by decide) fun _ => Nat.le_of_ble_eq_true rfl
theorem Sys2Proof.Laws.Heads.vcmpTv2 (r : VRel) (d : VReg) (a b : Src) (m : ModsQ) : Statement (.vcmpTv2 r d a b m) := of_headOf rfl (by decide) fun _ => Nat.le_of_ble_eq_true rfl
theorem Sys2Proof.Laws.Heads.vsel (d : VReg) (a b c : Src) (m : ModsQ) : Statement (.vsel d a b c m) := of_headOf rfl (by decide) fun _ => Nat.le_of_ble_eq_true rfl
theorem Sys2Proof.Laws.Heads.vcvt (src : ETy) (d : VReg) (a : Src) : Statement (.vcvt src d a) := of_headOf rfl (by decide) fun _ => Nat.le_of_ble_eq_true rfl
theorem Sys2Proof.Laws.Heads.vcvtTv2 (src : ETy) (d : VReg) (a : Src) (p : BitVec 3) (m : Mods) : Statement (.vcvtTv2 src d a p m) := of_headOf rfl (by decide) fun _ => Nat.le_of_ble_eq_true rfl
theorem Sys2Proof.Laws.Heads.vred (f : RedF) (d : VReg) (a : Src) : Statement (.vred f d a) := of_headOf rfl (by decide) fun _ => Nat.le_of_ble_eq_true rfl
theorem Sys2Proof.Laws.Heads.vredTv2 (f : RedF) (d : VReg) (a : Src) (m : ModsQ) : Statement (.vredTv2 f d a m) := of_headOf rfl (by decide) fun _ => Nat.le_of_ble_eq_true rfl
theorem Sys2Proof.Laws.Heads.vbcst (d : VReg) (a : Src) : Statement (.vbcst d a) := of_headOf rfl (by decide) fun _ => Nat.le_of_ble_eq_true rfl
theorem Sys2Proof.Laws.Heads.vbcstLane (d : VReg) (a b : Src) : Statement (.vbcstLane d a b) := of_headOf rfl (by decide) fun _ => Nat.le_of_ble_eq_true rfl
theorem Sys2Proof.Laws.Heads.vperm (z : Bool) (d : VReg) (a b : Src) : Statement (.vperm z d a b) := of_headOf rfl (by decide) fun _ => Nat.le_of_ble_eq_true rfl
theorem Sys2Proof.Laws.Heads.vpermTv2 (z : Bool) (d : VReg) (a b : Src) (m : ModsQ) : Statement (.vpermTv2 z d a b m) := of_headOf rfl (by decide) fun _ => Nat.le_of_ble_eq_true rfl
theorem Sys2Proof.Laws.Heads.vsfu (f : SfuF) (d : VReg) (a : Src) : Statement (.vsfu f d a) := of_headOf rfl (by decide) fun _ => Nat.le_of_ble_eq_true rfl
theorem Sys2Proof.Laws.Heads.vsfuTv2 (f : SfuF) (d : VReg) (a : Src) (m : ModsQ) : Statement (.vsfuTv2 f d a m) := of_headOf rfl (by decide) fun _ => Nat.le_of_ble_eq_true rfl
theorem Sys2Proof.Laws.Heads.vlogic (f : LogicF) (d : VReg) (a b : Src) : Statement (.vlogic f d a b) := of_headOf rfl (by decide) fun _ => Nat.le_of_ble_eq_true rfl
theorem Sys2Proof.Laws.Heads.vlogicTv2 (f : LogicF) (d : VReg) (a b : Src) (m : ModsQ) : Statement (.vlogicTv2 f d a b m) := of_headOf rfl (by decide) fun _ => Nat.le_of_ble_eq_true rfl
theorem Sys2Proof.Laws.Heads.vdq (d : VReg) (t : TensorId) (x : SReg) : Statement (.vdq d t x) := of_headOf rfl (by decide) fun _ => Nat.le_of_ble_eq_true rfl
theorem Sys2Proof.Laws.Heads.vlane (d : SReg) (a b : Src) : Statement (.vlane d a b) := of_headOf rfl (by decide) fun _ => Nat.le_of_ble_eq_true rfl
theorem Sys2Proof.Laws.Heads.vlaneImm (d : SReg) (a : Src) (lane : BitVec 5) : Statement (.vlaneImm d a lane) := of_headOf rfl (by decide) fun _ => Nat.le_of_ble_eq_true rfl
theorem Sys2Proof.Laws.Heads.route (pol : Policy) (top2 : Bool) (t : TileId) (a b c : Src) (f32 : Bool) : Statement (.route pol top2 t a b c f32) :=
  of_headOf rfl (by decide) fun _ => Nat.le_of_ble_eq_true rfl
theorem Sys2Proof.Laws.Heads.dcvt (bf : Bool) (d : DReg) (a : Src) : Statement (.dcvt bf d a) := of_headOf rfl (by decide) fun _ => Nat.le_of_ble_eq_true rfl
theorem Sys2Proof.Laws.Heads.dcvtToRow (bf : Bool) (d : DReg) (v : VReg) : Statement (.dcvtToRow bf d v) := of_headOf rfl (by decide) fun _ => Nat.le_of_ble_eq_true rfl
theorem Sys2Proof.Laws.Heads.ddot (sc : Bool) (d : SReg) (a b : DSrc) : Statement (.ddot sc d a b) := of_headOf rfl (by decide) fun _ => Nat.le_of_ble_eq_true rfl
theorem Sys2Proof.Laws.Heads.dadd (sb : Bool) (d : DReg) (a b : DSrc) : Statement (.dadd sb d a b) := of_headOf rfl (by decide) fun _ => Nat.le_of_ble_eq_true rfl
theorem Sys2Proof.Laws.Heads.dscl (neg : Bool) (d : DReg) (a : DSrc) (b : Src) : Statement (.dscl neg d a b) := of_headOf rfl (by decide) fun _ => Nat.le_of_ble_eq_true rfl
theorem Sys2Proof.Laws.Heads.spillStep (c : CoreId) : Statement (.spillStep c) := of_none rfl
theorem Sys2Proof.Laws.Heads.slotGrant (c : CoreId) : Statement (.slotGrant c) := of_none rfl
theorem Sys2Proof.Laws.Heads.contextWritten (c : CoreId) (s : SlotId) : Statement (.contextWritten c s) := of_none rfl
theorem Sys2Proof.Laws.Heads.drainingComplete (c : CoreId) (s : SlotId) : Statement (.drainingComplete c s) := of_none rfl
theorem Sys2Proof.Laws.Heads.threadWake (c : CoreId) (s : SlotId) : Statement (.threadWake c s) := of_none rfl
theorem Sys2Proof.Laws.Heads.breakwaterEvaluation (c : CoreId) (tempC : Nat) (powerMw : Nat) (hottest : Bool) : Statement (.breakwaterEvaluation c tempC powerMw hottest) := of_none rfl
theorem Sys2Proof.Laws.Heads.thermalRankingRewrite (p : BitVec 6) (ranking : List CoreId) : Statement (.thermalRankingRewrite p ranking) := of_none rfl
theorem Sys2Proof.Laws.Heads.clusterPortTranslation (r : Nat) : Statement (.clusterPortTranslation r) := of_none rfl
theorem Sys2Proof.Laws.Heads.pageTableWalk (r : Nat) : Statement (.pageTableWalk r) := of_none rfl
theorem Sys2Proof.Laws.Heads.pageRequestEntry (die : BitVec 3) : Statement (.pageRequestEntry die) := of_none rfl
theorem Sys2Proof.Laws.Heads.pageFaultService (die : BitVec 3) (idx : Nat) (ans : PagerAnswer) : Statement (.pageFaultService die idx ans) := of_none rfl
theorem Sys2Proof.Laws.Heads.perform (r : Nat) : Statement (.perform r) := of_none rfl
theorem Sys2Proof.Laws.Heads.syncRetry (r : Nat) : Statement (.syncRetry r) := of_none rfl
theorem Sys2Proof.Laws.Heads.accessReply (r : Nat) : Statement (.accessReply r) := of_none rfl
theorem Sys2Proof.Laws.Heads.fenceProbe (r : Nat) : Statement (.fenceProbe r) := of_none rfl
theorem Sys2Proof.Laws.Heads.probeEcho (r : Nat) : Statement (.probeEcho r) := of_none rfl
theorem Sys2Proof.Laws.Heads.fetchAddCombine (r1 r2 : Nat) : Statement (.fetchAddCombine r1 r2) := of_none rfl
theorem Sys2Proof.Laws.Heads.combinedReplySplit (r : Nat) : Statement (.combinedReplySplit r) := of_none rfl
theorem Sys2Proof.Laws.Heads.messageAcceptance (m : Nat) : Statement (.messageAcceptance m) := of_none rfl
theorem Sys2Proof.Laws.Heads.bounceReturn (m : Nat) : Statement (.bounceReturn m) := of_none rfl
theorem Sys2Proof.Laws.Heads.retryNotice (m : Nat) : Statement (.retryNotice m) := of_none rfl
theorem Sys2Proof.Laws.Heads.bounceRetransmit (m : Nat) : Statement (.bounceRetransmit m) := of_none rfl
theorem Sys2Proof.Laws.Heads.neighbourWordArrival (m : Nat) : Statement (.neighbourWordArrival m) := of_none rfl
theorem Sys2Proof.Laws.Heads.reservationRequest (m : Nat) : Statement (.reservationRequest m) := of_none rfl
theorem Sys2Proof.Laws.Heads.reservationGrant (m : Nat) : Statement (.reservationGrant m) := of_none rfl
theorem Sys2Proof.Laws.Heads.reservationResend (m : Nat) : Statement (.reservationResend m) := of_none rfl
theorem Sys2Proof.Laws.Heads.migrationPacketArrival (m : Nat) : Statement (.migrationPacketArrival m) := of_none rfl
theorem Sys2Proof.Laws.Heads.windowStackRelease (m : Nat) : Statement (.windowStackRelease m) := of_none rfl
theorem Sys2Proof.Laws.Heads.nodeDispatch (cl : BitVec 9) (n : BitVec 10) : Statement (.nodeDispatch cl n) := of_none rfl
theorem Sys2Proof.Laws.Heads.chunkStaging (cl : BitVec 9) (n : BitVec 10) : Statement (.chunkStaging cl n) := of_none rfl
theorem Sys2Proof.Laws.Heads.chunkCommit (cl : BitVec 9) (n : BitVec 10) : Statement (.chunkCommit cl n) := of_none rfl
theorem Sys2Proof.Laws.Heads.nodeDrainEnd (cl : BitVec 9) (n : BitVec 10) : Statement (.nodeDrainEnd cl n) := of_none rfl
theorem Sys2Proof.Laws.Heads.descriptorUpdateApply (cl : BitVec 9) : Statement (.descriptorUpdateApply cl) := of_none rfl
theorem Sys2Proof.Laws.Heads.berthTableUpdateApply (cl : BitVec 9) : Statement (.berthTableUpdateApply cl) := of_none rfl
theorem Sys2Proof.Laws.Heads.mcfgRetire (c : CoreId) : Statement (.mcfgRetire c) := of_none rfl
theorem Sys2Proof.Laws.Heads.mldwStart (c : CoreId) : Statement (.mldwStart c) := of_none rfl
theorem Sys2Proof.Laws.Heads.mldwComplete (c : CoreId) : Statement (.mldwComplete c) := of_none rfl
theorem Sys2Proof.Laws.Heads.mswapExecute (c : CoreId) : Statement (.mswapExecute c) := of_none rfl
theorem Sys2Proof.Laws.Heads.mmaStart (c : CoreId) : Statement (.mmaStart c) := of_none rfl
theorem Sys2Proof.Laws.Heads.mmaRowFill (c : CoreId) : Statement (.mmaRowFill c) := of_none rfl
theorem Sys2Proof.Laws.Heads.vsfuStart (c : CoreId) : Statement (.vsfuStart c) := of_none rfl
theorem Sys2Proof.Laws.Heads.vsfuResult (c : CoreId) (i : Nat) : Statement (.vsfuResult c i) := of_none rfl
theorem Sys2Proof.Laws.Heads.vdqFill (c : CoreId) (i : Nat) : Statement (.vdqFill c i) := of_none rfl
theorem Sys2Proof.Laws.Heads.directionalFill (c : CoreId) (i : Nat) : Statement (.directionalFill c i) := of_none rfl
theorem Sys2Proof.Laws.Heads.shiftMoveStart (c : CoreId) : Statement (.shiftMoveStart c) := of_none rfl
theorem Sys2Proof.Laws.Heads.shiftMoveEnd (c : CoreId) (t : TrackId) : Statement (.shiftMoveEnd c t) := of_none rfl
theorem Sys2Proof.Laws.Heads.scrubComplete (c : CoreId) (t : TrackId) : Statement (.scrubComplete c t) := of_none rfl
theorem Sys2Proof.Laws.Heads.recalibrationEnd (c : CoreId) (t : TrackId) : Statement (.recalibrationEnd c t) := of_none rfl
theorem Sys2Proof.Laws.Heads.routeRowSend (c : CoreId) (e : BitVec 3) : Statement (.routeRowSend c e) := of_none rfl
theorem Sys2Proof.Laws.Heads.rowMessageArrival (m : Nat) : Statement (.rowMessageArrival m) := of_none rfl
theorem Sys2Proof.Laws.Heads.rowRefusal (m : Nat) : Statement (.rowRefusal m) := of_none rfl
theorem Sys2Proof.Laws.Heads.rowReturn (m : Nat) : Statement (.rowReturn m) := of_none rfl
theorem Sys2Proof.Laws.Heads.tideDeadline (c : CoreId) (e : BitVec 3) : Statement (.tideDeadline c e) := of_none rfl
theorem Sys2Proof.Laws.Heads.lvlctlSelect (s : SReg) : Statement (.lvlctlSelect s) := of_none rfl
theorem Sys2Proof.Laws.Heads.lvlctlOpen (s : SReg) : Statement (.lvlctlOpen s) := of_none rfl
theorem Sys2Proof.Laws.Heads.lvlctlSeal (s : SReg) : Statement (.lvlctlSeal s) := of_none rfl
theorem Sys2Proof.Laws.Heads.lvlctlFree (s : SReg) : Statement (.lvlctlFree s) := of_none rfl
theorem Sys2Proof.Laws.Heads.wspWrite (s : SReg) : Statement (.wspWrite s) := of_none rfl
theorem Sys2Proof.Laws.Heads.fsrWrite (s : SReg) : Statement (.fsrWrite s) := of_none rfl
theorem Sys2Proof.Laws.Heads.aownWrite (t : TileId) (s : SReg) : Statement (.aownWrite t s) := of_none rfl
theorem Sys2Proof.Laws.Heads.mownWrite (s : SReg) : Statement (.mownWrite s) := of_none rfl
theorem Sys2Proof.Laws.Heads.hownWrite (t : TrackId) (s : SReg) : Statement (.hownWrite t s) := of_none rfl
theorem Sys2Proof.Laws.Heads.hownScrub (t : TrackId) (s : SReg) : Statement (.hownScrub t s) := of_none rfl
theorem Sys2Proof.Laws.Heads.qownWrite (s : SReg) : Statement (.qownWrite s) := of_none rfl
theorem Sys2Proof.Laws.Heads.threadSuspension (c : CoreId) (s : SlotId) : Statement (.threadSuspension c s) := of_none rfl
theorem Sys2Proof.Laws.Heads.suspbWrite (s : SReg) : Statement (.suspbWrite s) := of_none rfl
theorem Sys2Proof.Laws.Heads.worldWrite (s : SReg) : Statement (.worldWrite s) := of_none rfl
theorem Sys2Proof.Laws.Heads.keyringDraw (t : BitVec 9) : Statement (.keyringDraw t) := of_none rfl
theorem Sys2Proof.Laws.Heads.keyringDiscard (t : BitVec 9) : Statement (.keyringDiscard t) := of_none rfl
theorem Sys2Proof.Laws.Heads.keyringChangeDone : Statement .keyringChangeDone := of_none rfl
theorem Sys2Proof.Laws.Heads.pairCheckpoint (i : BitVec 12) (agree : Bool) : Statement (.pairCheckpoint i agree) := of_none rfl
theorem Sys2Proof.Laws.Heads.eccUncorrectableError (site : EccSite) : Statement (.eccUncorrectableError site) := of_none rfl
theorem Sys2Proof.Laws.Heads.lvrRecord : Statement .lvrRecord := of_none rfl
theorem Sys2Proof.Laws.Heads.lvrReplay : Statement .lvrReplay := of_none rfl
theorem Sys2Proof.Laws.Heads.translationInvalidate (t : BitVec 9) (base len : Nat) : Statement (.translationInvalidate t base len) := of_none rfl
theorem Sys2Proof.Laws.Heads.translationInvalidateDone : Statement .translationInvalidateDone := of_none rfl
theorem Sys2Proof.Laws.Heads.dirtyMapTrack (frame : Nat) : Statement (.dirtyMapTrack frame) := of_none rfl
theorem Sys2Proof.Laws.Heads.dirtyMapRelease (frame : Nat) : Statement (.dirtyMapRelease frame) := of_none rfl
theorem Sys2Proof.Laws.Heads.placeTableWrite (p : BitVec 6) (place : CoreId) (v : Half) : Statement (.placeTableWrite p place v) := of_none rfl
theorem Sys2Proof.Laws.Heads.partitionTableWrite (p : BitVec 6) (base len : Nat) : Statement (.partitionTableWrite p base len) := of_none rfl
theorem Sys2Proof.Laws.Heads.controlWindowWrite (master : BitVec 2) (off : Nat) (v : Word) : Statement (.controlWindowWrite master off v) := of_none rfl
theorem Sys2Proof.Laws.Heads.cxlMemWrite (addr : HdmAddr) (data : List Byte) : Statement (.cxlMemWrite addr data) := of_none rfl
theorem Sys2Proof.Laws.Heads.cxlMemRead (addr : HdmAddr) : Statement (.cxlMemRead addr) := of_none rfl
theorem Sys2Proof.Laws.Heads.doorbell (master : BitVec 2) (ctx : BitVec 12) (slot : BitVec 4) : Statement (.doorbell master ctx slot) := of_none rfl
theorem Sys2Proof.Laws.Heads.commandAcceptance (ctx : BitVec 12) (slot : BitVec 4) : Statement (.commandAcceptance ctx slot) := of_none rfl
theorem Sys2Proof.Laws.Heads.launchCommand (seq : Nat) (images : LoadImages) : Statement (.launchCommand seq images) := of_none rfl
theorem Sys2Proof.Laws.Heads.cancelCommand (seq : Nat) : Statement (.cancelCommand seq) := of_none rfl
theorem Sys2Proof.Laws.Heads.levelCommand (seq : Nat) : Statement (.levelCommand seq) := of_none rfl
theorem Sys2Proof.Laws.Heads.queryCommand (seq : Nat) : Statement (.queryCommand seq) := of_none rfl
theorem Sys2Proof.Laws.Heads.heldLaunch : Statement .heldLaunch := of_none rfl
theorem Sys2Proof.Laws.Heads.ownctlClaim (m : BitVec 2) : Statement (.ownctlClaim m) := of_none rfl
theorem Sys2Proof.Laws.Heads.ownctlOffer (m dest : BitVec 2) : Statement (.ownctlOffer m dest) := of_none rfl
theorem Sys2Proof.Laws.Heads.ownctlAccept (m : BitVec 2) : Statement (.ownctlAccept m) := of_none rfl
theorem Sys2Proof.Laws.Heads.ownerLinkTimeout : Statement .ownerLinkTimeout := of_none rfl
theorem Sys2Proof.Laws.Heads.heartbeat (w : BitVec 1) : Statement (.heartbeat w) := of_none rfl
theorem Sys2Proof.Laws.Heads.takeOver (w : BitVec 1) : Statement (.takeOver w) := of_none rfl
theorem Sys2Proof.Laws.Heads.lockInterfaceRequest (ctx : BitVec 12) : Statement (.lockInterfaceRequest ctx) := of_none rfl
theorem Sys2Proof.Laws.Heads.getDeviceInterfaceReport (ctx : BitVec 12) : Statement (.getDeviceInterfaceReport ctx) := of_none rfl
theorem Sys2Proof.Laws.Heads.startInterfaceRequest (ctx : BitVec 12) : Statement (.startInterfaceRequest ctx) := of_none rfl
theorem Sys2Proof.Laws.Heads.stopInterfaceRequest (ctx : BitVec 12) : Statement (.stopInterfaceRequest ctx) := of_none rfl
theorem Sys2Proof.Laws.Heads.frozenItemWrite (ctx : BitVec 12) : Statement (.frozenItemWrite ctx) := of_none rfl
theorem Sys2Proof.Laws.Heads.gildozaFlit (port : BitVec 7) (seq : Nat) (body : FabricBody) : Statement (.gildozaFlit port seq body) := of_none rfl
theorem Sys2Proof.Laws.Heads.powerOn (sigOk : Bool) (stPass : List Word) : Statement (.powerOn sigOk stPass) := of_none rfl
theorem Sys2Proof.Laws.Heads.warmReset (stPass : List Word) : Statement (.warmReset stPass) := of_none rfl
theorem Sys2Proof.Laws.Heads.dieOvertemperature (die : BitVec 3) : Statement (.dieOvertemperature die) := of_none rfl
theorem Sys2Proof.Laws.Heads.encodingFault (hcount head tail sub : Nat) : Statement (.encodingFault hcount head tail sub) := of_none rfl
theorem Sys2Proof.Laws.Heads.commandSlotWrite (master : BitVec 2) (ctx : BitVec 12) (slot : BitVec 4) (data : List Word) : Statement (.commandSlotWrite master ctx slot data) :=
  of_none rfl
theorem Sys2Proof.Laws.Heads.hostLinkDown (m : BitVec 2) : Statement (.hostLinkDown m) := of_none rfl
theorem Sys2Proof.Laws.Heads.hostLinkUp (m : BitVec 2) : Statement (.hostLinkUp m) := of_none rfl
theorem Sys2Proof.Laws.Heads.configWrite (ctx : BitVec 12) (item : Nat) (v : Word) : Statement (.configWrite ctx item v) := of_none rfl
end

