-- ==== Sys2Proof/Tests/Slice0.lean ====
section
/-! SUPPORT. Tests of this row: ill-formed terms that the checks refuse, words written out from the encoding tables of spec/ (R28, R33,
R52 to R59) beside the instruction they stand for, and for every statement states and operands that meet its hypotheses. -/
set_option Elab.async false
namespace Sys2Proof.Tests
open Sys2Proof Sys2Proof.Machine Sys2Proof.Claims

/-! ## Ill-formed terms, one for each check -/

def s0 : Src := ⟨0, false⟩
def s1 : Src := ⟨1, false⟩
def modsOf (o : Option ETy) (sat : Bool) (r : BitVec 3) : Mods := ⟨sat, o, r⟩

theorem test_wf_hints : (Instr.nop 0 [0, 0, 0, 0]).wf = false := by decide
theorem test_wf_field_empty : (Instr.bfx false 3 s1 0 0).wf = false := by decide
theorem test_wf_field_over : (Instr.bfi 3 s1 s1 1 64).wf = false := by decide
theorem test_wf_sign_extend : (Instr.ld .b64 true false 3 (.base 0 0)).wf = false := by decide
theorem test_wf_sign_extend_indexed : (Instr.ldIndexed .b64 true false 3 ⟨0, s1⟩).wf = false := by decide
theorem test_wf_postinc_same : (Instr.ldPostinc .b8 false false 1 ⟨0, s1⟩).wf = false := by decide
theorem test_wf_amo_b : (Instr.amo .add true 3 (.idx ⟨0, s1⟩) s1 s1).wf = false := by decide
theorem test_wf_send_none : (Instr.send 3 0 s1 s1).wf = false := by decide
theorem test_wf_send_over : (Instr.send 3 7 ⟨26, false⟩ s1).wf = false := by decide
theorem test_wf_recv : (Instr.recv 25).wf = false := by decide
theorem test_wf_spawn : (Instr.spawn 3 false s1 s1 ⟨29, false⟩ s1 ⟨0, 1⟩).wf = false := by decide
theorem test_wf_hrds : (Instr.hrds 3 1 false 17).wf = false := by decide
theorem test_wf_hwrs : (Instr.hwrs 3 s1 (-17)).wf = false := by decide
theorem test_wf_hfill : (Instr.hfill 3 s1 17 s1).wf = false := by decide
theorem test_wf_azero_none : (Instr.azero 0 0 0).wf = false := by decide
theorem test_wf_azero_over : (Instr.azero 0 1 32).wf = false := by decide
theorem test_wf_override_without_code : (Instr.vaddTv2 false 3 s1 s1 (modsOf (some .i16) false 0)).wf = false := by decide
theorem test_wf_reserved_rounding : (Instr.vsubTv2 false 3 s1 s1 (modsOf (some .f32) false 5)).wf = false := by decide
theorem test_wf_sat_float : (Instr.vmulTv2 false 3 s1 s1 (modsOf (some .f32) true 0)).wf = false := by decide
theorem test_wf_round_integer : (Instr.vfma .pp 3 s1 s1 s1 (modsOf (some .i32) false 1)).wf = false := by decide
theorem test_wf_minmax : (Instr.vminmaxTv2 .minnum 3 s1 s1 ⟨false, some .i32⟩).wf = false := by decide
theorem test_wf_vcmp : (Instr.vcmpTv2 .un 3 s1 s1 ⟨false, some .i8⟩).wf = false := by decide
theorem test_wf_vsel : (Instr.vsel 3 s1 s1 s1 ⟨true, some .f16⟩).wf = false := by decide
theorem test_wf_vcvt_part : (Instr.vcvtTv2 .f32 3 s1 1 (modsOf (some .f32) false 0)).wf = false := by decide
theorem test_wf_vred : (Instr.vredTv2 .xor 3 s1 ⟨false, some .f32⟩).wf = false := by decide
theorem test_wf_vperm : (Instr.vpermTv2 false 3 s1 s1 ⟨true, some .bf16⟩).wf = false := by decide
theorem test_wf_vsfu : (Instr.vsfuTv2 .exp2 3 s1 ⟨false, some .i32⟩).wf = false := by decide
theorem test_wf_not_b : (Instr.vlogic .not 3 s1 s1).wf = false := by decide
theorem test_wf_shift_float : (Instr.vlogicTv2 .shl 3 s1 s1 ⟨false, some .f32⟩).wf = false := by decide
theorem test_wf_route : (Instr.route .next true 1 s1 s1 s1 false).wf = false := by decide
theorem test_wf_good : (Instr.vcvtTv2 .f32 3 s1 1 (modsOf (some .bf16) false 0)).wf = true := by decide

/-! ## Words written out from the spec's encodings -/

-- control: bc.n c3 with delta 0 and index 2, loop s9 to head 4, halt, xret
theorem test_decode_bc : decodeWords 0x04A3 [0x0002] = .ok (.bc true 3 ⟨0, 2⟩) := rfl
theorem test_decode_loop : decodeWords 0x0E89 [0x0004] = .ok (.loop 9 ⟨0, 4⟩) := rfl
theorem test_decode_halt : decodeTableWord 16 0x1400 = some .halt := by decide
theorem test_decode_xret : decodeTableWord 16 0x1A00 = some .xret := by decide
-- integer: add s8, s8, s10; addi s10, s10, 1
theorem test_decode_add : decodeTableWord 32 0x20884280 = some (.add .wrap 8 ⟨8, false⟩ ⟨10, false⟩) := by decide
theorem test_decode_addi : decodeWords 0x250A [0x5000, 0x0001] = .ok (.addi .wrap 10 ⟨10, false⟩ 1) := rfl
-- services: pair, pair.off, harvest, xlw
theorem test_decode_pair : decodeTableWord 32 0x58832000 = some (.pair 3 ⟨4, false⟩) := by decide
theorem test_decode_pair_off : decodeTableWord 32 0x58832001 = some (.pairOff 3 ⟨4, false⟩) := by decide
theorem test_decode_harvest : decodeTableWord 32 0x5A874240 = some (.harvest 7 ⟨8, false⟩ ⟨9, false⟩) := by decide
theorem test_decode_xlw : decodeTableWord 32 0x5C848440 = some (.xlw 4 ⟨16, false⟩ ⟨17, false⟩) := by decide
-- floating point: fdiv.s.rup; fmul.d.rz s3, s6, s5! with P = 1
theorem test_decode_fdiv : decodeTableWord 32 0x6687424B = some (.fdiv .s (.fixed .rup) 7 ⟨8, false⟩ ⟨9, false⟩) := by decide
theorem test_decode_fmul : decodeWords 0x64C3 [0x3151] = .ok (.fmul .d (.fixed .rtz) 3 ⟨6, false⟩ ⟨5, true⟩) := rfl
-- memory and keys
theorem test_decode_ld : decodeWords 0x8106 [0x2131, 0x0010] = .ok (.ld .b64 false false 6 (.index 1 ⟨4, false⟩ 0x0010)) := rfl
theorem test_decode_amo : decodeWords 0x8D83 [0x2231, 0x0008, 0x2800] =
    .ok (.amo .add true 3 (.imm (.index 2 ⟨4, false⟩ 8)) ⟨5, false⟩ ⟨0, false⟩) := rfl
theorem test_decode_lds_take : decodeWords 0x8905 [0x0210, 0x0000] = .ok (.lds .take 5 (.base 2 0)) := rfl
theorem test_decode_fence : decodeTableWord 16 0x8E02 = some (.fence .package) := by decide
theorem test_decode_knarrow : decodeWords 0x9902 [0x0900, 0x2980] =
    .ok (.knarrow 2 ⟨1, false⟩ ⟨4, false⟩ ⟨5, false⟩ ⟨6, false⟩) := rfl
theorem test_decode_kinfo : decodeTableWord 32 0x9A830801 = some (.kinfo .limit 3 ⟨1, false⟩) := by decide
-- descriptors, tasks, stitched tensors
theorem test_decode_tdset : decodeTableWord 32 0x78820520 = some (.tdset 5 2 4) := by decide
theorem test_decode_task_copy : decodeWords 0x7D03 [0x00A0, 0xAD81] = .ok (.taskCopy 3 20 ⟨21, false⟩ ⟨22, false⟩ true) := rfl
theorem test_decode_task_gather : decodeWords 0x7D03 [0x04A1, 0xAD80] =
    .ok (.taskGather 3 4 20 ⟨21, false⟩ ⟨22, false⟩ false) := rfl
theorem test_decode_tdep : decodeTableWord 32 0x7E801900 = some (.tdep ⟨3, false⟩ ⟨4, false⟩) := by decide
theorem test_decode_splice : decodeWords 0x9D05 [0x0930, 0x11C0] = .ok (.spliceIns 5 9 6 ⟨2, false⟩ ⟨7, false⟩) := rfl
theorem test_decode_spin : decodeTableWord 32 0x9E830900 = some (.spin 3 9) := by decide
-- messages, threads
theorem test_decode_send : decodeTableWord 32 0xA0834242 = some (.send 3 2 ⟨8, false⟩ ⟨9, false⟩) := by decide
theorem test_decode_recv : decodeTableWord 16 0xA210 = some (.recv 16) := by decide
theorem test_decode_nsend : decodeTableWord 32 0xA4850001 = some (.nsend 5 .e) := by decide
theorem test_decode_spawn : decodeWords 0xA983 [0x2141, 0x6180, 0x0005] =
    .ok (.spawn 3 true ⟨4, false⟩ ⟨5, false⟩ ⟨12, false⟩ ⟨6, false⟩ ⟨0, 5⟩) := rfl
theorem test_decode_join : decodeTableWord 32 0xAC802801 = some (.join .graph ⟨5, false⟩) := by decide
theorem test_decode_migr : decodeTableWord 16 0xAE04 = some (.migr 4) := by decide
-- tracks
theorem test_decode_hclm_any : decodeTableWord 32 0xB0900040 = some (.hclmAny 16) := by decide
theorem test_decode_hseek : decodeTableWord 32 0xB4830064 = some (.hseek 3 100) := by decide
theorem test_decode_hseek_reg : decodeTableWord 32 0xB4858009 = some (.hseekReg 5 9) := by decide
theorem test_decode_hrds : decodeTableWord 32 0xB6851801 = some (.hrds 5 3 false 1) := by decide
theorem test_decode_hwrs : decodeTableWord 32 0xB886203F = some (.hwrs 6 ⟨4, false⟩ (-1)) := by decide
theorem test_decode_hfill : decodeWords 0xBF07 [0x0001, 0x4800] = .ok (.hfill 7 ⟨0, false⟩ 1 ⟨9, false⟩) := rfl
-- matrix and vector rows
theorem test_decode_mma : decodeTableWord 32 0xCE810330 = some (.mma false .tile 1 3 6) := by decide
theorem test_decode_mldw : decodeTableWord 32 0xCA80072A = some (.mldw false .track 7 5) := by decide
theorem test_decode_vadd : decodeTableWord 32 0xD0820040 = some (.vadd false 2 ⟨0, false⟩ ⟨1, false⟩) := by decide
theorem test_decode_vfma : decodeWords 0xD705 [0x0880, 0x2801] =
    .ok (.vfma .pp 5 ⟨1, false⟩ ⟨2, false⟩ ⟨5, false⟩ ⟨false, none, 1⟩) := rfl
theorem test_decode_vcvt : decodeWords 0xDF06 [0x1002, 0x000F] =
    .ok (.vcvtTv2 .bf16 6 ⟨2, false⟩ 1 ⟨false, none, 7⟩) := rfl
theorem test_decode_vsfu : decodeTableWord 32 0xE6832003 = some (.vsfu .exp2 3 ⟨4, false⟩) := by decide
theorem test_decode_vlane : decodeTableWord 32 0xEC832141 = some (.vlaneImm 3 ⟨4, false⟩ 5) := by decide
-- directional
theorem test_decode_dcvt : decodeTableWord 32 0xF0820800 = some (.dcvt false 2 ⟨1, false⟩) := by decide
theorem test_decode_dcvt_row : decodeTableWord 32 0xF0831001 = some (.dcvtToRow false 3 2) := by decide
theorem test_decode_ddot_sc : decodeTableWord 32 0xF2840881 = some (.ddot true 4 ⟨1, false⟩ ⟨2, false⟩) := by decide
theorem test_decode_dadd : decodeTableWord 32 0xF4840880 = some (.dadd false 4 ⟨1, false⟩ ⟨2, false⟩) := by decide
theorem test_decode_dscl : decodeTableWord 32 0xF68309C0 = some (.dscl false 3 ⟨1, false⟩ ⟨7, false⟩) := by decide
-- routing
theorem test_decode_route : decodeWords 0xEF00 [0x4502, 0xA800] =
    .ok (.route .next false 0 ⟨8, false⟩ ⟨20, false⟩ ⟨21, false⟩ false) := rfl
theorem test_decode_rtbl : decodeTableWord 32 0xFA802140 = some (.rtbl ⟨4, false⟩ ⟨5, false⟩) := by decide
theorem test_decode_rret : decodeTableWord 32 0xF8901000 = some (.rret 16 ⟨2, false⟩) := by decide

/-- R27 to R40: a head at the place of a line header, a reserved opcode, a P bit on the last head of a line. -/
theorem test_decode_reserved : decodeTableWord 16 0x5E00 = none := by decide
theorem test_line_runs_one : decodeBundle (lineOf [0x1400]) 0 1 = .ok (.one .halt) := rfl
theorem test_line_header : decodeBundle (lineOf [0x1400]) 0 0 = .error ⟨10, 0, 0⟩ := rfl
theorem test_line_last_pairs : decodeBundle (lineOf [0x1440]) 0 1 = .error ⟨6, 1, 0⟩ := rfl

/-! ## States and operands that meet the hypotheses of the statements -/

/-- A thread READY in slot 0 of core 0, with a NOP at its PC of 2 and HALT as the next head. -/
def st0 : State := { State.reset.placeLine ([(0x1000 : Half), 0x0000, 0x1400] ++ List.replicate 29 0) with
  cur := ⟨0, 0, 2, 1⟩, turn := [] }
/-- The same state with another thread in the slot, or another core around it. -/
def stT (f : Thread → Thread) : State := st0.setTh (f st0.th)
def stC (f : Core → Core) : State := st0.setHere (f st0.here)
def stTC (f : Thread → Thread) (g : Core → Core) : State := (stT f).setHere (g (stT f).here)

theorem full_of {s : State} {ns : List Need} (h : ns.all (fun n => decide (s.refSt s.view n.ref = .full)) = true) : Full s ns :=
  fun n hn => of_decide_eq_true (List.all_eq_true.1 h n hn)

theorem ready_of {s : State} {ns : List Need} (h1 : s.pair = none) (h2 : ns.all (fun n => decide (s.refSt s.view n.ref = .full)) = true)
    (h3 : (loopStep s.th s.cur.width).2.2 = none) : Ready s ns := ⟨h1, full_of h2, h3⟩

/-- Integer instructions, conditions, frames: registers of a thread at rest are full, and no loop is active. -/
theorem test_witness_integer : Ready st0 (need2 3 ⟨4, false⟩ ⟨5, true⟩) ∧ Ready st0 (need1 3 ⟨31, false⟩) ∧
    Ready st0 ([sN 3, s1.need] ++ (ShAmt.imm 63).needs) ∧ Ready st0 ([sN 3, s1.need] ++ (ShAmt.reg s1).needs) ∧
    Ready st0 [s1.need, s1.need] ∧ Ready st0 [s1.need] ∧ Ready st0 [sN 0] :=
  ⟨ready_of rfl rfl rfl, ready_of rfl rfl rfl, ready_of rfl rfl rfl, ready_of rfl rfl rfl, ready_of rfl rfl rfl,
    ready_of rfl rfl rfl, ready_of rfl rfl rfl⟩
theorem test_witness_field : wfField 0 64 = true ∧ wfField 63 1 = true := by decide
theorem test_witness_frame : (Instr.add .wrap 3 s1 s1, need2 3 s1 s1) ∈ scalarForms 3 s1 s1 (.imm 0) 0 0 0 0 1 .wrap .ss false ∧
    Ready st0 (need2 3 s1 s1) := ⟨by simp [scalarForms], ready_of rfl rfl rfl⟩
theorem test_witness_reserved_codes : (0x17 : BitVec 7) = 0x17 ∧ (15 : BitVec 4) ≠ 0 ∧ 2 ≤ (2 : BitVec 4).toNat := by decide

/-- Branches: a target in the line, a good register value, a bundle in the middle of its line and at its end. -/
theorem test_witness_branch : st0.pair = none ∧ IsTarget st0 ⟨0, 2⟩ 4 ∧ st0.targetSub 4 = none ∧
    Full (stT (·.setS 3 4)) [sN 3] ∧ GoodPC (stT (·.setS 3 4)) 4 ∧ (stT (·.setS 3 4)).th.sv 3 = 4 :=
  ⟨rfl, rfl, rfl, full_of rfl, ⟨rfl, by decide, rfl⟩, rfl⟩
/-- Targets that fail: index 0, an index above the head count, the second head of a bundle; values that `JMP` refuses. -/
def stP : State := { State.reset.placeLine ([(0x1000 : Half), 0x0040, 0x0000] ++ List.replicate 29 0) with cur := ⟨0, 0, 2, 1⟩, turn := [] }
theorem test_witness_bad_target : IsTarget st0 ⟨0, 0⟩ 0 ∧ BadTarget st0 0 10 ∧ IsTarget st0 ⟨0, 3⟩ 6 ∧ BadTarget st0 6 10 ∧
    IsTarget stP ⟨0, 2⟩ 4 ∧ BadTarget stP 4 11 ∧ (0x10000000000000 : Word).getLsbD 0 = false ∧ 2 ^ 52 ≤ (0x10000000000000 : Word).toNat :=
  ⟨rfl, .inl ⟨rfl, .inl rfl⟩, rfl, .inl ⟨rfl, .inr ⟨_, rfl, by decide⟩⟩, rfl, .inr ⟨rfl, _, rfl, by decide, by decide, by decide⟩,
    by decide, by decide⟩
theorem test_witness_refused_codes : (3 : BitVec 4) = 3 ∧ 5 ≤ (5 : BitVec 4).toNat ∧ 7 ≤ (7 : BitVec 4).toNat ∧ 8 ≤ (8 : BitVec 6).toNat ∧
    4 ≤ (4 : BitVec 4).toNat ∧ wfField 0 0 = false ∧ wfField 1 64 = false ∧ 2 ^ 13 ≤ (0x2000 : Half).toNat := by decide
theorem test_witness_unassigned : (∀ n ∈ [0x014, 0x0FF, 0x116, 0x13F, 0x180, 0x1FF, 0x209, 0xFFF], Unassigned n) ∧
    (∀ n ∈ [0x013, 0x100, 0x115, 0x140, 0x17F, 0x200, 0x208], ¬ Unassigned n) := by unfold Unassigned; decide
theorem test_witness_conditions : st0.view.cond 15 = true ∧ st0.view.cond 14 = false := ⟨rfl, rfl⟩
theorem test_witness_next_pc : st0.th.lc0 = 0 ∧ st0.th.lc1 = 0 ∧ st0.th.pc = 64 * 0 + 2 * 1 ∧ 1 ≤ st0.cur.hcount ∧
    st0.cur.hcount ≤ 31 ∧ st0.cur.width = 1 := ⟨rfl, rfl, rfl, by decide, by decide, rfl⟩
/-- The last head of a line. -/
theorem test_witness_next_pc_end : (stT ({ · with pc := 4 })).th.pc = 64 * 0 + 2 * 2 ∧ 2 ≤ st0.cur.hcount := ⟨rfl, by decide⟩

/-- Windows: room for a caller; a caller resident. -/
def stW : State := stT fun t => { (t.setS 3 4).setS 15 4 with wsp := 0, callers := [Vector.replicate 16 Cell.zero] }
theorem test_witness_call : st0.th.shadow = none ∧ Full (stT (·.setS 3 4)) [sN 3, sN 31] ∧ wspDepth st0.th.wsp ≠ 1023 ∧
    st0.th.callers.length < 3 := ⟨rfl, full_of rfl, by decide, by decide⟩

/-- `RETW`: a caller's window is resident, DEPTH is 1. -/
def stRet : State := stT fun t => { t.setS 15 4 with wsp := 0x20000, callers := [Vector.replicate 16 Cell.zero] }
theorem test_witness_return : stRet.pair = none ∧ stRet.th.shadow = none ∧ stRet.th.callers = [Vector.replicate 16 Cell.zero] ∧
    Full stRet [sN 15] ∧ wspDepth stRet.th.wsp ≠ 0 ∧ GoodPC stRet (stRet.th.sv 15) :=
  ⟨rfl, rfl, rfl, full_of rfl, by decide +kernel, rfl, by decide +kernel, by decide +kernel⟩

/-- `LOOP` in front of a body whose end is the line's second head; a count of 3 and a count of 0; and a body that is left. -/
def lineSt : List Half := [(0x1000 : Half), 0x0000, 0x1400] ++ List.replicate 29 0
theorem test_witness_loop : Full (stT (·.setS 9 3)) [sN 9] ∧ IsTarget (stT (·.setS 9 3)) ⟨0, 2⟩ 4 ∧
    (stT (·.setS 9 3)).lineAt 0 (stT (·.setS 9 3)).me 0 = .ok lineSt ∧ (4 / 2 % 32 ≠ 0 ∧ 4 / 2 % 32 ≤ lineCount lineSt) ∧
    (stT (·.setS 9 3)).nextPC ≤ 4 ∧ (stT (·.setS 9 3)).th.pc % 2 = 0 ∧ (stT (·.setS 9 3)).th.lc0 = 0 ∧
    ((stT (·.setS 9 3)).th.sv 9).toNat % 2 ^ 32 ≠ 0 ∧ (st0.th.sv 9).toNat % 2 ^ 32 = 0 ∧
    NoLoop (stT (·.setS 9 3)) { (stT (·.setS 9 3)).th with lc0 := 3, le0 := 0x0800000000000002 } :=
  ⟨full_of rfl, rfl, rfl, by decide, by decide +kernel, rfl, rfl, by decide +kernel, rfl, rfl⟩
def stLoop (n : Word) : State := stT ({ · with lc0 := n, le0 := 0x0800000000000001 })
theorem test_witness_loop_step : ((stLoop 3).th.lc1 = 0 ∧ (stLoop 3).th.lc0 ≠ 0 ∧ (stLoop 3).th.lc0 ≠ 1 ∧
    (stLoop 3).th.le0.toNat % 2 ^ 51 * 2 = (stLoop 3).th.pc) ∧ (stLoop 1).th.lc0 = 1 := by decide +kernel

/-- Waiting and retiring, traps of each class, returns of each level. -/
theorem test_witness_waiting : Ready st0 [] ∧ st0.view.cond 15 = true ∧ st0.view.cond 0 = false ∧ st0.th.dstore = none :=
  ⟨ready_of rfl rfl rfl, rfl, rfl, rfl⟩
def stTrap (f : Thread → Thread) : State := stTC f ({ · with svec := 4, mvec := 4 })
theorem test_witness_trap_user : (stTrap ({ · with tvec := 4 })).th.shadow = none ∧
    ToUser (stTrap ({ · with tvec := 4 })).th ⟨0x06, 0, 0, 0⟩ ∧
    VectorOk (stTrap ({ · with tvec := 4 })) .user ⟨0x06, 0, 0, 0⟩ ∧ (stTrap ({ · with tvec := 4 })).th.tvec.toNat < 2 ^ 52 :=
  ⟨rfl, ⟨by decide, rfl, by decide +kernel, rfl⟩, by unfold VectorOk; decide +kernel, by decide +kernel⟩
theorem test_witness_trap_supervisor : ¬ ToUser (stTrap id).th ⟨0x05, 0, 0, 0⟩ ∧ ¬ PastSupervisor (stTrap id).th ⟨0x05, 0, 0, 0⟩ ∧
    VectorOk (stTrap id) .sup ⟨0x05, 0, 0, 0⟩ ∧ (stTrap id).here.svec.toNat < 2 ^ 52 ∧ (stTrap id).here.svec.getLsbD 0 = false := by
  refine ⟨fun h => absurd h.1 (by decide), ?_, by unfold VectorOk; decide +kernel, by decide +kernel, by decide +kernel⟩
  rintro (h | h | h)
  · exact absurd h (by decide +kernel)
  · exact absurd h (by decide +kernel)
  · exact absurd h.1 (by decide)
theorem test_witness_trap_monitor : ¬ ToUser (stTrap ({ · with level := .mon })).th ⟨0x05, 0, 0, 0⟩ ∧
    PastSupervisor (stTrap ({ · with level := .mon })).th ⟨0x05, 0, 0, 0⟩ ∧
    (stTrap ({ · with level := .mon })).th.mcause.getLsbD 61 = false ∧
    VectorOk (stTrap ({ · with level := .mon })) .mon ⟨0x05, 0, 0, 0⟩ ∧
    (stTrap ({ · with level := .mon, mcause := 0x2000000000000000 })).th.mcause.getLsbD 61 = true :=
  ⟨fun h => absurd h.1 (by decide), .inl (by decide +kernel), by decide +kernel, by unfold VectorOk; decide +kernel, by decide +kernel⟩
theorem test_witness_trap_owner : PastSupervisor st0.th ⟨0x0A, 0x100, 0, 0⟩ ∧ PastSupervisor st0.th ⟨0x0A, 0x200, 0, 0⟩ :=
  ⟨.inr (.inr ⟨rfl, .inl (by decide)⟩), .inr (.inr ⟨rfl, .inr (by decide)⟩)⟩
theorem test_witness_eret_user : st0.th.level = .user ∧ GoodPC (stT ({ · with epc := 4 })) (stT ({ · with epc := 4 })).th.epc ∧
    (stT ({ · with ecause := 0xC000000000000000 })).th.ecause.getLsbD 63 = true :=
  ⟨rfl, ⟨by decide +kernel, by decide +kernel, by decide +kernel⟩, by decide +kernel⟩
theorem test_witness_eret_sup : (stT ({ · with level := .sup, sepc := 4 })).th.level = .sup ∧
    (stT ({ · with level := .sup, sepc := 4 })).th.scause.toNat / 2 ^ 59 % 4 ≠ 3 ∧
    GoodPC (stT ({ · with level := .sup, sepc := 4 })) (stT ({ · with level := .sup, sepc := 4 })).th.sepc :=
  ⟨by decide +kernel, by decide +kernel, by decide +kernel, by decide +kernel, by decide +kernel⟩
theorem test_witness_eret_mon : (stT ({ · with level := .mon, mepc := 4, mcause := 0x3000000000000000 })).th.level = .mon ∧
    (stT ({ · with level := .mon, mepc := 4, mcause := 0x3000000000000000 })).th.mcause.toNat / 2 ^ 59 % 4 = 2 ∧
    GoodPC (stT ({ · with level := .mon, mepc := 4 })) (stT ({ · with level := .mon, mepc := 4 })).th.mepc :=
  ⟨by decide +kernel, by decide +kernel, by decide +kernel, by decide +kernel, by decide +kernel⟩
theorem test_witness_privilege : st0.pair = none ∧ st0.th.level = .user ∧ st0.th.shadow = none ∧
    (0x100 ≤ (0x100 : BitVec 12).toNat ∧ (0x1FF : BitVec 12).toNat < 0x200 ∧ 0x200 ≤ (0x200 : BitVec 12).toNat) :=
  ⟨rfl, rfl, rfl, by decide⟩

/-- Control registers: read and written at each level. -/
def stM : State := stT ({ · with level := .mon })
theorem test_witness_csrr : Ready st0 [sN 3] ∧ st0.th.level = .user ∧ Ready stM [sN 3] ∧ stM.th.level = .mon ∧
    ((0x000, st0.th.fsr) ∈ threadRegs st0.th) ∧ ((0x100, stM.here.svec) ∈ supRegs stM) ∧ ((0x200, stM.here.mvec) ∈ monRegs stM) ∧
    csrRead stM.view stM 0x013 = some 0 :=
  ⟨ready_of rfl rfl rfl, rfl, ready_of rfl rfl rfl, rfl, by simp [threadRegs], by simp [supRegs], by simp [monRegs],
    by decide +kernel⟩
theorem test_witness_csrw : Full stM [sN 3] ∧ NoLoop stM stM.th ∧ (0x006, { stM.th with tvec := mix 0 0 51 1 }) ∈ threadWrites stM.th 0 ∧
    (0x101, { stM.th with sepc := mix 0 0 51 1 }) ∈ supWrites stM.th 0 ∧ (0x201, { stM.th with mepc := mix 0 0 51 1 }) ∈ monWrites stM.th 0 ∧
    (0x200, { stM.here with mvec := mix 0 0 51 1 }) ∈ coreWrites stM.here 0 ∧ (0x207 : BitVec 12) ∈ readOnly :=
  ⟨full_of rfl, rfl, by simp [threadWrites], by simp [supWrites], by simp [monWrites], by simp [coreWrites], by decide⟩

/-- Level tables: partition 0 with an OPEN job, phase and graph, a launch under the graph, and free entries. -/
def opened (p n : Nat) : LvEntry := { LvEntry.zero with st := .opened, parent := p, count := n }
def stL (f : Thread → Thread) : State :=
  let s := stT f
  s.setPart 0 { s.part 0 with levels := [((.job, 0), opened 0 2), ((.phase, 0), opened 0 2), ((.graph, 0), opened 0 2),
    ((.graph, 1), { opened 0 0 with st := .done }), ((.graph, 2), opened 0 1), ((.launch, 1), { opened 0 1 with tenant := 5 })] }
def stSel (w : Word) : State := stL fun t => { t.setS 3 w with level := .sup }
theorem lvlWrite_of {s : State} {r : SReg} {c : Nat} (h : Ready s [sN r]) (h1 : s.th.level ≠ .user)
    (h2 : (entryOf s (s.th.sv r)).idx < (entryOf s (s.th.sv r)).lvl.size) (h3 : (s.th.sv r).toNat % 8 = c) : LvlWrite s r c := ⟨h, h1, h2, h3⟩
theorem test_witness_level_select : LvlWrite (stSel 0xF30) 3 0 :=
  lvlWrite_of (ready_of rfl rfl rfl) (by decide +kernel) (by decide +kernel) (by decide +kernel)
theorem test_witness_level_open : LvlWrite (stSel 0x311) 3 1 ∧
    ((entryOf (stSel 0x311) 0x311).lvl.up = some .phase ∧ 0 = 0x311 / 2 ^ 20 % 4096 ∧ (entryOf (stSel 0x311) 0x311).lvl ≠ .launch ∧
      ((stSel 0x311).lv (entryOf (stSel 0x311) 0x311)).st = .free ∧ ((stSel 0x311).lv ⟨0, .phase, 0⟩).st = .opened) ∧
    ((stSel 0x111).lv (entryOf (stSel 0x111) 0x111)).st = .done :=
  ⟨lvlWrite_of (ready_of rfl rfl rfl) (by decide +kernel) (by decide +kernel) (by decide +kernel), by decide +kernel, by decide +kernel⟩
theorem test_witness_level_open_job : LvlWrite (stSel 0x131) 3 1 ∧ (entryOf (stSel 0x131) 0x131).lvl = .job ∧
    ((stSel 0x131).lv (entryOf (stSel 0x131) 0x131)).st = .free :=
  ⟨lvlWrite_of (ready_of rfl rfl rfl) (by decide +kernel) (by decide +kernel) (by decide +kernel), by decide +kernel, by decide +kernel⟩
theorem test_witness_level_seal : LvlWrite (stSel 0x012) 3 2 ∧
    (((stSel 0x012).lv (entryOf (stSel 0x012) 0x012)).st = .opened ∧ 2 ≤ ((stSel 0x012).lv (entryOf (stSel 0x012) 0x012)).count) ∧
    LvlWrite (stSel 0x212) 3 2 ∧
    ((stSel 0x212).lv (entryOf (stSel 0x212) 0x212)).st = .opened ∧ ((stSel 0x212).lv (entryOf (stSel 0x212) 0x212)).count = 1 :=
  ⟨lvlWrite_of (ready_of rfl rfl rfl) (by decide +kernel) (by decide +kernel) (by decide +kernel), by decide +kernel,
    lvlWrite_of (ready_of rfl rfl rfl) (by decide +kernel) (by decide +kernel) (by decide +kernel), by decide +kernel, by decide +kernel⟩
theorem test_witness_level_free : LvlWrite (stSel 0x113) 3 3 ∧
    ((stSel 0x113).lv (entryOf (stSel 0x113) 0x113)).st = .done :=
  ⟨lvlWrite_of (ready_of rfl rfl rfl) (by decide +kernel) (by decide +kernel) (by decide +kernel), by decide +kernel⟩

/-- Ownership and per-core registers. -/
def stSup (w : Word) : State := stT fun t => { t.setS 3 w with level := .sup }
theorem test_witness_owner_writes : SupWrite (stSup 0) 3 ∧ MonWrite stM 3 ∧ NoLoop st0 { st0.th with fsr := 0 } ∧
    mix (mix (mix 0 0 63 63) 0 40 32) 0 15 0 = (stSup 0).here.mown ∧ (stSup 0).here.arrayq = [] ∧
    mix (mix (mix 0 5 63 63) 5 40 32) 5 15 0 ≠ (stSup 5).here.mown ∧ ((stSup 0).here.track 63).emptyFor false = false ∧
    ((stSup 0x1000000000000000).th.sv 3).getLsbD 60 = true ∧ ((stSup 0).th.sv 3).getLsbD 60 = false ∧ (stSup 0).here.susp = [] :=
  ⟨⟨ready_of rfl rfl rfl, by decide +kernel⟩, ⟨ready_of rfl rfl rfl, by decide +kernel⟩, rfl, by decide +kernel, rfl,
    by decide +kernel, by decide +kernel, by decide +kernel, by decide +kernel, rfl⟩
theorem test_witness_wsp : (0x780 ≤ wspBase 0x4003C0000F000 ∧ wspBase 0x4003C0000F000 ≤ wspPtr 0x4003C0000F000 ∧
    wspPtr 0x4003C0000F000 ≤ wspLimit 0x4003C0000F000 ∧ wspLimit 0x4003C0000F000 ≤ 2048) ∧
    wspPtr 0x4003C0000EFE0 < wspBase 0x4003C0000EFE0 := by decide +kernel
theorem test_witness_world : ∀ m : SlotId, (stM.here.slots[m]).st = .free ∨ (stM.here.slots[m]).st = .disabled ∨ m = stM.cur.slot := by
  decide +kernel

/-- The key ring and the recorder. -/
theorem test_witness_keyring : st0.krcmd.getLsbD 63 = false ∧ st0.lvrctl.getLsbD 63 = false ∧
    ({ st0 with keyNew := some (5, none) } : State).keyNew = some (5, none) := ⟨rfl, rfl, rfl⟩

/-- `SPAWN` of one thread on the one place, in the graph of the thread's tenant. -/
def stSpawn : State := stL fun t => (t.setS 4 1).setS 5 0x10000
theorem test_witness_spawn : stSpawn.pair = none ∧ stSpawn.th.shadow = none ∧ NoLoop stSpawn stSpawn.th ∧
    Full stSpawn ([sN 3, (⟨4, false⟩ : Src).need, (⟨5, false⟩ : Src).need] ++ (argRegs 12).map (fun r => ⟨.s r, false⟩) ++
      [(⟨6, false⟩ : Src).need] ++ (List.range 8).map fun j => kN (BitVec.ofNat 3 j)) ∧
    IsTarget stSpawn ⟨0, 2⟩ 4 ∧ stSpawn.targetSub 4 = none ∧ SpawnOk stSpawn 1 0x10000 0 ∧ stSpawn.freeLaunch stSpawn.partHere = some 0 :=
  ⟨rfl, rfl, rfl, full_of rfl, rfl, by decide +kernel,
    ⟨by decide, by decide, by decide +kernel, by decide +kernel, by decide +kernel, by decide +kernel,
      fun cl => Nat.le_of_ble_eq_true rfl, by decide +kernel⟩, by decide +kernel⟩
theorem test_witness_indices : 0 < 1 ∧ (2 : Nat) < 3 := by decide

/-- `JOIN` and `CANCEL`: an entry that is done, one of the thread's tenant, one of another. -/
def stJoin (w : Word) : State := stL (·.setS 3 w)
theorem test_witness_join : Ready (stJoin 511) [(⟨3, false⟩ : Src).need] ∧ (511 : Word).toNat < 2 ^ lvlBits .graph ∧
    (stJoin 511).named .graph 511 = none ∧ (stJoin 0).named .graph 0 = some ⟨0, .graph, 0⟩ ∧
    ((stJoin 0).lv ⟨0, .graph, 0⟩).tenant = (stJoin 0).th.tenant ∧ (stJoin 1).named .launch 1 = some ⟨0, .launch, 1⟩ ∧
    ((stJoin 1).lv ⟨0, .launch, 1⟩).tenant ≠ (stJoin 1).th.tenant ∧ (stJoin 0).me.st = .ready ∧
    (stJoin 0).below 0 (stJoin 0).th ⟨0, .graph, 0⟩ = true := by
  refine ⟨ready_of rfl rfl rfl, ?_⟩
  decide +kernel

/-- Floating point: an operation under each outcome, a NaN, an infinity, a zero, a number of each format. -/
theorem test_witness_float : Ready st0 (need2 3 s1 s1) ∧ (Instr.fadd .d .dyn 3 s1 s1, fAdd fmtD (envOf st0 .dyn) 0 0) ∈ fpTwo st0 .d .dyn 3 s1 s1 ∧
    Ready st0 (need1 3 s1) ∧ (Instr.fsqrt .d .dyn 3 s1, fSqrt fmtD (envOf st0 .dyn) 0) ∈ fpOne st0 .d .dyn 3 s1 ∧
    Ready st0 [sN 3, s1.need, s1.need, s1.need] ∧ ¬ FpTraps st0 flNV ∧ FpTraps (stT ({ · with fsr := 0x3E0 })) flNV := by
  refine ⟨ready_of rfl rfl rfl, by simp [fpTwo, precFmt, operand, val]; decide +kernel, ready_of rfl rfl rfl, ?_, ready_of rfl rfl rfl, ?_, ?_⟩
  · simp [fpOne, precFmt, operand, val]; decide +kernel
  · intro h; exact absurd h.1 (by decide +kernel)
  · exact ⟨by decide +kernel, by decide +kernel⟩
theorem test_witness_rounding : (∀ f ∈ ieee, (roundFin f ⟨.rne, false, false⟩ false 1 0).fl &&& flOF = 0) ∧ fmtD ∈ ieee ∧
    Fits fmtD 0x3FF0000000000000 ∧ fmtD.decode 0x3FF0000000000000 = .fin false (2 ^ 52) (-52) := by
  refine ⟨by decide +kernel, by decide +kernel, by unfold Fits; decide +kernel, by decide +kernel⟩
theorem test_witness_special : Fits fmtS 0x7FC00000 ∧ (fmtS.decode 0x7FC00000).isNaN = true ∧ Fits fmtD 0xFFF0000000000000 ∧
    fmtD.decode 0xFFF0000000000000 = .inf true ∧ (∃ e, fmtD.decode 0 = .fin false 0 e ∧ fmtD.decode 0x8000000000000000 = .fin true 0 e) ∧
    ∃ e, fmtD.decode 0xBFF0000000000000 = .fin true (2 ^ 52) e := by
  refine ⟨by unfold Fits; decide +kernel, by decide +kernel, by unfold Fits; decide +kernel, by decide +kernel, ⟨-1074, by decide +kernel⟩, ⟨-52, by decide +kernel⟩⟩

/-! ## Memory -/

/-- A thread that holds in `k1` a key over its core's whole local store with every right, and one over device memory in `k2`. -/
def lsKey : KCell := ⟨0x23F0000000000000, 0x40000, true, .full⟩
def devKey : KCell := ⟨0x03F0000000000000, 0x100000, true, .full⟩
def keyed (t : Thread) : Thread := (t.setK 1 lsKey).setK 2 devKey
def stK (f : Thread → Thread) : State := stT fun t => f (keyed t)
theorem quiet_st (f : Thread → Thread) : Quiet (stK f) :=
  ⟨rfl, rfl, rfl, (by decide : (0 : Word).getLsbD 63 = false), rfl, fun _ h => nomatch h⟩
theorem ownStore_of {s : State} {key : KReg} {off : Word} {n align : Nat} {rights : List Right} {a : Nat}
    (h1 : (s.th.k[key.toFin]).tag = true) (h2 : (s.th.k[key.toFin]).tenant = s.th.tenant)
    (h3 : rights.all (fun r => (s.th.k[key.toFin]).has r) = true) (h4 : 0 ≤ off.toInt) (h5 : off.toNat + n ≤ (s.th.k[key.toFin]).len)
    (h6 : (s.th.k[key.toFin]).kind = 1) (h7 : a = ((s.th.k[key.toFin]).w0.toNat % 2 ^ 31 + off.toNat) % 2 ^ 18)
    (h8 : a + n ≤ 2 ^ 18 ∧ a % align = 0)
    (h9 : s.placeCore s.cur.core (((s.th.k[key.toFin]).w0.toNat % 2 ^ 31 + off.toNat) / 2 ^ 18) = some s.cur.core) :
    OwnStore s key off n align rights a :=
  ⟨⟨h1, fun _ => h2, fun r hr => List.all_eq_true.1 h3 r hr, h4, h5⟩, h6, h7, h8, h9⟩

/-- The last word of the store; the three forms of a memory operand. -/
theorem test_witness_load_store : Quiet (stK (·.setS 4 0x3FFF8)) ∧ Ready (stK (·.setS 4 0x3FFF8)) (sN 3 :: [(⟨4, false⟩ : Src).need] ++ [kN 1]) ∧
    OwnStore (stK (·.setS 4 0x3FFF8)) 1 0x3FFF8 8 8 [.read, .write] 0x3FFF8 ∧ (stK (·.setS 4 0x3FFF8)).here.ls.bad (0x3FFF8 / 8) = false ∧
    (stK (·.setS 4 0x3FFF8)).here.ls.wf = true ∧ val (stK (·.setS 4 0x3FFF8)) ⟨4, false⟩ = 0x3FFF8 ∧
    Form (stK (·.setS 4 0x3FFF8)) (.ld .b64 false false 3) (.ldIndexed .b64 false false 3) (.ldIndexed .b64 false false 3 ⟨1, ⟨4, false⟩⟩) 1 0x3FFF8
      [(⟨4, false⟩ : Src).need] :=
  ⟨quiet_st _, ready_of rfl rfl rfl,
    ownStore_of rfl rfl (by decide +kernel) (by decide +kernel) (by decide +kernel) (by decide +kernel) (by decide +kernel) (by decide) (by decide +kernel),
    by decide +kernel, by decide +kernel, by decide +kernel, .inr (.inr ⟨⟨4, false⟩, rfl, by decide +kernel, rfl⟩)⟩
theorem test_witness_forms : Form st0 (.st .b8 false 3) (.stIndexed .b8 false 3) (.st .b8 false 3 (.base 1 8)) 1 8 [] ∧
    Form st0 (.st .b8 false 3) (.stIndexed .b8 false 3) (.st .b8 false 3 (.index 1 s1 8)) 1 8 [s1.need] :=
  ⟨.inl ⟨8, rfl, by decide, rfl⟩, .inr (.inl ⟨s1, 8, rfl, by decide +kernel, rfl⟩)⟩

/-- A bit field of 2 bits across a word boundary: two words. -/
def stBits : State := stK fun t => { t.setS 4 2 with bita := 63 }
theorem test_witness_bits : Quiet stBits ∧ Ready stBits [sN 3, (⟨4, false⟩ : Src).need, kN 1] ∧ 1 ≤ (val stBits ⟨4, false⟩).toNat ∧
    (val stBits ⟨4, false⟩).toNat ≤ 64 ∧ OwnStore stBits 1 0 16 8 [.read] 0 ∧ OwnStore stBits 1 0 16 8 [.write] 0 ∧
    (∀ j, j < 16 → stBits.here.ls.bad ((0 + j) / 8) = false) :=
  ⟨quiet_st _, ready_of rfl rfl rfl, by decide +kernel, by decide +kernel,
    ownStore_of rfl rfl (by decide +kernel) (by decide +kernel) (by decide +kernel) (by decide +kernel) (by decide +kernel) (by decide) (by decide +kernel),
    ownStore_of rfl rfl (by decide +kernel) (by decide +kernel) (by decide +kernel) (by decide +kernel) (by decide +kernel) (by decide) (by decide +kernel),
    by decide +kernel⟩

/-- Sync accesses: a full word, and an empty one for `STS` that fills; an atomic access of each width. -/
theorem test_witness_sync : OwnStore (stK id) 1 8 8 8 [.read, .write, .sync] 8 ∧ (stK id).here.ls.isFull (8 / 8) = true ∧
    OwnStore (stK id) 1 12 4 4 [.read, .write, .sync] 12 ∧ Ready (stK id) ([sN 3, s1.need, s1.need] ++ [] ++ [kN 1]) ∧
    ((stK id).setHere { (stK id).here with ls := ⟨[], [1], [], [], []⟩ }).here.ls.isFull (8 / 8) = false :=
  ⟨ownStore_of rfl rfl (by decide +kernel) (by decide +kernel) (by decide +kernel) (by decide +kernel) (by decide +kernel) (by decide) (by decide +kernel),
    by decide +kernel,
    ownStore_of rfl rfl (by decide +kernel) (by decide +kernel) (by decide +kernel) (by decide +kernel) (by decide +kernel) (by decide) (by decide +kernel),
    ready_of rfl rfl rfl, by decide +kernel⟩

/-- A thread bound to tile 2 with elements FP32; its launch owns the tile. -/
def bound (t : Thread) : Thread := { keyed t with tileb := 0xA1 }
def stTile (f : Thread → Thread) : State := stTC (fun t => f (bound t)) fun x => { x with aown := x.aown.set 2 0x8000000000000000 }
theorem quiet_tile (f : Thread → Thread) : Quiet (stTile f) := ⟨rfl, rfl, rfl, (by decide : (0 : Word).getLsbD 63 = false), rfl, fun _ h => nomatch h⟩
theorem ownTile_st : OwnTile (stTile id) 2 := ⟨by decide +kernel, by decide +kernel, .inr (by decide +kernel)⟩
theorem test_witness_keys_rows : Quiet (stTile id) ∧ OwnTile (stTile id) 2 ∧ Ready (stTile id) (vN 31 :: [] ++ [kN 1]) ∧
    Ready (stTile id) (kN 7 :: [] ++ [kN 1]) ∧ OwnStore (stTile id) 1 0x3FF80 128 128 [.read] 0x3FF80 ∧
    OwnStore (stTile id) 1 0x3FF80 128 128 [.write] 0x3FF80 ∧ OwnStore (stTile id) 1 16 16 16 [.read, .cap] 16 ∧
    OwnStore (stTile id) 1 16 16 16 [.write, .cap] 16 ∧ (∀ j, j < 16 → (stTile id).here.ls.bad (0x3FF80 / 8 + j) = false) :=
  ⟨quiet_tile _, ownTile_st, ready_of rfl (by decide +kernel) rfl, ready_of rfl rfl rfl,
    ownStore_of rfl rfl (by decide +kernel) (by decide +kernel) (by decide +kernel) (by decide +kernel) (by decide +kernel) (by decide) (by decide +kernel),
    ownStore_of rfl rfl (by decide +kernel) (by decide +kernel) (by decide +kernel) (by decide +kernel) (by decide +kernel) (by decide) (by decide +kernel),
    ownStore_of rfl rfl (by decide +kernel) (by decide +kernel) (by decide +kernel) (by decide +kernel) (by decide +kernel) (by decide) (by decide +kernel),
    ownStore_of rfl rfl (by decide +kernel) (by decide +kernel) (by decide +kernel) (by decide +kernel) (by decide +kernel) (by decide) (by decide +kernel),
    by decide +kernel⟩

theorem inDevice_of {s : State} {key : KReg} {off : Word} {n align : Nat} {rights : List Right} {va : Nat}
    (h1 : (s.th.k[key.toFin]).tag = true) (h2 : (s.th.k[key.toFin]).tenant = s.th.tenant)
    (h3 : rights.all (fun r => (s.th.k[key.toFin]).has r) = true) (h4 : 0 ≤ off.toInt) (h5 : off.toNat + n ≤ (s.th.k[key.toFin]).len)
    (h6 : (s.th.k[key.toFin]).kind ≠ 1) (h7 : va = (s.th.k[key.toFin]).base + off.toNat) (h8 : va % align = 0) :
    InDevice s key off n align rights va :=
  ⟨⟨h1, fun _ => h2, fun r hr => List.all_eq_true.1 h3 r hr, h4, h5⟩, h6, h7, h8⟩

/-- Accesses to device memory: a register access, one of a row, the last bytes of a key's range. -/
theorem test_witness_device : InDevice (stTile id) 2 0xFFF8 8 8 [.read, .write, .sync] 0xFFF8 ∧ Ready (stTile id) ([sN 3] ++ [] ++ [kN 2]) ∧
    InDevice (stTile id) 2 0xFFF80 128 128 [.read] 0xFFF80 ∧ Ready (stTile id) ([vN 31] ++ [] ++ [kN 2]) ∧ OwnTile (stTile id) 2 ∧
    (stTile id).drains = [] ∧ (stTile id).me.refusal = none ∧
    (⟨.ldv false 31, .ldvIndexed false 31, .ldv, .v 31, 128, [.read], [vN 31]⟩ : Acc).size = 128 :=
  ⟨inDevice_of rfl rfl (by decide +kernel) (by decide +kernel) (by decide +kernel) (by decide +kernel) (by decide +kernel) (by decide),
    ready_of rfl rfl rfl,
    inDevice_of rfl rfl (by decide +kernel) (by decide +kernel) (by decide +kernel) (by decide +kernel) (by decide +kernel) (by decide),
    ready_of rfl (by decide +kernel) rfl, ownTile_st, rfl, rfl, rfl⟩

/-- Relaxed accesses: none outstanding, and eight. -/
def relaxedLoad (s : State) (i : Nat) : Req := { s.newReq s.view ⟨true, 8 * i, 0, 0, 0⟩ 8 (.ld 8 false) .tok true with id := i }
def stEight : State := { stK id with reqs := (List.range 8).map (relaxedLoad (stK id)) }
theorem test_witness_relaxed : relaxedOut (stK id) < 8 ∧ 8 ≤ relaxedOut stEight ∧ Ready stEight (sN 3 :: [] ++ [kN 2]) ∧
    InDevice stEight 2 64 8 8 [.read] 64 ∧ (stTile id).th.rowFaults.length < 8 ∧
    Form stEight (.ld .b64 false true 3) (.ldIndexed .b64 false true 3) (.ld .b64 false true 3 (.base 2 64)) 2 64 [] :=
  ⟨by decide +kernel, by decide +kernel, ready_of rfl rfl rfl,
    inDevice_of rfl rfl (by decide +kernel) (by decide +kernel) (by decide +kernel) (by decide +kernel) (by decide +kernel) (by decide),
    by decide +kernel, .inl ⟨64, rfl, by decide, rfl⟩⟩

/-- Keys that fail each check: no tag; another tenant; no right; one byte too far, and a negative offset; a misaligned address. -/
def failKey (k : KCell) : State := stK (·.setK 3 k)
theorem test_witness_key_checks : ((failKey { devKey with tag := false }).th.k[(3 : Fin 8)]).tag = false ∧
    ((failKey { devKey with w1 := 0x10000000100000 }).th.k[(3 : Fin 8)]).tenant ≠ st0.th.tenant ∧
    ((failKey { devKey with w0 := 0 }).th.k[(3 : Fin 8)]).has .read = false ∧
    ¬ (0 ≤ (0xFFFFD : Word).toInt ∧ (0xFFFFD : Word).toNat + 4 ≤ devKey.len) ∧ ¬ (0 ≤ (-1 : Word).toInt) ∧
    (devKey.has .read = true ∧ devKey.kind ≠ 1 ∧ (devKey.base + 2) % 4 ≠ 0) ∧ Ready (failKey devKey) (sN 3 :: [] ++ [kN 3]) :=
  ⟨by decide +kernel, by decide +kernel, by decide +kernel, by decide +kernel, by decide +kernel, by decide +kernel, ready_of rfl rfl rfl⟩

/-- Keys narrowed, told, refused; a slice of a dirty map harvested. -/
theorem test_witness_narrow : Ready (stK id) [kN 3, kN 2, s1.need, s1.need, s1.need] ∧ ((stK id).th.k[(2 : Fin 8)]).tag = true ∧
    (0 : Nat) + 0 ≤ devKey.len ∧ (63 : Word).toNat < 64 ∧ 64 ≤ (64 : Word).toNat ∧ devKey.len < (0x100000 : Word).toNat + (1 : Word).toNat ∧
    Ready (stK id) [sN 3, kN 2] :=
  ⟨ready_of rfl rfl rfl, rfl, by decide, by decide, by decide, by decide +kernel, ready_of rfl rfl rfl⟩
def stHarvest : State := stK fun t => { (t.setS 4 589823).setS 5 511 with level := .sup }
theorem test_witness_harvest : Ready stHarvest [sN 3, (⟨4, false⟩ : Src).need, (⟨5, false⟩ : Src).need] ∧ stHarvest.th.level ≠ .user ∧
    Quiet stHarvest ∧ (val stHarvest ⟨4, false⟩).toNat ≤ 589823 ∧ (val stHarvest ⟨5, false⟩).toNat ≤ 511 ∧
    (agetD stHarvest.dirty (val stHarvest ⟨4, false⟩).toNat []).Nodup :=
  ⟨ready_of rfl rfl rfl, by decide +kernel, quiet_st _, by decide +kernel, by decide +kernel, List.nodup_nil⟩

/-- `FENCE`: nothing to wait for; a deferred store; a relaxed load outstanding. -/
theorem test_witness_fence : (∀ r ∈ st0.reqs, r.uid = st0.th.uid → r.relaxed = false) ∧ st0.th.tmask = 0 ∧ st0.here.acquire = [] ∧
    st0.fabricStores = [] ∧ (stT ({ · with dstore := some ⟨0, 2, 5, 0, 0, 0⟩ })).th.dstore = some ⟨0, 2, 5, 0, 0, 0⟩ ∧
    ∃ r ∈ stEight.reqs, r.uid = stEight.th.uid ∧ r.relaxed = true ∧ r.dst ≠ .none :=
  ⟨fun r h => absurd h (by simp [st0, State.placeLine, State.reset, State.setCore, State.setPart]), rfl, rfl, rfl, rfl,
    relaxedLoad (stK id) 0, by decide +kernel, by decide +kernel, by decide +kernel, by decide +kernel⟩

/-- Page tables of tenant 0 at 0x100000, 0x102000 and 0x104000, and an access to virtual address 64. -/
def leafAddr : Nat := 0x104000
def stPage (leaf : Word) (q : Req → Req) : State :=
  let s := stK id
  let s := { s with tenants := [(0, { Tenant.zero with root := 0x100000, quota := 4096 })] }
  let s := ((s.wrW (.dev monKey) (0x100000 / 8) 0x102001).wrW (.dev monKey) (0x102000 / 8) 0x104001).wrW (.dev monKey) (leafAddr / 8) leaf
  { s with reqs := [q (s.newReq s.view ⟨true, 64, 0, 2, 0⟩ 8 (.ld 8 false) (.s 3) false)] }
def theReq (s : State) : Req := s.reqs.headD (st0.newReq st0.view ⟨true, 64, 0, 2, 0⟩ 8 (.ld 8 false) (.s 3) false)
theorem leafAt_st : LeafAt (stPage 0x600003 id) 0 64 leafAddr :=
  ⟨0x102000, 0x104000, by unfold Names; decide +kernel, by unfold Names; decide +kernel, by decide⟩
theorem leafAt_absent : LeafAt (stPage 0 id) 0 64 leafAddr :=
  ⟨0x102000, 0x104000, by unfold Names; decide +kernel, by unfold Names; decide +kernel, by decide⟩
theorem test_witness_walk : Lone (stPage 0x600003 id) (theReq (stPage 0x600003 id)) ∧ Plain2M (stPage 0x600003 id) (theReq (stPage 0x600003 id)) ∧
    GoodLeaf (tableWord (stPage 0x600003 id) leafAddr) ∧ (theReq (stPage 0x600003 id)).stage = .port ∧
    (theReq (stPage 0x600003 ({ · with stage := .walk }))).stage = .walk ∧
    aget ((stPage 0x600003 id).cluster 0).tcache (0, none, 0) = none :=
  ⟨⟨rfl, rfl, rfl, by decide +kernel, rfl, by decide +kernel⟩, ⟨rfl, by decide +kernel, by decide +kernel, by decide +kernel⟩,
    by unfold GoodLeaf; decide +kernel, rfl, rfl, rfl⟩
/-- A frame below the end of memory, one above it, and a secure page. -/
theorem test_witness_leaf : physical 0x600003 64 ≤ 0x11FFFFFFFFF ∧ 0x11FFFFFFFFF < physical 0x12000000003 64 ∧
    (0x8000000000600003 : Word).getLsbD 63 = true ∧ (theReq (stPage 0x8000000000600003 id)).sec = false ∧
    (theReq (stPage 0x600003 id)).relaxed = false ∧ (0x600003 : Word).getLsbD 1 = true ∧ (0x600003 : Word).getLsbD 62 = false := by
  decide +kernel
/-- A walk that finds the page absent, a request queued for it, room in the queue and in the quota, and none. -/
theorem test_witness_page_fault : (tableWord (stPage 0 id) leafAddr).getLsbD 0 = false ∧ (stPage 0 id).fineOf 0 0 64 = none ∧
    ((stPage 0 id).die 0).pageq.length < 256 ∧ ((stPage 0 id).die 0).active.length < 64 ∧
    (0 : BitVec 9) ∈ (((stPage 0 id).setDie 0 { (stPage 0 id).die 0 with active := [0] }).die 0).active ∧
    (stPage 0 id).mem.wf = true ∧ ((stPage 0 id).tenant 0).charged + 2048 ≤ ((stPage 0 id).tenant 0).quota ∧
    (0x8FFFF : Nat) * 2 ^ 21 + 2 ^ 21 ≤ 0x12000000000 ∧ Tenant.zero.quota < Tenant.zero.charged + 2048 := by
  decide +kernel
theorem test_witness_page_entry : (((stPage 0 id).setDie 0 { (stPage 0 id).die 0 with held := [⟨0, none, 64, false, false, []⟩] }).die 0).held =
    [⟨0, none, 64, false, false, []⟩] ∧ ((stPage 0 id).die 0).pageq = [] := by decide +kernel

/-- An access at its home: one word at 0x600040, full, empty, poisoned; a store that fills what a sync load waits for. -/
def atHomeReq (op : Op) (st : Stage) (i u : Nat) : Req :=
  { st0.newReq st0.view ⟨true, 64, 0, 2, 0⟩ 8 op (.s 3) false with id := i, uid := u, stage := st, pas := [(0x600040, 8)] }
def stHome (l : List Req) (m : Mem → Mem) : State :=
  let s := (stK id).wrW (.dev ⟨0, 0⟩) (0x600040 / 8) 5
  { s with reqs := l, mem := m s.mem }
theorem test_witness_home : (stHome [atHomeReq (.ld 8 false) .home 7 0] id).keyOf 0 = some ⟨0, 0⟩ ∧
    look (stHome [] id).mem.keys (0x600040 / 8) = some ⟨0, 0⟩ ∧ (stHome [] id).mem.wf = true ∧
    0x600040 % 8 + 8 ≤ 8 ∧ (atHomeReq (.ld 8 false) .home 7 0).va % 8 = 0x600040 % 8 ∧
    (stHome [] id).mem.bad (0x600040 / 8) = false ∧ (stHome [] (·.setBad (0x600040 / 8) true)).mem.bad (0x600040 / 8) = true ∧
    (stHome [] (·.setFull (0x600040 / 8) false)).mem.isFull (0x600040 / 8) = false ∧
    (atHomeReq (.st 8 1) .home 7 0).dt = false := by decide +kernel
theorem test_witness_home_lone : Lone (stHome [atHomeReq (.lds .take) .home 7 0] id) (atHomeReq (.lds .take) .home 7 0) ∧
    ((stHome [atHomeReq (.lds .take) .home 7 0] id).setSlot 0 0 { st0.me with st := .parked }).alive (atHomeReq (.lds .take) .home 7 0) = true :=
  ⟨⟨rfl, rfl, rfl, by decide +kernel, rfl, by decide +kernel⟩, by decide +kernel⟩
theorem test_witness_wait_list : (stHome [atHomeReq (.lds .take) .waiting 7 0, atHomeReq (.sts .fill 9) .home 8 1] id).reqs =
    [atHomeReq (.lds .take) .waiting 7 0, atHomeReq (.sts .fill 9) .home 8 1] ∧
    (atHomeReq (.lds .take) .waiting 7 0).id ≠ (atHomeReq (.sts .fill 9) .home 8 1).id ∧
    (atHomeReq (.lds .take) .waiting 7 0).uid ≠ (atHomeReq (.sts .fill 9) .home 8 1).uid := by decide +kernel
theorem test_witness_backoff : (atHomeReq (.lds .full) (.backoff 0) 7 0).stage = .backoff 0 ∧
    0 ≤ ((stHome [atHomeReq (.lds .full) (.backoff 0) 7 0] id).core 0).cycle := by decide +kernel

/-- A probe on its way out and on its way back; two adds to one word, and the second's share of the answer. -/
theorem test_witness_combine : (atHomeReq (.amo .add 8 1 0) .home 7 0).id ≠ (atHomeReq (.amo .add 8 2 0) .home 8 1).id ∧
    (atHomeReq (.amo .add 8 1 0) .home 7 0).tenant = (atHomeReq (.amo .add 8 2 0) .home 8 1).tenant ∧
    (atHomeReq (.amo .add 8 1 0) .home 7 0).pas = [(0x600040, 8)] ∧
    ({ atHomeReq (.amo .add 8 1 0) .reply 7 0 with reply := some (.words [5] false) } : Req).reply = some (.words [5] false) ∧
    (atHomeReq (.amo .add 8 2 0) (.combined 7 1 0 0) 8 1).stage = .combined 7 1 0 0 := by decide +kernel
theorem test_witness_probe (p : Probe) : ({ st0 with probes := [p] } : State).probes = [p] ∧ ({ st0 with probes := [p] } : State).reqs = [] :=
  ⟨rfl, rfl⟩


/-! ## Messages and migration -/

/-- A partition of two places: places 0 and 1 are cores 0 and 1. -/
def stTwo (f : Thread → Thread) (g : Core → Core) : State :=
  let s := stTC f g
  s.setPart 0 { s.part 0 with len := 2, places := [0, 1], ranking := [0, 1] }

/-- Payloads of no word and of seven, the kinds at the bounds, send entries free and in use. -/
theorem test_witness_send : (∀ n ∈ [(0 : BitVec 3), 7], Ready st0 ([sN 3] ++ (List.range n.toNat).map (fun i =>
      ⟨.s ((⟨20, false⟩ : Src).reg + BitVec.ofNat 5 i), (⟨20, false⟩ : Src).wait⟩) ++ [s1.need])) ∧
    (val (stT (·.setS 4 0x8000000007)) ⟨4, false⟩).toNat / 2 ^ 32 % 2 ^ 8 = 0x80 ∧ val st0 s1 = 0 ∧
    (val (stT (·.setS 4 0x8000000007)) ⟨4, false⟩).toNat / 2 ^ 40 % 2 ^ 23 = 0 ∧
    st0.placeCore st0.cur.core (st0.th.sv 3).toNat = some 0 ∧ st0.me.sends < 2 ∧
    2 ≤ (st0.setMe { st0.me with sends := 2 }).me.sends :=
  ⟨by simp only [List.mem_cons, List.not_mem_nil, or_false, forall_eq_or_imp, forall_eq]; exact ⟨ready_of rfl rfl rfl, ready_of rfl rfl rfl⟩,
    by decide +kernel, rfl, by decide +kernel, by decide +kernel, by decide +kernel, by decide +kernel⟩

def anEntry : InEntry := ⟨List.replicate 8 0, 0, false, none, []⟩
def aMsg (st : MsgStage) : Msg := ⟨5, [anEntry], .slot 0 0, 0, st, none, false, 0⟩
def stMsg (st : MsgStage) (x : Inbox) : State := { stC ({ · with inbox := x }) with msgs := [aMsg st] }
theorem oneMsg_st (st : MsgStage) (x : Inbox) (h : (stMsg st x).onTime ((stMsg st x).msgWires (aMsg st)) = true := by decide +kernel) :
    OneMsg (stMsg st x) (aMsg st) := ⟨rfl, rfl, rfl, (by decide : (0 : Word).getLsbD 63 = false), h⟩
/-- A message in flight and one sent again, before an inbox with one free entry and before a full one, whose list of refused
senders has room and has none; a message that comes back. -/
theorem test_witness_acceptance : OneMsg (stMsg .flight ⟨List.replicate 63 anEntry, [], []⟩) (aMsg .flight) ∧
    OneMsg (stMsg .again ⟨[], [], []⟩) (aMsg .again) ∧
    ((stMsg .flight ⟨List.replicate 63 anEntry, [], []⟩).core 0).inbox = ⟨List.replicate 63 anEntry, [], []⟩ ∧
    ((stMsg .flight ⟨List.replicate 64 anEntry, [], []⟩).core 0).inbox = ⟨List.replicate 64 anEntry, [], []⟩ ∧
    (List.replicate 31 (1, 1)).length < 32 ∧ 32 ≤ (List.replicate 32 (1, 1)).length ∧ [anEntry] ≠ [] :=
  ⟨oneMsg_st _ _, oneMsg_st _ _, rfl, rfl, by decide, by decide, by decide⟩
theorem test_witness_bounce (r : Bool) : OneMsg (stMsg (.bounced r) ⟨[], [], [(5, 1)]⟩) (aMsg (.bounced r)) ∧
    ((stMsg (.bounced true) ⟨[], [], [(5, 1)]⟩).core 0).inbox.refused = [(5, 1)] ∧ (aMsg (.bounced r)).src = .slot 0 0 ∧
    OneMsg (stMsg (.backoff 0) ⟨[], [], []⟩) (aMsg (.backoff 0)) ∧ 0 ≤ ((stMsg (.backoff 0) ⟨[], [], []⟩).core 0).cycle ∧
    OneMsg (stMsg .notice ⟨[], [], []⟩) (aMsg .notice) :=
  ⟨by cases r <;> exact oneMsg_st _ _, rfl, rfl, oneMsg_st _ _, Nat.zero_le _, oneMsg_st _ _⟩
/-- `RECV` to `s24`–`s31` with an entry that matches, before a recorded sender; and with one of another tenant. -/
theorem test_witness_recv : OneMsg (stMsg .recorded ⟨[anEntry], [], [(5, 1)]⟩) (aMsg .recorded) ∧
    Ready (stMsg .recorded ⟨[anEntry], [], [(5, 1)]⟩) ((List.range 8).map fun i => sN (24 + BitVec.ofNat 5 i)) ∧
    Takes (stMsg .recorded ⟨[anEntry], [], [(5, 1)]⟩).th anEntry ∧ anEntry.task = none ∧ (anEntry.words.headD 0).toNat / 2 ^ 56 ≠ 1 ∧
    (∀ e ∈ [({ anEntry with tenant := 1 } : InEntry)], ¬ Takes st0.th e) :=
  ⟨oneMsg_st _ _, ready_of rfl rfl rfl, by unfold Takes; decide +kernel, rfl, by decide, by unfold Takes; decide +kernel⟩

/-- Neighbour words: core 0 of two has a peer to one side; its in-port; a word on its way. -/
def aWord (p : Port) : NWord := ⟨9, 0, 1, p, 5, false⟩
theorem test_witness_ports : st0.peer st0.cur.core .n = none ∧ (stTwo id id).peer (stTwo id id).cur.core .e = some 1 ∧
    ((stTwo id id).core 1).ports[(Port.opposite .e).idx] = [] ∧ (stTwo id id).words = [] ∧
    ((stTwo id id).setCore 1 { (stTwo id id).core 1 with ports := Vector.replicate 4 [1, 2, 3, 4] }).core 1 =
      { (stTwo id id).core 1 with ports := Vector.replicate 4 [1, 2, 3, 4] } ∧
    (stC ({ · with ports := Vector.replicate 4 [7] })).here.ports[Port.idx .n] = [7] ∧ st0.here.ports[Port.idx .n] = [] ∧
    ({ stTwo id id with words := [aWord .w] } : State).words = [aWord .w] ∧ (aWord .w).gate = false := by decide +kernel

/-- `MIGR` to another place, to this one; requests that find an entry of the landing buffer free and all four taken. -/
theorem test_witness_migrate : Ready (stTwo (·.setS 3 1) id) [sN 3] ∧
    (stTwo (·.setS 3 1) id).placeCore 0 ((stTwo (·.setS 3 1) id).th.sv 3).toNat = some 1 ∧
    ((stTwo (·.setS 3 1) id).th.sv 3).toNat ≠ (stTwo (·.setS 3 1) id).th.place ∧
    (stTwo (·.setS 3 1) id).mayMigrate 0 (stTwo (·.setS 3 1) id).th = true ∧
    (stTwo (·.setS 3 0) id).placeCore 0 ((stTwo (·.setS 3 0) id).th.sv 3).toNat = some 0 ∧
    ((stTwo (·.setS 3 0) id).th.sv 3).toNat = (stTwo (·.setS 3 0) id).th.place :=
  ⟨ready_of rfl rfl rfl, by decide +kernel, by decide +kernel, by decide +kernel, by decide +kernel, by decide +kernel⟩
def aResv (st : ResStage) : Resv := ⟨6, 0, 0, 0, 1, 1, st, 0⟩
def stResv (st : ResStage) (l : List Landing) : State :=
  let s := stTwo id id
  let s := { s with resvs := [aResv st] }
  (s.setCore 1 { s.core 1 with landing := l }).setSlot 0 0 { s.slotAt 0 0 with st := .parked, wait := .migrate }
theorem test_witness_reservation : (∀ st, (stResv st []).resvs = [aResv st]) ∧
    ((stResv .flight []).core (aResv .flight).target).resvq = [] ∧
    ((stResv .flight (List.replicate 3 (.waits Thread.empty))).core 1).landing = List.replicate 3 (.waits Thread.empty) ∧
    ((stResv .flight (List.replicate 4 (.waits Thread.empty))).core 1).landing = List.replicate 4 (.waits Thread.empty) ∧
    0 ≤ ((stResv (.backoff 0) []).core 0).cycle ∧ ((stResv .granted []).slotAt 0 0).th.uid = (aResv .granted).uid ∧
    ((stResv .granted []).slotAt 0 0).st = .parked :=
  ⟨fun _ => rfl, by decide +kernel, by decide +kernel, by decide +kernel, by decide +kernel, by decide +kernel, by decide +kernel⟩
def stDrain (d : Drain) : State := (stTwo id id).setSlot 0 0 { st0.me with st := .draining, drain := d }
theorem test_witness_leave : ((stDrain (.migrate 1 1)).slotAt 0 0).st = .draining ∧ (stDrain (.migrate 1 1)).drained 0 0 = true ∧
    ((stDrain (.migrate 1 1)).slotAt 0 0).drain = .migrate 1 1 ∧ ((stDrain (.migrate 1 1)).slotAt 0 0).th.callers = [] ∧
    ((stDrain (.migrate 1 1)).slotAt 0 0).chosen = false := by decide +kernel
def aPacket : Packet := ⟨8, 1, 1, Thread.empty, false, (0, 0, 0)⟩
theorem test_witness_arrive : ({ stResv .flight [.reserved 0 0 0] with packets := [aPacket], resvs := [] } : State).packets = [aPacket] ∧
    (({ stResv .flight [.reserved 0 0 0] with packets := [aPacket], resvs := [] } : State).core aPacket.target).landing = [.reserved aPacket.src.1 aPacket.src.2.1 aPacket.src.2.2] ∧
    aPacket.cancelled = false := by decide +kernel
theorem test_witness_release : ({ st0 with releases := [⟨4, 0, 0, 15⟩] } : State).releases = [⟨4, 0, 0, 15⟩] ∧ (15 : Nat) < 16 := ⟨rfl, by decide⟩

/-! ## Slots -/

/-- Slot 3 of core 0 holds `x`; every other slot is disabled. -/
def stSlot (x : Slot) (g : Core → Core) : State :=
  st0.setHere (g { st0.here with slots := (Vector.replicate 16 { Slot.free with st := .disabled }).set 3 x })
/-- The one FREE slot meets a thread that waits in the landing buffer. -/
theorem oneFree_st (g : Core → Core) (h : (g { st0.here with slots := (Vector.replicate 16 { Slot.free with st := .disabled }).set 3 Slot.free }).cycle % 16 = 0)
    (h2 : ∀ m : SlotId, ((stSlot Slot.free g).slotAt 0 m).st = .free ↔ m = 3) : OneFree (stSlot Slot.free g) 0 3 := ⟨h, h2⟩
theorem test_witness_grant_landing : OneFree (stSlot Slot.free ({ · with landing := [.waits Thread.empty] })) 0 3 ∧
    ((stSlot Slot.free ({ · with landing := [.waits Thread.empty] })).core 0).landing = [.waits Thread.empty] :=
  ⟨oneFree_st _ (by decide +kernel) (by decide +kernel), by decide +kernel⟩
/-- A pending spawn: its last thread and not its last; the last window-stack area free. -/
def aLaunch : Launch := ⟨0, 5, 0, 0, 1, 2, true, 4, [1, 2, 3, 4], 0, Vector.replicate 8 KCell.zero, 0, .user, none⟩
def stPend (taken : Nat) : State :=
  let s := stSlot Slot.free ({ · with areas := 0x7FFF, qown := 0x1000000000 })
  s.setCluster 0 { s.cluster 0 with pending := [⟨aLaunch, 0, taken⟩] }
theorem test_witness_grant_spawn (k : Nat) (h : k = 0 ∨ k = 1) : OneFree (stPend k) 0 3 ∧ ((stPend k).core 0).landing = [] ∧
    ((stPend k).core 0).susp = [] ∧ ((stPend k).cluster (clusterOf 0)).pending = [⟨aLaunch, 0, k⟩] ∧ aLaunch.gate = none ∧
    k < aLaunch.countAt 0 ∧ (stPend k).launchCore aLaunch 0 = 0 ∧ ClassServes (stPend k) 0 aLaunch.q aLaunch.tenant ∧
    ((stPend k).core 0).areas.getLsbD 15 = false ∧ (∀ j, j < 15 → ((stPend k).core 0).areas.getLsbD j = true) := by
  obtain rfl | rfl := h
  · exact ⟨⟨by decide +kernel, by decide +kernel⟩, by decide +kernel, by decide +kernel, by decide +kernel, rfl, by decide +kernel,
      by decide +kernel, by unfold ClassServes; decide +kernel, by decide +kernel, by decide +kernel⟩
  · exact ⟨⟨by decide +kernel, by decide +kernel⟩, by decide +kernel, by decide +kernel, by decide +kernel, rfl, by decide +kernel,
      by decide +kernel, by unfold ClassServes; decide +kernel, by decide +kernel, by decide +kernel⟩
/-- A slot whose context is written; one that drains to retire, with another thread of its launch; one that is suspended. -/
theorem test_witness_context : ((stSlot { Slot.free with st := .loading } id).slotAt 0 3).st = .loading ∧
    ((stSlot { Slot.free with st := .loading } id).slotAt 0 3).loadEnd ≤ ((stSlot { Slot.free with st := .loading } id).core 0).cycle ∧
    ((stSlot { Slot.free with st := .loading } id).slotAt 0 3).cancelled = false ∧
    ((stSlot { Slot.free with st := .loading } id).slotAt 0 3).chosen = false := by decide +kernel
def stRetire : State :=
  let s := stSlot { Slot.free with st := .draining } id
  s.setLv (State.launchEntry 0 0) { s.lv (State.launchEntry 0 0) with st := .sealed, count := 2 }
theorem test_witness_drain : (stRetire.slotAt 0 3).st = .draining ∧ stRetire.drained 0 3 = true ∧ (stRetire.slotAt 0 3).chosen = false ∧
    (stRetire.slotAt 0 3).drain = .retire ∧
    (stRetire.lv (State.launchEntry ((stRetire.partOf 0).getD 64) (stRetire.slotAt 0 3).th.launch)).count ≥ 2 ∧
    ((stSlot { Slot.free with st := .draining, drain := .suspend } id).slotAt 0 3).drain = .suspend ∧
    (stSlot { Slot.free with st := .draining, drain := .suspend } id).drained 0 3 = true ∧
    ((stSlot { Slot.free with st := .draining, drain := .suspend } id).core 0).susp.length < 128 := by decide +kernel
theorem test_witness_suspend : (stSlot { Slot.free with st := .ready, outgoing := true } ({ · with suspb := 0x8000000000000000, qown := 0 })).issueSlot 0 = some 3 ∧
    (stSlot { Slot.free with st := .ready, outgoing := true } ({ · with suspb := 0x8000000000000000, qown := 0 })).suspendNow 0 3 = true := by
  decide +kernel

/-- Parked threads whose events have come: a reply, a send entry, the array queue, a message. -/
def stPark (w : WaitOn) (g : Core → Core) : State := stSlot { Slot.free with st := .parked, wait := w } g
theorem test_witness_wake : (∀ w ∈ [WaitOn.woken, .sendEntry, .arrayQueue], ((stPark w id).slotAt 0 3).st = .parked ∧
      ((stPark w id).slotAt 0 3).held = none ∧ ((stPark w id).slotAt 0 3).wait = w) ∧ (stPark .woken id).lvrctl.getLsbD 63 = false ∧
    ((stPark .sendEntry id).slotAt 0 3).sends < 2 ∧ ((stPark .arrayQueue id).core 0).arrayq.length < 4 ∧
    ((stPark .recv ({ · with inbox := ⟨[anEntry], [], []⟩ })).core 0).inbox.entries = [anEntry] ∧
    ((stPark .recv ({ · with inbox := ⟨[anEntry], [], []⟩ })).slotAt 0 3).wait = .recv ∧ Takes Thread.empty anEntry :=
  ⟨by decide +kernel, by decide +kernel, by decide +kernel, by decide +kernel, by decide +kernel, by decide +kernel, by unfold Takes; decide +kernel⟩
/-- A parked thread with three callers' windows, none of them on the stack: first and last of the four steps. -/
def stSpill (k : Nat) : State :=
  stSlot { Slot.free with st := .parked, th := { Thread.empty with callers := List.replicate 3 (Vector.replicate 16 Cell.zero), spill := k, wsp := BitVec.ofNat 64 (0x788 * 2 ^ 39 + 0x780 * 2 ^ 27 + 3 * 2 ^ 17 + 0x780 * 2 ^ 5) } } id
theorem test_witness_spill (k : Nat) (h : k = 0 ∨ k = 3) : (stSpill k).issueSlot 0 = none ∧ (stSpill k).spillSlot 0 = some 3 ∧
    (stSpill k).stackCore 0 ((stSpill k).slotAt 0 3).th = 0 ∧
    (∃ w, windowCells ((stSpill k).slotAt 0 3).th (wspPtr ((stSpill k).slotAt 0 3).th.wsp - wspBase ((stSpill k).slotAt 0 3).th.wsp) = some w) ∧
    ((stSpill k).slotAt 0 3).th.spill < 4 ∧ ((stSpill k).core 0).ls.wf = true := by
  obtain rfl | rfl := h
  · exact ⟨by decide +kernel, by decide +kernel, by decide +kernel, ⟨_, (by decide +kernel : _ = some (Vector.replicate 16 Cell.zero))⟩, by decide +kernel, by decide +kernel⟩
  · exact ⟨by decide +kernel, by decide +kernel, by decide +kernel, ⟨_, (by decide +kernel : _ = some (Vector.replicate 16 Cell.zero))⟩, by decide +kernel, by decide +kernel⟩

/-- The breakwater: an evaluation is due; the highest enabled slot FREE, PARKED, READY; the lowest disabled one. -/
def stBw (x : Slot) : State := stSlot x ({ · with cycle := 4096 })
theorem test_witness_breakwater : (∀ st ∈ [SlotSt.free, .parked, .ready], EvalDue (stBw { Slot.free with st := st }) 0 ∧
      Enabled ((stBw { Slot.free with st := st }).slotAt 0 3) ∧ (∀ m : SlotId, 3 < m → ¬ Enabled ((stBw { Slot.free with st := st }).slotAt 0 m))) ∧
    (stBw { Slot.free with st := .ready, th := { Thread.empty with tileb := 0xA1 } }).mayMigrate 0 { Thread.empty with tileb := 0xA1 } = false ∧
    (95 : Nat) < 96 ∧ (4800000 : Nat) < 4800001 := by
  unfold EvalDue Serving Enabled; decide +kernel
theorem test_witness_breakwater_enable : (∀ st ∈ [SlotSt.disabled, .heldParked], EvalDue (stBw { Slot.free with st := st }) 0 ∧
      ¬ Enabled (({ stBw { Slot.free with st := st } with cores := [(0, { (stBw { Slot.free with st := st }).core 0 with
        slots := (Vector.replicate 16 Slot.free).set 3 { Slot.free with st := st } })] } : State).slotAt 0 3) ∧
      (∀ m : SlotId, m < 3 → Enabled (({ stBw { Slot.free with st := st } with cores := [(0, { (stBw { Slot.free with st := st }).core 0 with
        slots := (Vector.replicate 16 Slot.free).set 3 { Slot.free with st := st } })] } : State).slotAt 0 m))) ∧ (89 : Nat) < 90 ∧ 4559999 < 4560000 := by
  unfold EvalDue Serving Enabled; decide +kernel
/-- A ranking of two places, the core with a disabled slot last. -/
theorem test_witness_ranking : ([1, 0] : List CoreId).length = ((stTwo id id).part (0 : BitVec 6).toNat).places.length ∧
    (∀ d : CoreId, d ∈ ([1, 0] : List CoreId) ↔ d ∈ ((stTwo id id).part (0 : BitVec 6).toNat).places) ∧
    ([1, 0] : List CoreId).Pairwise fun a b => (∃ m : SlotId, ((stTwo id id).slotAt a m).st = .disabled) → ∃ m : SlotId, ((stTwo id id).slotAt b m).st = .disabled := by
  refine ⟨by decide +kernel, fun d => ?_, ?_⟩
  · have : ((stTwo id id).part 0).places = [0, 1] := by decide +kernel
    simp [this, or_comm]
  · decide +kernel

/-! ## Shift tracks -/

/-- Core 0's track 63 is `k`; the launch of the thread is open; the thread is bound to a tile it owns. -/
def stTrack (k : Track) (f : Thread → Thread) : State :=
  let s := (stTile f).setHere { (stTile f).here with tracks := [(63, k)] }
  s.setLv (State.launchEntry 0 0) { s.lv (State.launchEntry 0 0) with st := .opened, count := 1 }
def myTrack : Track := { Track.reset with valid := true, resid := true }
theorem usable_st (k : Track) (f : Thread → Thread) (h : (stTrack k f).here.track 63 = k) (h1 : k.nodes = [] ∧ k.arrays = 0 ∧ k.move = .idle ∧ k.after = .rest)
    (h2 : k.xfer = false ∧ k.lost = false ∧ k.valid = true ∧ k.launch = (stTrack k f).th.launch ∧ (stTrack k f).partOf 0 = some 0 ∧
      ((stTrack k f).lv ⟨0, .launch, k.launch.toNat % 4096⟩).st = .opened ∧
      ((stTrack k f).lv ⟨0, .launch, k.launch.toNat % 4096⟩).gen.toNat = k.launch.toNat / 4096)
    (h3 : rising (k.rows.map (·.1)) = true ∧ rising k.bad = true) (h4 : k.codes = []) (h5 : (stTrack k f).here.shiftq = []) (h6 : (stTrack k f).me.st = .ready)
    (h7 : k.pos < 256) (h8 : ∀ p ∈ (stTrack k f).here.tracks, p.2.move = .idle) : Usable (stTrack k f) 63 k :=
  ⟨h, h1, fun _ => ⟨h2.1, h2.2.1, h2.2.2.1, h2.2.2.2.1, 0, h2.2.2.2.2.1, .inl h2.2.2.2.2.2.1, h2.2.2.2.2.2.2⟩, h3, h4, ⟨h5, h8⟩, h6, h7⟩
/-- A track that may be used, the head at the first position and at the last, operands full, the row at the head good. -/
theorem test_witness_usable (p : Nat) (h : p = 0 ∨ p = 255) : Usable (stTrack { myTrack with pos := p } id) 63 { myTrack with pos := p } ∧
    ({ myTrack with pos := p } : Track).bad.contains p = false := by
  obtain rfl | rfl := h
  · exact ⟨usable_st _ _ (by decide +kernel) (by decide) (by decide +kernel) (by decide) rfl (by decide +kernel) (by decide +kernel) (by decide) (by decide +kernel), by decide⟩
  · exact ⟨usable_st _ _ (by decide +kernel) (by decide) (by decide +kernel) (by decide) rfl (by decide +kernel) (by decide +kernel) (by decide) (by decide +kernel), by decide⟩
theorem test_witness_track_operands : Ready (stTrack myTrack id) [sN 3] ∧ Ready (stTrack myTrack id) [] ∧ Ready (stTrack myTrack id) [vN 4] ∧
    Ready (stTrack myTrack id) [s1.vneed] ∧ OwnTile (stTrack myTrack id) 2 ∧ (stTrack myTrack id).heldRow 0 2 4 = false ∧
    Ready (stTrack myTrack (·.setS 4 256)) [(⟨4, false⟩ : Src).need, s1.vneed] ∧
    (val (stTrack myTrack (·.setS 4 256)) ⟨4, false⟩).toNat = 256 ∧ (val (stTrack myTrack id) ⟨4, false⟩).toNat = 0 :=
  ⟨ready_of rfl rfl rfl, ready_of rfl rfl rfl, ready_of rfl (by decide +kernel) rfl, ready_of rfl (by decide +kernel) rfl,
    ⟨by decide +kernel, by decide +kernel, .inr (by decide +kernel)⟩, by decide +kernel, ready_of rfl (by decide +kernel) rfl, by decide +kernel, by decide +kernel⟩

/-- Tracks that are free, that the launch holds, that another launch or another tenant holds, that another tenant has left. -/
theorem test_witness_claim : (∀ k ∈ [Track.reset, { Track.reset with resid := true }], k.valid = false ∧ (k.resid = false ∨ k.tenant = (stTrack k id).th.tenant)) ∧
    LaunchLive (stTrack myTrack id) 0 ∧ myTrack.launch = (stTrack myTrack id).th.launch ∧
    (0 : BitVec 16) ≠ (stTrack { myTrack with launch := 0 } ({ · with self := 0x0000000000100000 })).th.launch ∧
    ({ Track.reset with resid := true, tenant := 1 } : Track).tenant ≠ (stTrack Track.reset id).th.tenant :=
  ⟨by decide +kernel, ⟨0, by decide +kernel, .inl (by decide +kernel), by decide +kernel⟩, by decide +kernel, by decide +kernel, by decide +kernel⟩
theorem test_witness_claim_other : LaunchLive (stTrack myTrack ({ · with self := 0x0000000000100000 })) 0 ∧
    ((stTrack myTrack ({ · with self := 0x0000000000100000 })).here.track 63).launch = 0 ∧
    ((stTrack myTrack ({ · with self := 0x0000000000100000 })).here.track 63).valid = true :=
  ⟨⟨0, by decide +kernel, .inl (by decide +kernel), by decide +kernel⟩, by decide +kernel, by decide +kernel⟩
/-- `HCLM.ANY` with track 63 the one free one, and with none; no track is claimed meanwhile. -/
def stLost (k : Track) : State :=
  st0.setHere { st0.here with tracks := (List.range 63).map (fun i => (BitVec.ofNat 6 i, { Track.reset with lost := true })) ++ [(63, k)] }
theorem test_witness_claim_any : (∀ j : TrackId, j < 63 → ((stLost Track.reset).here.track j).lost = true ∧ ((stLost Track.reset).here.track j).valid = false) ∧
    (stLost Track.reset).here.track 63 = Track.reset ∧
    (∀ j : TrackId, ((stLost { Track.reset with lost := true }).here.track j).lost = true ∧ ((stLost { Track.reset with lost := true }).here.track j).valid = false) := by
  decide +kernel

/-- Moves that end: of a seek, of a scrub, of its zeroing, of a recalibration; a move that waits. -/
def stMoves (k : Track) : State := stSlot { Slot.free with st := .parked, wait := .recal 63 } ({ · with tracks := [(63, k)] })
theorem test_witness_move_end : (∀ a ∈ [TAfter.rest, .scrub, .zeroing, .recal 3 0 true],
      ((stMoves { Track.reset with move := .moving 0, after := a }).core 0).track 63 = { Track.reset with move := .moving 0, after := a }) ∧
    0 ≤ ((stMoves Track.reset).core 0).cycle ∧ ((stMoves Track.reset).slotAt 0 3).th.uid = 0 ∧ ((stMoves Track.reset).slotAt 0 3).st = .parked ∧
    ((stMoves Track.reset).slotAt 0 3).wait = .recal 63 ∧ ((stMoves Track.reset).slotAt 0 3).held = none := by decide +kernel
theorem test_witness_move_start : (((stMoves { Track.reset with move := .queued 128 }).setCore 0 { (stMoves { Track.reset with move := .queued 128 }).core 0 with shiftq := [63] }).core 0).shiftq = [63] ∧
    ((stMoves { Track.reset with move := .queued 128 }).core 0).track 63 = { Track.reset with move := .queued 128 } ∧
    (((stMoves { Track.reset with move := .queued 128 }).core 0).tracks.all fun p => match p.2.move with | .moving _ => false | _ => true) = true := by
  decide +kernel

/-! ## Descriptors, stitched tensors -/

/-- A dense tensor of 4 rows of 16 elements FP32 in the local store, and a stitched one whose control block is at address 0. -/
def denseDesc : Desc :=
  ⟨0, #v[BitVec.ofNat 64 (2 ^ 58 + 2 ^ 56), lsKey.w0, lsKey.w1, BitVec.ofNat 64 (4 * 2 ^ 32 + 16), BitVec.ofNat 64 (2 ^ 32 + 1),
    BitVec.ofNat 64 (16 * 2 ^ 32 + 1), 0, 0]⟩
def stitchDesc : Desc :=
  ⟨0, #v[BitVec.ofNat 64 (2 * 2 ^ 62 + 2 ^ 58 + 2 ^ 56), devKey.w0, devKey.w1, BitVec.ofNat 64 (4 * 2 ^ 32 + 16),
    BitVec.ofNat 64 (2 ^ 32 + 1), BitVec.ofNat 64 (16 * 2 ^ 32 + 1), 0, BitVec.ofNat 64 (2 ^ 32 + 4 * 2 ^ 16)]⟩
/-- The cluster's copy holds a descriptor of tensor 255. -/
def stDesc (d : Desc) (f : Thread → Thread) : State :=
  let s := stK f
  { s with copies := [((0, 0), { TableCopy.reset with descs := [(255, d)] })] }
theorem hasDesc_st (d : Desc) (f : Thread → Thread) (h : aget (stDesc d f).copyHere.descs 255 = some d) (h2 : d.tenant = (stDesc d f).th.tenant) :
    HasDesc (stDesc d f) 255 d := ⟨h, h2⟩
theorem test_witness_tdget : HasDesc (stDesc denseDesc (·.setS 3 7)) 255 denseDesc ∧ Ready (stDesc denseDesc (·.setS 3 7)) [sN 31, sN 3] ∧
    ((stDesc denseDesc (·.setS 3 7)).th.sv 3).toNat < 8 ∧ 8 ≤ ((stDesc denseDesc (·.setS 3 8)).th.sv 3).toNat ∧
    aget st0.copyHere.descs 255 = none ∧ Quiet (stDesc denseDesc id) ∧ denseDesc.kind ≠ 2 :=
  ⟨hasDesc_st _ _ (by decide +kernel) (by decide +kernel), ready_of rfl rfl rfl, by decide +kernel, by decide +kernel, rfl,
    ⟨rfl, rfl, rfl, (by decide : (0 : Word).getLsbD 63 = false), rfl, fun _ h => nomatch h⟩, by decide +kernel⟩
/-- `TDSET` of the dense image at byte 64 of the local store. -/
def stImage : State :=
  let s := stK (·.setS 3 64)
  let s := (List.finRange 8).foldl (fun s i => s.storeW (.ls 0) (8 + i.val) denseDesc.words[i]) s
  (s.setTagAt (.ls 0) 9 true).setTagAt (.ls 0) 10 true
theorem test_witness_tdset : Quiet stImage ∧ Ready stImage [kN 1, sN 3] ∧ OwnStore stImage 1 (stImage.th.sv 3) 64 64 [.read, .cap] 64 ∧
    (∀ i, i < 8 → stImage.here.ls.bad (64 / 8 + i) = false) ∧ denseDesc.tenant = stImage.th.tenant ∧
    (∀ i : Fin 8, denseDesc.words[i] = stImage.here.ls.word (64 / 8 + i.val)) ∧
    (stImage.th.k[(1 : KReg).toFin]).tenant = stImage.th.tenant ∧ denseDesc.kind ≠ 3 ∧
    denseDesc.check 255 stImage.th.level stImage.th.tenant (stImage.here.ls.tag (64 / 8 + 1) && stImage.here.ls.tag (64 / 8 + 2)) = none ∧
    aget (stImage.part stImage.partHere).descs 255 = none :=
  ⟨⟨rfl, rfl, rfl, (by decide : (0 : Word).getLsbD 63 = false), rfl, fun _ h => nomatch h⟩, ready_of rfl (by decide +kernel) rfl,
    ownStore_of (by decide +kernel) (by decide +kernel) (by decide +kernel) (by decide +kernel) (by decide +kernel) (by decide +kernel)
      (by decide +kernel) (by decide) (by decide +kernel),
    by decide +kernel, by decide +kernel, by decide +kernel, by decide +kernel, by decide +kernel, by decide +kernel, by decide +kernel⟩
/-- Cluster 511's copy for partition 63 with one update on its way to it, over an entry of tensor 255. -/
def stUpdate (u : DescUpd) : State := { st0 with copies := [((63, 511), { TableCopy.reset with descs := [(255, stitchDesc)], descq := [(1, u)] })] }
theorem test_witness_update : (∀ u ∈ [DescUpd.entry 255 (some denseDesc), .version 255 2 8], OnlyUpdates (stUpdate u) 63 511 ∧
      ((stUpdate u).copy 63 511).descq = [(1, u)] ∧ aget ((stUpdate u).copy 63 511).descs 255 = some stitchDesc) ∧ stitchDesc.kind = 2 := by
  unfold OnlyUpdates; decide +kernel
theorem test_witness_versions : VersionsApplied (stDesc stitchDesc id) 255 ∧ VersionsApplied (stUpdate (.entry 255 (some denseDesc))) 255 := by
  constructor
  · intro q h u hu
    have : q = ((0, 0), { TableCopy.reset with descs := [(255, stitchDesc)] }) := List.mem_singleton.1 h
    subst this; exact nomatch hu
  · intro q h u hu v n he
    have : q = ((63, 511), { TableCopy.reset with descs := [(255, stitchDesc)], descq := [(1, .entry 255 (some denseDesc))] }) := List.mem_singleton.1 h
    subst this
    have : u = (1, .entry 255 (some denseDesc)) := List.mem_singleton.1 hu
    subst this; exact nomatch he

/-- The control block of the stitched tensor in the page at 0x600000: version 1 in slot 0, three pins, one piece; the record to
insert is the first of the local store. -/
def stStitch (f : Thread → Thread) : State :=
  let s := { stDesc stitchDesc f with tenants := [(0, { Tenant.zero with root := 0x100000, quota := 4096 })] }
  let s := ((s.wrW (.dev monKey) (0x100000 / 8) 0x102001).wrW (.dev monKey) (0x102000 / 8) 0x104001).wrW (.dev monKey) (0x104000 / 8) 0x600003
  let dev : Space := .dev ⟨0, 0⟩
  let p := 0x600000 / 8
  let s := (s.storeW dev (p + 1) (BitVec.ofNat 64 (2 ^ 32 + 2))).storeW dev (p + 8) (BitVec.ofNat 64 (2 ^ 32 + 3))
  let s := s.storeW dev (p + 9) (BitVec.ofNat 64 (2 ^ 63 + 2 ^ 32 + 4))
  let s := (s.storeW dev (p + 64) devKey.w0).storeW dev (p + 65) devKey.w1
  let s := (s.setTagAt dev (p + 64) true).setTagAt dev (p + 65) true
  let s := s.storeW dev (p + 66) 4
  let s := ((s.storeW (.ls 0) 0 devKey.w0).storeW (.ls 0) 1 devKey.w1).storeW (.ls 0) 2 4
  (s.setTagAt (.ls 0) 0 true).setTagAt (.ls 0) 1 true
def stCtrl : Ctrl := ⟨0, 0, 1, 2, ⟨1, 3, true, 1, BitVec.ofNat 64 (2 ^ 63 + 2 ^ 32 + 4)⟩ :: List.replicate 7 ⟨0, 0, false, 0, 0⟩⟩
theorem test_witness_control_block : (stStitch id).ctrl ((stStitch id).blk (stStitch id).cur.core stitchDesc.key) = .ok (some stCtrl) := by
  rfl
theorem wf_spaces {s : State} (h1 : s.mem.wf = true) (h2 : s.cores.all (fun p => p.2.ls.wf) = true) (sp : Space) : (s.space sp).wf = true := by
  cases sp with
  | dev k => exact h1
  | ls c =>
    have : ∀ l : List (CoreId × Core), l.all (fun p => p.2.ls.wf) = true → (((aget l c).getD Core.reset).ls).wf = true := by
      intro l
      induction l with
      | nil => intro _; rfl
      | cons p r ih =>
        intro h
        simp only [List.all_cons, Bool.and_eq_true] at h
        unfold aget
        split
        · exact h.1
        · exact ih h.2
    exact this _ h2
theorem splice_of {x : Except BStop (State × Option (Nat × Nat))} {v : Nat × Nat}
    (h : (match x with | .ok (_, some p) => p == v | _ => false) = true) : ∃ u, x = .ok (u, some v) := by
  split at h
  · exact ⟨_, by rw [eq_of_beq h]⟩
  · cases h
/-- Every register operand full, a pin added, one taken off, an unknown version, EXPECT right and wrong, and a splice of each
kind that succeeds. -/
theorem test_witness_stitched : Quiet (stStitch id) ∧ (∀ sp, ((stStitch id).space sp).wf = true) ∧ HasDesc (stStitch id) 255 stitchDesc ∧
    stitchDesc.kind = 2 ∧ (stStitch id).closedFor 0 255 stitchDesc = false ∧ Ready (stStitch id) [sN 31] ∧
    stCtrl.find stCtrl.ver = some (0, ⟨1, 3, true, 1, BitVec.ofNat 64 (2 ^ 63 + 2 ^ 32 + 4)⟩) ∧
    (∃ a, (stStitch id).blkAt ((stStitch id).blk 0 stitchDesc.key) (64 + 32 * 0) true = .ok a) ∧
    stCtrl.find ((stStitch (·.setS 3 1)).th.sv 3).toNat = some (0, ⟨1, 3, true, 1, BitVec.ofNat 64 (2 ^ 63 + 2 ^ 32 + 4)⟩) ∧
    stCtrl.find ((stStitch (·.setS 3 2)).th.sv 3).toNat = none :=
  ⟨⟨rfl, rfl, rfl, (by decide : (0 : Word).getLsbD 63 = false), rfl, fun _ h => nomatch h⟩, wf_spaces (by decide +kernel) (by decide +kernel),
    ⟨by decide +kernel, by decide +kernel⟩, by decide +kernel, by decide +kernel, ready_of rfl rfl rfl, by decide +kernel, ⟨_, rfl⟩,
    by decide +kernel, by decide +kernel⟩
/-- The words of `SPLICE` that insert, remove and replace one piece; the second EXPECT is not the current version. -/
def insX : Word := BitVec.ofNat 64 (2 ^ 32 + 2 ^ 24)
def remX : Word := BitVec.ofNat 64 (2 ^ 32 + 2 ^ 16)
def repX : Word := BitVec.ofNat 64 (2 ^ 24 + 2 ^ 16)
theorem test_witness_splice : (∀ w ∈ [insX, repX], OwnStore (stStitch (·.setS 3 w)) 1 (val (stStitch (·.setS 3 w)) ⟨4, false⟩) (32 * (w.toNat / 2 ^ 24 % 2 ^ 8)) 32 [.read, .cap] 0) ∧
    Ready (stStitch (·.setS 3 insX)) [sN 31, sN 3, (⟨1, false⟩ : KSrc).need, (⟨4, false⟩ : Src).need] ∧
    (∃ l, (stStitch id).insertedRecords 0 insX (some (lsKey, 0)) = .ok l ∧
      (∃ u, (stStitch id).spliceAt ((stStitch id).blk 0 stitchDesc.key) 255 stitchDesc .user 0 0 insX l = .ok (u, some (2, 8))) ∧
      ∃ u, (stStitch id).spliceAt ((stStitch id).blk 0 stitchDesc.key) 255 stitchDesc .user 0 0 repX l = .ok (u, some (2, 4))) ∧
    (∃ u, (stStitch id).spliceAt ((stStitch id).blk 0 stitchDesc.key) 255 stitchDesc .user 0 0 remX [] = .ok (u, some (2, 0))) ∧
    (BitVec.ofNat 64 (2 * 2 ^ 32) : Word).toNat / 2 ^ 32 ≠ stCtrl.ver := by
  refine ⟨fun w h => ?_, ready_of rfl rfl rfl, ⟨[⟨devKey.w0, devKey.w1, 4, true⟩], rfl, splice_of (by decide +kernel), splice_of (by decide +kernel)⟩,
    splice_of (by decide +kernel), by decide +kernel⟩
  simp only [List.mem_cons, List.not_mem_nil, or_false] at h
  obtain rfl | rfl := h <;>
    exact ownStore_of (by decide +kernel) (by decide +kernel) (by decide +kernel) (by decide +kernel) (by decide +kernel) (by decide +kernel)
      (by decide +kernel) (by decide) (by decide +kernel)

/-! ## Tasks -/

/-- The index tensor of a gather or scatter: 4 elements of 32 bits; its words read zero, so it names row 0. -/
def indexDesc : Desc :=
  ⟨0, #v[BitVec.ofNat 64 (6 * 2 ^ 58), lsKey.w0, lsKey.w1, BitVec.ofNat 64 (2 ^ 32 + 4), BitVec.ofNat 64 (2 ^ 32 + 1), 1, 0, 0]⟩
/-- The operands of `TASK` in `s1`, `s2`, `s3`; the tensors 1 (dense), 2 (its indices) and 255 (stitched, with a piece known to the
core); track 63 of the launch. -/
def stTask (lv : Level) (x a b : Nat) : State :=
  let s := stTrack myTrack fun t => { ((t.setS 1 (BitVec.ofNat 64 x)).setS 2 (BitVec.ofNat 64 a)).setS 3 (BitVec.ofNat 64 b) with level := lv }
  let s := s.setHere { s.here with pieces := [⟨255, 1, 0, 0, 4, devKey, 0⟩] }
  { s with copies := [((0, 0), { TableCopy.reset with descs := [(1, denseDesc), (2, indexDesc), (255, stitchDesc)] })] }
def rawWord (off : Nat) : Nat := 2 ^ 59 + off
def tensorWord : Nat := 2 ^ 62 + 2 ^ 54
def isOk {ε α : Type} [DecidableEq α] (x : Except ε α) (v : α) : Bool := match x with | .ok a => decide (a = v) | .error _ => false
theorem ok_of {ε α : Type} [DecidableEq α] {x : Except ε α} {v : α} (h : isOk x v = true) : x = .ok v := by
  unfold isOk at h
  split at h
  · exact congrArg _ (of_decide_eq_true h)
  · cases h
theorem taskOk_of {s : State} {k : TaskKind} {id : TensorId} {x a b : Word} {w : TaskArgs} {p q : Side} {ix : Option (Desc × Nat)} {i : BitVec 10}
    (h1 : isOk (State.taskFields k id x a b) w = true)
    (h2 : ([false, true].all fun f => (s.taskLimits s.view w f).isNone && (s.taskRaw s.view w f).isNone && (s.taskDesc s.view w f).isNone &&
      (State.taskTrack s.view w f).isNone) = true)
    (hl : (s.indexLimits s.view w).isNone = true)
    (h3 : isOk (s.taskIndex s.view w) ix = true)
    (h4 : isOk (s.taskSide s.view w false) p = true)
    (h5 : isOk (s.taskSide s.view w true) q = true)
    (h6 : ∀ t n, (p = .track t n ∨ q = .track t n) → Usable s t (s.here.track t)) (h7 : s.freeNode (clusterOf s.cur.core) = some i)
    (h8 : s.cancelled 4 (s.graphOf s.th) = false) (h9 : s.me.st = .ready) (h10 : s.pair = none) (h11 : s.drains = []) : TaskOk s k id x a b w p q ix i :=
  ⟨ok_of h1, fun f => by
    have := List.all_eq_true.1 h2 f (by cases f <;> simp)
    simp only [Bool.and_eq_true, Option.isNone_iff_eq_none] at this
    exact ⟨this.1.1.1, this.1.1.2, this.1.2, this.2⟩, Option.isNone_iff_eq_none.1 hl, ok_of h3, ⟨ok_of h4, ok_of h5⟩, h6, h7, h8, ⟨h9, h10⟩, h11⟩
theorem task_ready (lv : Level) (x a b : Nat) : Ready (stTask lv x a b) [sN 9, sN 1, (⟨2, false⟩ : Src).need, (⟨3, false⟩ : Src).need] :=
  ready_of rfl rfl rfl
theorem raw_no_track {s : State} {k k' : KCell} {o o' : Nat} : ∀ t n, (Side.raw k o = .track t n ∨ Side.raw k' o' = .track t n) → Usable s t (s.here.track t) := by
  rintro t n (h | h) <;> cases h
theorem test_witness_copy : ∃ w p q ix i, TaskOk (stTask .user (rawWord 0) (rawWord 64) 8) .copy 0 (BitVec.ofNat 64 (rawWord 0)) (BitVec.ofNat 64 (rawWord 64)) 8 w p q ix i ∧
    isPiece p = false ∧ isPiece q = false :=
  ⟨⟨.copy, 0, .raw 1 0, .raw 1 64, 8⟩, .raw lsKey 0, .raw lsKey 64, none, 0, taskOk_of (by decide +kernel) (by decide +kernel) (by decide +kernel) (by decide +kernel) (by decide +kernel) (by decide +kernel) raw_no_track (by decide +kernel) (by decide +kernel) (by decide +kernel) rfl rfl, rfl, rfl⟩
theorem test_witness_gather : ∃ w p q ix i, TaskOk (stTask .user tensorWord (rawWord 0) 4) .gather 2 (BitVec.ofNat 64 tensorWord) (BitVec.ofNat 64 (rawWord 0)) 4 w p q ix i ∧
    isPiece p = false ∧ isPiece q = false :=
  ⟨⟨.gather, 2, .desc 1 (BitVec.ofNat 64 tensorWord), .raw 1 0, 4⟩, .dense denseDesc 0, .raw lsKey 0, some (indexDesc, 0), 0, taskOk_of (by decide +kernel) (by decide +kernel) (by decide +kernel) (by decide +kernel) (by decide +kernel) (by decide +kernel) (by rintro t n (h | h) <;> cases h) (by decide +kernel) (by decide +kernel) (by decide +kernel) rfl rfl, rfl, rfl⟩
theorem test_witness_scatter : ∃ w p q ix i, TaskOk (stTask .user (rawWord 0) tensorWord 4) .scatter 2 (BitVec.ofNat 64 (rawWord 0)) (BitVec.ofNat 64 tensorWord) 4 w p q ix i ∧
    isPiece p = false ∧ isPiece q = false :=
  ⟨⟨.scatter, 2, .raw 1 0, .desc 1 (BitVec.ofNat 64 tensorWord), 4⟩, .raw lsKey 0, .dense denseDesc 0, some (indexDesc, 0), 0, taskOk_of (by decide +kernel) (by decide +kernel) (by decide +kernel) (by decide +kernel) (by decide +kernel) (by decide +kernel) (by rintro t n (h | h) <;> cases h) (by decide +kernel) (by decide +kernel) (by decide +kernel) rfl rfl, rfl, rfl⟩
theorem test_witness_scatter_add : ∃ w p q ix i, TaskOk (stTask .user (rawWord 0) tensorWord (2 ^ 44 + 4)) .scatterAdd 2 (BitVec.ofNat 64 (rawWord 0)) (BitVec.ofNat 64 tensorWord) (BitVec.ofNat 64 (2 ^ 44 + 4)) w p q ix i ∧
    isPiece p = false ∧ isPiece q = false :=
  ⟨⟨.scatterAdd, 2, .raw 1 0, .desc 1 (BitVec.ofNat 64 tensorWord), BitVec.ofNat 64 (2 ^ 44 + 4)⟩, .raw lsKey 0, .dense denseDesc 0, some (indexDesc, 0), 0, taskOk_of (by decide +kernel) (by decide +kernel) (by decide +kernel) (by decide +kernel) (by decide +kernel) (by decide +kernel) (by rintro t n (h | h) <;> cases h) (by decide +kernel) (by decide +kernel) (by decide +kernel) rfl rfl, rfl, rfl⟩
theorem test_witness_reduce : ∃ w p q ix i, TaskOk (stTask .user (rawWord 0) (rawWord 64) (2 ^ 44 + 8)) .reduce 0 (BitVec.ofNat 64 (rawWord 0)) (BitVec.ofNat 64 (rawWord 64)) (BitVec.ofNat 64 (2 ^ 44 + 8)) w p q ix i ∧
    isPiece p = false ∧ isPiece q = false :=
  ⟨⟨.reduce, 0, .raw 1 0, .raw 1 64, BitVec.ofNat 64 (2 ^ 44 + 8)⟩, .raw lsKey 0, .raw lsKey 64, none, 0, taskOk_of (by decide +kernel) (by decide +kernel) (by decide +kernel) (by decide +kernel) (by decide +kernel) (by decide +kernel) raw_no_track (by decide +kernel) (by decide +kernel) (by decide +kernel) rfl rfl, rfl, rfl⟩
theorem test_witness_collective : ∃ w p q ix i, TaskOk (stTask .user (rawWord 0) (rawWord 64) (2 ^ 44 + 8)) .collective 0 (BitVec.ofNat 64 (rawWord 0)) (BitVec.ofNat 64 (rawWord 64)) (BitVec.ofNat 64 (2 ^ 44 + 8)) w p q ix i ∧
    isPiece p = false ∧ isPiece q = false :=
  ⟨⟨.collective, 0, .raw 1 0, .raw 1 64, BitVec.ofNat 64 (2 ^ 44 + 8)⟩, .raw lsKey 0, .raw lsKey 64, none, 0, taskOk_of (by decide +kernel) (by decide +kernel) (by decide +kernel) (by decide +kernel) (by decide +kernel) (by decide +kernel) raw_no_track (by decide +kernel) (by decide +kernel) (by decide +kernel) rfl rfl, rfl, rfl⟩
theorem test_witness_migrate_page : (stTask .sup (3 * 2 ^ 62) (3 * 2 ^ 62) 0).th.level ≠ .user ∧
    ∃ w p q ix i, TaskOk (stTask .sup (3 * 2 ^ 62) (3 * 2 ^ 62) 0) .migrate 0 (BitVec.ofNat 64 (3 * 2 ^ 62)) (BitVec.ofNat 64 (3 * 2 ^ 62)) 0 w p q ix i ∧
    isPiece p = false ∧ isPiece q = false :=
  ⟨by decide +kernel, ⟨.migrate, 0, .page (BitVec.ofNat 64 (3 * 2 ^ 62)), .page (BitVec.ofNat 64 (3 * 2 ^ 62)), 0⟩, .page 0 false 0, .frame 0, none, 0, taskOk_of (by decide +kernel) (by decide +kernel) (by decide +kernel) (by decide +kernel) (by decide +kernel) (by decide +kernel) (by rintro t n (h | h) <;> cases h) (by decide +kernel) (by decide +kernel) (by decide +kernel) rfl rfl, rfl, rfl⟩
/-- A copy to the last row of a track, and one from a stitched tensor. -/
def trackWord : Nat := 2 * 2 ^ 62 + 63 * 2 ^ 40 + 255 * 2 ^ 32
theorem usable_task : Usable (stTask .user (rawWord 0) trackWord 128) 63 myTrack :=
  ⟨by decide +kernel, by decide, fun _ => ⟨rfl, rfl, rfl, by decide +kernel, 0, by decide +kernel, .inl (by decide +kernel), by decide +kernel⟩, by decide, rfl,
    ⟨by decide +kernel, by decide +kernel⟩, by decide +kernel, by decide⟩
theorem test_witness_copy_track : ∃ w p q ix i, TaskOk (stTask .user (rawWord 0) trackWord 128) .copy 0 (BitVec.ofNat 64 (rawWord 0)) (BitVec.ofNat 64 trackWord) 128 w p q ix i ∧
    isPiece p = false ∧ isPiece q = false :=
  ⟨⟨.copy, 0, .raw 1 0, .track 0 63 255, 128⟩, .raw lsKey 0, .track 63 255, none, 0, taskOk_of (by decide +kernel) (by decide +kernel) (by decide +kernel) (by decide +kernel) (by decide +kernel) (by decide +kernel) (by
      rintro t n (h | h)
      · cases h
      · have : t = 63 := by injection h with h _; exact h.symm
        subst this
        have : (stTask .user (rawWord 0) trackWord 128).here.track 63 = myTrack := by decide +kernel
        rw [this]; exact usable_task) (by decide +kernel) (by decide +kernel) (by decide +kernel) rfl rfl, rfl, rfl⟩
theorem test_witness_copy_piece : ∃ w p q ix i, TaskOk (stTask .user (2 ^ 62 + 255 * 2 ^ 54 + 1) (rawWord 64) 64) .copy 0 (BitVec.ofNat 64 (2 ^ 62 + 255 * 2 ^ 54 + 1)) (BitVec.ofNat 64 (rawWord 64)) 64 w p q ix i ∧
    isPiece p = true :=
  ⟨⟨.copy, 0, .desc 255 (BitVec.ofNat 64 (2 ^ 62 + 255 * 2 ^ 54 + 1)), .raw 1 64, 64⟩, .piece stitchDesc devKey 0 0 255 1, .raw lsKey 64, none, 0, taskOk_of (by decide +kernel) (by decide +kernel) (by decide +kernel) (by decide +kernel) (by decide +kernel) (by decide +kernel) (by rintro t n (h | h) <;> cases h) (by decide +kernel) (by decide +kernel) (by decide +kernel) rfl rfl, rfl⟩

/-- Two nodes of the tenant in cluster 0: entry 0 as `n`, entry 1023 held; edges are made and nodes released by handle. -/
def stNodes (f : Thread → Thread) (n : Node) : State :=
  let s := stK f
  s.setCluster 0 { s.cluster 0 with nodes := [(0, n), (1023, { Node.free with gen := 15, st := .held })] }
def edgeT (t : Thread) : Thread := (t.setS 4 0).setS 5 (BitVec.ofNat 64 (15 * 2 ^ 19 + 1023))
theorem test_witness_edges : (∀ n ∈ [{ Node.free with st := .running }, { Node.free with st := .draining }], Quiet (stNodes edgeT n) ∧
      (stNodes edgeT n).me.st = .ready ∧
      (let x := handleId (val (stNodes edgeT n) ⟨4, false⟩)
       let y := handleId (val (stNodes edgeT n) ⟨5, false⟩)
       (val (stNodes edgeT n) ⟨4, false⟩).toNat < 2 ^ 23 ∧ x.cl ∈ (stNodes edgeT n).clustersOf (stNodes edgeT n).partHere ∧
       ((stNodes edgeT n).node x.cl x.idx).tenant = (stNodes edgeT n).th.tenant ∧ ((stNodes edgeT n).node x.cl x.idx).gen = x.gen ∧
       ((stNodes edgeT n).node x.cl x.idx).succs.length < 8 ∧ (val (stNodes edgeT n) ⟨5, false⟩).toNat < 2 ^ 23 ∧
       y.cl ∈ (stNodes edgeT n).clustersOf (stNodes edgeT n).partHere ∧ ((stNodes edgeT n).node y.cl y.idx).tenant = (stNodes edgeT n).th.tenant ∧
       ((stNodes edgeT n).node y.cl y.idx).st = .held ∧ ((stNodes edgeT n).node y.cl y.idx).gen = y.gen ∧ (x.cl, x.idx) ≠ (y.cl, y.idx))) ∧
    Ready (stNodes edgeT Node.free) [(⟨4, false⟩ : Src).need, (⟨5, false⟩ : Src).need] := by
  refine ⟨fun n h => ⟨⟨rfl, rfl, rfl, (by decide : (0 : Word).getLsbD 63 = false), rfl, fun _ h => nomatch h⟩, rfl, ?_⟩, ready_of rfl rfl rfl⟩
  simp only [List.mem_cons, List.not_mem_nil, or_false] at h
  obtain rfl | rfl := h <;> decide +kernel
theorem test_witness_release_edge : ((stNodes edgeT { Node.free with st := .held }).node 0 0).st = .held ∧
    ((stNodes edgeT { Node.free with st := .held }).node 0 0).doomed = false ∧ Ready (stNodes edgeT { Node.free with st := .held }) [(⟨4, false⟩ : Src).need] :=
  ⟨by decide +kernel, by decide +kernel, ready_of rfl rfl rfl⟩

/-- One node: READY with nothing to move and with 2¹⁹ + 1 bytes; RUNNING over one word; its drain; its completion. -/
def stNode (n : Node) : State :=
  let s := stK id
  let s := s.setCluster 0 { s.cluster 0 with nodes := [(5, n)] }
  s.setLv ⟨0, .graph, 0⟩ { s.lv ⟨0, .graph, 0⟩ with st := .opened, count := 2 }
theorem loneNode_st (n : Node) : LoneNode (stNode n) 0 5 n := ⟨rfl, rfl⟩
theorem test_witness_dispatch : LoneNode (stNode { Node.free with st := .ready }) 0 5 { Node.free with st := .ready } ∧
    LoneNode (stNode { Node.free with st := .ready, size := 2 ^ 19 + 1, src := .raw lsKey 0, dst := .raw lsKey 8 }) 0 5
      { Node.free with st := .ready, size := 2 ^ 19 + 1, src := .raw lsKey 0, dst := .raw lsKey 8 } ∧
    (Side.raw lsKey 0).isTrack = false :=
  ⟨loneNode_st _, loneNode_st _, rfl⟩
def runNode : Node := { Node.free with
  st := .running, engine := some 0, size := 8, chunks := [Chunk.fresh], src := .raw lsKey 0, dst := .raw lsKey 0x3FFF8, quiet := true }
theorem test_witness_copy_runs : LoneNode (stNode runNode) 0 5 runNode ∧ lsKey.kind = 1 ∧ lsKey.tag = true ∧ 0x3FFF8 + 8 ≤ lsKey.len ∧
    lsKey.tenant = runNode.tenant ∧ (stNode runNode).placeCore runNode.core ((lsKey.w0.toNat % 2 ^ 31 + 0x3FFF8) / 2 ^ 18) = some 0 ∧
    lsKey.has .read = true ∧ lsKey.has .write = true ∧ ((stNode runNode).core 0).ls.bad 0 = false ∧ ((stNode runNode).core 0).ls.wf = true ∧
    ((lsKey.w0.toNat % 2 ^ 31 + 0) % 2 ^ 18) % 8 = 0 ∧ ((lsKey.w0.toNat % 2 ^ 31 + 0x3FFF8) % 2 ^ 18) % 8 = 0 :=
  ⟨loneNode_st _, by decide +kernel, rfl, by decide +kernel, by decide +kernel, by decide +kernel, by decide +kernel, by decide +kernel, by decide +kernel,
    by decide +kernel, by decide +kernel, by decide +kernel⟩
theorem test_witness_drain_end : LoneNode (stNode { Node.free with st := .draining, graph := ⟨0, .graph, 0⟩ }) 0 5 { Node.free with st := .draining, graph := ⟨0, .graph, 0⟩ } ∧
    2 ≤ ((stNode { Node.free with st := .draining, graph := ⟨0, .graph, 0⟩ }).lv ⟨0, .graph, 0⟩).count ∧
    LoneNode (stNode { Node.free with st := .draining, told := true }) 0 5 { Node.free with st := .draining, told := true } :=
  ⟨loneNode_st _, by decide +kernel, loneNode_st _⟩

/-! ## Tiles and the array -/

def noFaultsB (x : Core) : Bool :=
  x.orphans.isEmpty && ((List.finRange 16).all fun m => (x.slots[(m : SlotId)]).th.rowFaults.isEmpty) && x.susp.all (·.th.rowFaults.isEmpty)
theorem noFaults_of {s : State} {c : CoreId} (h : noFaultsB (s.core c) = true) : NoRowFaults s c := by
  simp only [noFaultsB, Bool.and_eq_true, List.isEmpty_iff, List.all_eq_true] at h
  exact ⟨h.1.1, fun m => h.1.2 m (List.mem_finRange m), h.2⟩
theorem free_of {s : State} {t : TileId} {first n : Nat}
    (h1 : (List.range n).all (fun j => !s.heldRow s.cur.core t (BitVec.ofNat 5 (first + j))) = true) (h2 : noFaultsB (s.core s.cur.core) = true) :
    FreeRows s t first n :=
  ⟨fun j hj => by simpa using List.all_eq_true.1 h1 j (List.mem_range.2 hj), noFaults_of h2⟩
theorem clean_of {s : State} {t : TileId} {first n : Nat}
    (h1 : (List.range n).all (fun j => !s.heldRow s.cur.core t (BitVec.ofNat 5 (first + j))) = true) (h2 : noFaultsB (s.core s.cur.core) = true)
    (h3 : (List.range n).all (fun j => decide ((s.here.tiles[t.toFin][(BitVec.ofNat 5 (first + j)).toFin]).f = .full)) = true) :
    CleanRows s t first n :=
  ⟨free_of h1 h2, fun j hj => of_decide_eq_true (List.all_eq_true.1 h3 j (List.mem_range.2 hj))⟩
/-- Tile 2 is the thread's; rows 31 to 31 and 0 to 31; images of 4,096 bytes at both ends of the local store. -/
def stTileS (f : Thread → Thread) : State := stTile fun t => f { t with level := .sup }
theorem test_witness_azero : Ready (stTile id) [] ∧ MyTile (stTile id) 2 ∧ CleanRows (stTile id) 2 31 1 ∧ CleanRows (stTile id) 2 0 32 :=
  ⟨ready_of rfl rfl rfl, ⟨by decide +kernel, by decide +kernel⟩, clean_of (by decide +kernel) (by decide +kernel) (by decide +kernel),
    clean_of (by decide +kernel) (by decide +kernel) (by decide +kernel)⟩
theorem test_witness_image : Quiet (stTileS id) ∧ (stTileS id).th.level ≠ .user ∧ Ready (stTileS id) ([] ++ [kN 1]) ∧ (stTileS id).here.ls.wf = true ∧
    CleanRows (stTileS id) 2 0 32 ∧ Form (stTileS id) (.asave 2) (.asaveIndexed 2) (.asave 2 (.base 1 0)) 1 0 [] ∧
    Form (stTileS id) (.aload 2) (.aloadIndexed 2) (.aload 2 (.base 1 0)) 1 0 [] ∧
    OwnStore (stTileS id) 1 0 4096 128 [.write] 0 ∧ OwnStore (stTileS id) 1 0x3F000 4096 128 [.read] 0x3F000 ∧
    (∀ j, j < 512 → (stTileS id).here.ls.bad (0x3F000 / 8 + j) = false) :=
  ⟨⟨rfl, rfl, rfl, (by decide : (0 : Word).getLsbD 63 = false), rfl, fun _ h => nomatch h⟩, by decide +kernel, ready_of rfl rfl rfl, by decide +kernel,
    clean_of (by decide +kernel) (by decide +kernel) (by decide +kernel), .inl ⟨0, rfl, by decide, rfl⟩, .inl ⟨0, rfl, by decide, rfl⟩,
    ownStore_of (by decide +kernel) (by decide +kernel) (by decide +kernel) (by decide +kernel) (by decide +kernel) (by decide +kernel) (by decide +kernel) (by decide) (by decide +kernel),
    ownStore_of (by decide +kernel) (by decide +kernel) (by decide +kernel) (by decide +kernel) (by decide +kernel) (by decide +kernel) (by decide +kernel) (by decide) (by decide +kernel),
    fun j _ => by
      have h : (stTileS id).here.ls.poison = [] := by decide +kernel
      simp [Mem.bad, h]⟩

/-- The array is the thread's launch's, configured 16 by 4; tensor 1 is FP32; the stationary plane is loaded with it; the thread owns
every tile. -/
def fullPlane : Plane := { Plane.reset with st := .loaded, k := 16, n := 4, id := 1, desc := some denseDesc }
def stArr (f : Thread → Thread) : State :=
  let s := stTask .user 0 0 0
  let s := s.setTh (f s.th)
  s.setHere { s.here with mown := 0x8000000000000000, aown := Vector.replicate 4 0x8000000000000000, cfgk := 16, cfgn := 4, stat := fullPlane }
theorem arr_mine (f : Thread → Thread) (h : ownedBy (stArr f).here.mown (stArr f).th = true) (h2 : (stArr f).here.arrayq = [])
    (h3 : (stArr f).here.cfgk = 16 ∧ (stArr f).here.cfgn = 4) : ArrayMine (stArr f) 16 4 := ⟨h, h2, h3⟩
theorem test_witness_mcfg : Ready (stArr (·.setS 4 0x4100)) [(⟨4, false⟩ : Src).need] ∧ ArrayMine (stArr (·.setS 4 0x4100)) 16 4 ∧
    (val (stArr (·.setS 4 0x4100)) ⟨4, false⟩).toNat = 32 * 2 ^ 9 + 256 ∧ 256 < (val (stArr (·.setS 4 0x101)) ⟨4, false⟩).toNat % 2 ^ 9 ∧
    32 < (val (stArr (·.setS 4 0x4200)) ⟨4, false⟩).toNat / 2 ^ 9 % 2 ^ 6 ∧ (val (stArr (·.setS 4 0x8000)) ⟨4, false⟩).toNat / 2 ^ 15 ≠ 0 :=
  ⟨ready_of rfl rfl rfl, arr_mine _ (by decide +kernel) (by decide +kernel) (by decide +kernel), by decide +kernel, by decide +kernel, by decide +kernel, by decide +kernel⟩
theorem test_witness_mldw : Ready (stArr (·.setS 4 0x7A)) [sN 4] ∧ ArrayMine (stArr (·.setS 4 0x7A)) 16 4 ∧ HasDesc (stArr (·.setS 4 0x7A)) 1 denseDesc ∧
    weightLimits denseDesc = some (32, 32) ∧ denseDesc.kind ≠ 1 ∧ (16 * 4 * denseDesc.width + 1023) / 1024 = 2 ∧
    ((stArr (·.setS 4 0x7A)).th.sv 4).toNat / 4 % 32 + 2 = 32 ∧ MyTile (stArr (·.setS 4 0x7A)) (BitVec.ofNat 2 0x7A) ∧
    Usable (stArr (·.setS 4 63)) (BitVec.ofNat 6 63) myTrack ∧ myTrack.tag.toNat = denseDesc.swizzle ∧
    OwnStore (stArr (·.setS 4 1)) (BitVec.ofNat 3 1) (BitVec.ofNat 64 (128 * (1 / 8 % 2 ^ 11))) (128 * 2) 1 [.read] 0 ∧
    (stArr (·.setS 4 1)).placeOf (stArr (·.setS 4 1)).cur.core = (((stArr (·.setS 4 1)).th.k[(BitVec.ofNat 3 1 : KReg).toFin]).w0.toNat % 2 ^ 31 + 0) / 2 ^ 18 :=
  ⟨ready_of rfl rfl rfl, arr_mine _ (by decide +kernel) (by decide +kernel) (by decide +kernel), ⟨by decide +kernel, by decide +kernel⟩, by decide +kernel,
    by decide +kernel, by decide +kernel, by decide +kernel, ⟨by decide +kernel, by decide +kernel⟩,
    ⟨by decide +kernel, by decide, fun _ => ⟨rfl, rfl, rfl, by decide +kernel, 0, by decide +kernel, .inl (by decide +kernel), by decide +kernel⟩, by decide, rfl,
      ⟨by decide +kernel, by decide +kernel⟩, by decide +kernel, by decide⟩, by decide +kernel,
    ownStore_of (by decide +kernel) (by decide +kernel) (by decide +kernel) (by decide +kernel) (by decide +kernel) (by decide +kernel) (by decide +kernel) (by decide) (by decide +kernel),
    by decide +kernel⟩
/-- Descriptors of each mode's weights and activations; weights of a kind that the array does not take. -/
def modeDesc (kind fmt rs : Nat) : Desc :=
  ⟨0, #v[BitVec.ofNat 64 (kind * 2 ^ 62 + fmt * 2 ^ 58 + 2 ^ 56 + rs * 2 ^ 50 + 512), lsKey.w0, lsKey.w1, BitVec.ofNat 64 (4 * 2 ^ 32 + 32),
    BitVec.ofNat 64 (2 ^ 32 + 1), BitVec.ofNat 64 (32 * 2 ^ 32 + 1), 0, 0]⟩
def modeDescs : List (AMode × Desc × Desc) :=
  [(.bf16, modeDesc 0 2 0, modeDesc 2 2 0), (.fp16, modeDesc 0 3 0, modeDesc 0 3 0), (.fp8, modeDesc 0 4 0, modeDesc 0 5 0),
   (.w8a8, modeDesc 1 10 0, modeDesc 0 8 1), (.w4a8, modeDesc 1 11 0, modeDesc 0 8 1), (.w8a16, modeDesc 1 10 0, modeDesc 0 2 0),
   (.w4a16, modeDesc 1 11 0, modeDesc 0 2 0), (.fp32, modeDesc 0 1 0, modeDesc 0 1 0), (.fp64, modeDesc 0 0 0, modeDesc 0 0 0)]
theorem test_witness_modes : (∀ x ∈ modeDescs, ModeOf x.1 x.2.1 x.2.2) ∧ ∀ m b, ¬ ModeOf m (modeDesc 2 2 0) b := by
  constructor
  · intro x h
    simp only [modeDescs, List.mem_cons, List.not_mem_nil, or_false] at h
    obtain rfl | rfl | rfl | rfl | rfl | rfl | rfl | rfl | rfl := h <;> simp only [ModeOf] <;> decide +kernel
  · intro m b h
    have hk : (modeDesc 2 2 0).kind = 2 := by decide +kernel
    cases m <;> simp [ModeOf, hk] at h
/-- `MMA` of 32 rows from tile 1 into tile 2, from track 63, and from the local store; and of one row into the last. -/
def mmaX (low m : Nat) : Word := BitVec.ofNat 64 (m * 2 ^ 21 + low)
theorem test_witness_mma : Ready (stArr (·.setS 4 (mmaX 1 32))) [sN 4] ∧ ArrayMine (stArr (·.setS 4 (mmaX 1 32))) 16 4 ∧ HasDesc (stArr (·.setS 4 (mmaX 1 32))) 1 denseDesc ∧
    MyTile (stArr (·.setS 4 (mmaX 1 32))) 2 ∧ (stArr id).here.stat.st = .loaded ∧ (stArr id).here.stat.desc = some denseDesc ∧
    ModeOf .fp32 denseDesc denseDesc ∧ 0 < (stArr id).here.stat.n ∧
    (mmaX 1 32).toNat / 2 ^ 21 % 64 = 32 ∧ (mmaX 1 32).toNat / 2 ^ 27 % 32 = 0 ∧ (mmaX 1 32).toNat / 2 ^ 7 % 2 ^ 9 = 0 ∧
    (mmaX 1 32).toNat / 2 ^ 16 % 32 = 0 ∧ (mmaX 1 32).toNat / 4 % 32 + rowsPer .fp32 * 32 ≤ 32 ∧
    MyTile (stArr id) (BitVec.ofNat 2 1) ∧ (BitVec.ofNat 2 1 : TileId) ≠ 2 ∧ FreeRows (stArr (·.setS 4 (mmaX 1 32))) 2 0 32 ∧ FreeRows (stArr id) 2 31 1 :=
  ⟨ready_of rfl rfl rfl, arr_mine _ (by decide +kernel) (by decide +kernel) (by decide +kernel), ⟨by decide +kernel, by decide +kernel⟩,
    ⟨by decide +kernel, by decide +kernel⟩, by decide +kernel, by decide +kernel, by simp only [ModeOf]; decide +kernel, by decide +kernel, by decide +kernel, by decide +kernel,
    by decide +kernel, by decide +kernel, by decide +kernel, ⟨by decide +kernel, by decide +kernel⟩, by decide,
    free_of (by decide +kernel) (by decide +kernel), free_of (by decide +kernel) (by decide +kernel)⟩
theorem test_witness_mma_track : ((mmaX 63 1).toNat / 2 ^ 6 % 2 ^ 10 = 0 ∧ BitVec.ofNat 6 (mmaX 63 1).toNat = (63 : TrackId)) ∧
    Usable (stArr (·.setS 4 (mmaX 63 1))) 63 myTrack ∧ myTrack.tag.toNat = denseDesc.swizzle :=
  ⟨by decide +kernel, ⟨by decide +kernel, by decide, fun _ => ⟨rfl, rfl, rfl, by decide +kernel, 0, by decide +kernel, .inl (by decide +kernel), by decide +kernel⟩, by decide, rfl,
      ⟨by decide +kernel, by decide +kernel⟩, by decide +kernel, by decide⟩, by decide +kernel⟩
theorem test_witness_mma_store : (mmaX 1 1).toNat / 2 ^ 14 % 4 = 0 ∧
    OwnStore (stArr (·.setS 4 (mmaX 1 1))) (BitVec.ofNat 3 1) (BitVec.ofNat 64 (128 * (1 / 8 % 2 ^ 11))) (128 * (rowsPer .fp32 * 1)) 1 [.read] 0 ∧
    (stArr (·.setS 4 (mmaX 1 1))).placeOf (stArr (·.setS 4 (mmaX 1 1))).cur.core =
      (((stArr (·.setS 4 (mmaX 1 1))).th.k[(BitVec.ofNat 3 1 : KReg).toFin]).w0.toNat % 2 ^ 31 + 0) / 2 ^ 18 :=
  ⟨by decide +kernel,
    ownStore_of (by decide +kernel) (by decide +kernel) (by decide +kernel) (by decide +kernel) (by decide +kernel) (by decide +kernel) (by decide +kernel) (by decide) (by decide +kernel),
    by decide +kernel⟩

/-- The queue with one entry of each kind, not started and started. -/
def anOp (op : AOp) (run : Option Nat) (rows : Nat) : AEntry :=
  { tok := 7, slot := 3, uid := 0, pc := 2, op := op, run := run, rows := rows, fail := none, refusal := none }
def aLoad (loc : Loc) (d : Desc) (run : Option Nat) (taken : Nat) : AEntry :=
  { anOp (.mldw true 16 4 0 loc 1 d) run (if run = none then 0 else 2) with taken := taken, next := 1000 }
def stQ (e : AEntry) (g : Core → Core) : State := stSlot { Slot.free with st := .parked, wait := .swap 7 } fun x => g { x with arrayq := [e], cycle := 1000 }
/-- Loads that start, that read their second row from each kind of source, and that have read both; a swap. -/
theorem test_witness_array_queue : (∀ e ∈ [anOp (.mcfg 256 32) none 0, aLoad (.ls 0x3FF00) denseDesc none 0, aLoad (.ls 0x3FF00) denseDesc (some 998) 1,
      aLoad (.tile 3 30) denseDesc (some 998) 1, aLoad (.track 63) denseDesc (some 998) 1, aLoad (.ls 0x3FF00) denseDesc (some 998) 2, anOp .mswap none 0],
      OneEntry (stQ e id) 0 e) ∧
    denseDesc.kind = 0 ∧ ((stQ (anOp .mswap none 0) id).core 0).failed = none ∧ (((stQ (anOp .mswap none 0) id).core 0).slots[(3 : SlotId)]).st = .parked ∧
    (((stQ (anOp .mswap none 0) id).core 0).slots[(3 : SlotId)]).wait = .swap 7 ∧ (((stQ (anOp .mswap none 0) id).core 0).slots[(3 : SlotId)]).held = none := by
  unfold OneEntry; decide +kernel
theorem test_witness_source_rows : SourceRow (stQ (aLoad (.ls 0x3FF00) denseDesc (some 998) 1) id) 0 (.ls 0x3FF00) 1 0 ∧
    SourceRow (stQ (aLoad (.tile 3 30) denseDesc (some 998) 1) id) 0 (.tile 3 30) 1 0 ∧
    SourceRow (stQ (aLoad (.track 63) denseDesc (some 998) 1) ({ · with tracks := [(63, { myTrack with pos := 255, arrays := 1 })] })) 0 (.track 63) 1 0 :=
  ⟨⟨rfl, by decide, by decide +kernel, by decide +kernel⟩, ⟨rfl, by decide +kernel, noFaults_of (by decide +kernel)⟩,
    ⟨rfl, by decide +kernel, by decide +kernel, by decide +kernel, by decide +kernel, by decide +kernel, by decide +kernel, by decide +kernel⟩⟩
/-- A grouped load of 32 by 4: each scale and zero point is read through the entry's key over the local store. -/
theorem test_witness_grouped : (modeDesc 1 10 0).kind = 1 ∧ (modeDesc 1 10 0).group = 32 ∧
    (∀ j, j < 4 → (stQ (anOp .mswap none 0) id).keyRead 0 (modeDesc 1 10 0).key ((modeDesc 1 10 0).scoff + 2 * (0 + 0 + (modeDesc 1 10 0).extent 0 / (modeDesc 1 10 0).group * j)) 2 none = .ok 0 ∧
      (stQ (anOp .mswap none 0) id).keyRead 0 (modeDesc 1 10 0).key ((modeDesc 1 10 0).zeroBit (0 + 0 + (modeDesc 1 10 0).extent 0 / (modeDesc 1 10 0).group * j) / 8) 1 none = .ok 0) ∧
    ((modeDesc 1 10 0).key.kind = 1 ∧ (modeDesc 1 10 0).key.has .read = true ∧ 512 + 2 ≤ (modeDesc 1 10 0).key.len) ∧
    (stQ (anOp .mswap none 0) id).drains = [] ∧ (stQ (anOp .mswap none 0) id).placeCore 0 (((modeDesc 1 10 0).key.w0.toNat % 2 ^ 31 + 512) / 2 ^ 18) = some 0 ∧
    ((stQ (anOp .mswap none 0) id).core 0).ls.bad (512 / 8) = false := by decide +kernel
/-- The thread that waits for the swap has a number of its own. -/
theorem test_witness_swap_thread :
    let e := { anOp .mswap none 0 with uid := 9 }
    let s := stSlot { Slot.free with st := .parked, wait := .swap 7, th := { Thread.empty with uid := 9 } } fun x => { x with arrayq := [e] }
    OneEntry s 0 e ∧ ((s.core 0).slots[(3 : SlotId)]).th.uid = e.uid ∧ (∀ j : SlotId, j ≠ 3 → ((s.core 0).slots[j]).th.uid ≠ e.uid) ∧ s.reqs = [] := by
  unfold OneEntry; decide +kernel
/-- An `MMA` of 32 rows that has not started, that reads its last source row, and whose last row is due. -/
def anMma (run : Option Nat) (rows taken : Nat) : AEntry := { anOp (.mma true (.tile 1 0) 2 0 32 0 1 denseDesc .rne) run rows with
  taken := taken, next := 1000, ins := if taken = 32 then [(1000, 0)] else [] }
def stMma (e : AEntry) : State := stQ e fun x =>
  { x with stat := fullPlane, tiles := x.tiles.set 2 (Vector.replicate 32 ⟨0, .empty 7⟩) }
theorem test_witness_mma_rows : (∀ e ∈ [anMma none 0 0, anMma (some 861) 29 31, anMma (some 861) 31 32], OneEntry (stMma e) 0 e) ∧
    SourceRow (stMma (anMma (some 861) 29 31)) 0 (.tile 1 0) 31 0 ∧ (anMma (some 861) 29 31).taken < rowsPer .fp32 * 32 ∧ (anMma (some 861) 29 31).fail = none ∧
    (anMma (some 861) 29 31).got.length + 1 = rowsPer .fp32 ∧ 1 < rowsPer .w8a16 ∧
    (anMma (some 861) 31 32).ins = [(1000, 0)] ∧ (anMma (some 861) 31 32).rows < 32 ∧ NoneOwed (stMma (anMma (some 861) 31 32)) 0 ∧
    ((stMma (anMma none 0 0)).core 0).stat.desc = some denseDesc ∧ ((stMma (anMma none 0 0)).core 0).stat.st = .loaded ∧
    0 < ((stMma (anMma none 0 0)).core 0).stat.n :=
  ⟨by unfold OneEntry; decide +kernel, ⟨rfl, by decide +kernel, noFaults_of (by decide +kernel)⟩, by decide, rfl, by decide, by decide, by decide, by decide,
    by unfold NoneOwed; decide +kernel, by decide +kernel, by decide +kernel, by decide +kernel⟩
/-- The scale of an activation row; operands of the sums: finite, infinite, not a number, and a plane of one group. -/
theorem test_witness_sums : (stMma (anMma none 0 0)).keyRead 0 (modeDesc 0 8 1).key ((modeDesc 0 8 1).scoff + 2 * (0 + 31)) 2 none = .ok 0 ∧
    (∃ e, fmtS.decode 0x3F800000 = .fin false (2 ^ 23) e) ∧ (∃ e, fmtH.decode 0x3C00 = .fin false (2 ^ 10) e) ∧
    (fmtS.decode 0x7FC00000).isNaN = true ∧ BadProduct (fmtS.decode 0x7F800000) (fmtS.decode 0) ∧
    InfProduct (fmtS.decode 0x7F800000) (fmtS.decode 0xBF800000) true ∧ (¬ ∃ t x i, fmtH.decode 0x7C00 = .fin t x i) ∧
    (List.replicate 32 0).length = ({ Plane.reset with k := 32 } : Plane).k ∧ 32 % (modeDesc 1 10 0).group = 0 ∧ 0 < 32 / (modeDesc 1 10 0).group := by
  have hi : fmtS.decode 0x7F800000 = .inf false := by decide +kernel
  refine ⟨by decide +kernel, ⟨-23, by decide +kernel⟩, ⟨-10, by decide +kernel⟩, by decide +kernel,
    .inl ⟨false, false, -149, hi, by decide +kernel⟩, ⟨by decide +kernel, by decide +kernel, ?_, by decide +kernel, false, .inl hi⟩, ?_,
    by decide +kernel, by decide +kernel, by decide +kernel⟩
  · have h2 : fmtS.decode 0xBF800000 = .fin true (2 ^ 23) (-23) := by decide +kernel
    rintro (⟨s, t, e, _, h⟩ | ⟨s, t, e, h, _⟩)
    · rw [h2] at h; exact absurd h (by simp)
    · rw [hi] at h; exact nomatch h
  · have h2 : fmtH.decode 0x7C00 = .inf false := by decide +kernel
    rintro ⟨t, x, i, h⟩
    rw [h2] at h; exact nomatch h

/-! ## The vector unit -/

/-- Every vector instruction at FP32 with full operands on the thread's own tile: its type is allowed, no exception traps. -/
def vOps (s : State) : List VOp :=
  vectorOps s 2 7 ⟨4, false⟩ ⟨5, false⟩ ⟨6, false⟩ false false .pp .min .eq .sum .and .bf16 0 ⟨false, none, 0⟩ ⟨false, none⟩
theorem test_witness_vector : ∀ o ∈ vOps (stTile id), Ready (stTile id) o.needs ∧ OwnTile (stTile id) 2 ∧ TypeAllows o (tyOf (stTile id) o.mods) ∧
    ¬ FpTraps (stTile id) (rowFlags o (tyOf (stTile id) o.mods)) ∧ (stTile id).heldRow 0 2 7 = false := by
  have h : (vOps (stTile id)).all (fun o => o.needs.all (fun n => decide ((stTile id).refSt (stTile id).view n.ref = .full)) &&
      decide (o.ok .f32 = true) && !o.mods.sat && decide (o.mods.lo.getD 0 = 0) &&
      decide (rowFlags o .f32 &&& (stTile id).th.fsr.extractLsb' 5 5 = 0) && decide (tyOf (stTile id) o.mods = .f32)) = true := by decide +kernel
  intro o ho
  have := List.all_eq_true.1 h o ho
  simp only [Bool.and_eq_true, decide_eq_true_eq, Bool.not_eq_true'] at this
  obtain ⟨⟨⟨⟨⟨h1, h2⟩, h3⟩, h4⟩, h5⟩, h6⟩ := this
  have h4' : o.mods.lo = none ∨ o.mods.lo = some 0 := by
    cases hm : o.mods.lo with
    | none => exact .inl rfl
    | some x => rw [hm] at h4; exact .inr (congrArg some h4)
  refine ⟨ready_of rfl h1 rfl, ownTile_st, ⟨by rw [h6]; exact h2, by simp [h3], ?_⟩, by rw [h6]; exact fun hf => hf.1 h5, by decide +kernel⟩
  split
  · rcases h4' with h | h <;> simp [h]
  · exact h4
/-- A row of signalling NaNs under an enabled invalid exception; SAT under FP32; a thread without a tile; a tile of another launch. -/
def stNaN : State :=
  (stTile ({ · with fsr := 0x2200 })).setHere { (stTile ({ · with fsr := 0x2200 })).here with
    tiles := (stTile id).here.tiles.set 2 (Vector.replicate 32 ⟨ofLanes 32 (List.replicate 32 0x7F800001), .full⟩) }
theorem test_witness_vector_trap : (let o := (vOps stNaN).headD ⟨.halt, VMods.none, [], fun _ => false, fun _ => false, fun _ => ⟨0, 0⟩, (1, 1)⟩
    o.i = .vadd false 7 ⟨4, false⟩ ⟨5, false⟩ ∧ o.mods = VMods.none ∧ o.ok (tyOf stNaN o.mods) = true ∧
      rowFlags o (tyOf stNaN o.mods) &&& stNaN.th.fsr.extractLsb' 5 5 ≠ 0 ∧ stNaN.th.fpMask = false) ∧
    stNaN.th.bound = some 2 := by decide +kernel
def badOp (i : Instr) (sat : Bool) (lo : Option (BitVec 3)) (rounds ok : ETy → Bool) : VOp := ⟨i, ⟨sat, none, lo⟩, [], rounds, ok, fun _ => ⟨0, 0⟩, (1, 1)⟩
theorem test_witness_vector_types : ¬ TypeAllows (badOp (.vaddTv2 false 7 ⟨4, false⟩ ⟨5, false⟩ ⟨true, none, 0⟩) true (some 0) ETy.isFloat fun _ => true) .f32 ∧
    ¬ TypeAllows (badOp (.vaddTv2 false 7 ⟨4, false⟩ ⟨5, false⟩ ⟨false, none, 5⟩) false (some 5) ETy.isFloat fun _ => true) .f32 ∧
    ¬ TypeAllows (badOp (.vred .xor 7 ⟨4, false⟩) false none (fun _ => false) fun ty => !ty.isFloat) .f32 ∧ st0.th.bound = none :=
  ⟨fun h => absurd (h.2.1 rfl) (by decide), fun h => absurd rfl h.2.2.1, fun h => absurd h.1 (by decide), rfl⟩
/-- Lanes to sum: two finite ones, of sum 0 and of another; a NaN among them; infinities of one sign and of both. -/
theorem test_witness_lane_sums : (∃ e, [0x3F800000, 0x80000000].map fmtS.decode = [.fin false (2 ^ 23) e, .fin true 0 (-149)] ∧ -149 ≤ e) ∧
    (∃ e, [0x3F800000, 0xBF800000].map fmtS.decode = [.fin false (2 ^ 23) e, .fin true (2 ^ 23) e]) ∧
    [0, 0x7F800001].find? (fun y => (fmtS.decode y).isNaN) = some 0x7F800001 ∧ fmtS.decode 0x7F800000 = .inf false ∧ fmtS.decode 0xFF800000 = .inf true ∧
    (∀ x ∈ [0x3F800000, 0x7F800000, 0xFF800000, 0x7F800001], Fits fmtS x) := by
  refine ⟨⟨-23, by decide +kernel, by decide⟩, ⟨-23, by decide +kernel⟩, by decide +kernel, by decide +kernel, by decide +kernel, ?_⟩
  unfold Fits; decide +kernel
theorem test_witness_vector_owner : (stTile ({ · with self := 0x0000000000100000 })).th.bound = some 2 ∧ (stTile ({ · with self := 0x0000000000100000 })).th.level ≠ .mon ∧
    ((stTile ({ · with self := 0x0000000000100000 })).here.aown[(2 : TileId).toFin]).getLsbD 62 = false ∧
    ((stTile ({ · with self := 0x0000000000100000 })).here.aown[(2 : TileId).toFin]).getLsbD 63 = true ∧
    ownedBy (stTile ({ · with self := 0x0000000000100000 })).here.aown[(2 : TileId).toFin] (stTile ({ · with self := 0x0000000000100000 })).th = false := by
  decide +kernel
theorem test_witness_vlane : Ready (stTile id) [sN 31, s1.vneed, s1.need] ∧ Ready (stTile id) [sN 31, s1.vneed] ∧ OwnTile (stTile id) 2 :=
  ⟨ready_of rfl (by decide +kernel) rfl, ready_of rfl (by decide +kernel) rfl, ownTile_st⟩

/-! ## Special functions, dequantisation, directions -/

/-- `VSFU` with seven entries before it; under an integer type. -/
def sfuE (f : SfuF) (uid : Nat) : SfuEntry := ⟨7, 3, uid, f, .f32, 2, 7, 0, .rne, true⟩
theorem test_witness_sfu : Ready (stTile id) [vN 7, s1.vneed] ∧ OwnTile (stTile id) 2 ∧ (tyOf (stTile id) VMods.none).isFloat = true ∧
    (stTile id).heldRow 0 2 7 = false ∧ (List.replicate 7 (sfuE .exp 0)).length + 0 < 8 ∧ (tyOf (stTile ({ · with tileb := 0xA6 })) VMods.none).isFloat = false :=
  ⟨ready_of rfl (by decide +kernel) rfl, ownTile_st, by decide +kernel, by decide +kernel, by decide, by decide +kernel⟩
def stUnit (g : Core → Core) : State := stSlot { Slot.free with st := .ready, th := { Thread.empty with uid := 9 } } fun x =>
  g { x with cycle := 100, tiles := x.tiles.set 2 (Vector.replicate 32 ⟨0, .empty 7⟩) }
theorem runsIn_st (g : Core → Core) (h : (((stUnit g).core 0).slots[(3 : SlotId)]).st = .ready ∧ (((stUnit g).core 0).slots[(3 : SlotId)]).th.uid = 9 ∧
    (∀ j : SlotId, j ≠ 3 → (((stUnit g).core 0).slots[j]).th.uid ≠ 9) ∧ ((((stUnit g).core 0).slots[(3 : SlotId)]).th.ecause).getLsbD 61 = false ∧
    ((((stUnit g).core 0).slots[(3 : SlotId)]).th.scause).getLsbD 61 = false ∧ ((((stUnit g).core 0).slots[(3 : SlotId)]).th.mcause).getLsbD 61 = false) :
    RunsIn (stUnit g) 0 3 9 := h
theorem test_witness_sfu_unit : (∀ e ∈ [sfuE .rcp 9, sfuE .tanh 9], RunsIn (stUnit ({ · with sfuq := [e] })) 0 3 e.uid ∧
      ((stUnit ({ · with sfuq := [e] })).core 0).sfuq = [e] ∧ ((stUnit ({ · with sfuq := [e] })).core 0).sfuSusp = [] ∧
      ((stUnit ({ · with sfuq := [e] })).core 0).sfuRun = [] ∧
      RunsIn (stUnit ({ · with sfuRun := [(100, e)] })) 0 3 e.uid ∧ ((stUnit ({ · with sfuRun := [(100, e)] })).core 0).sfuRun = [(100, e)] ∧
      100 ≤ ((stUnit ({ · with sfuRun := [(100, e)] })).core 0).cycle ∧ ((stUnit ({ · with sfuRun := [(101, e)] })).core 0).cycle < 101 ∧
      (((stUnit ({ · with sfuRun := [(100, e)] })).core 0).tiles[e.tile.toFin][e.row.toFin]).f = .empty e.tok) := by
  unfold RunsIn; decide +kernel
/-- `VDQ` of a quantised tensor of two groups of 32 elements: the last part within it, and each trap at the value where it begins. -/
def quantDesc : Desc :=
  ⟨0, #v[BitVec.ofNat 64 (2 ^ 62 + 10 * 2 ^ 58 + 2 ^ 56 + 1024), lsKey.w0, lsKey.w1, BitVec.ofNat 64 (4 * 2 ^ 32 + 64), BitVec.ofNat 64 (2 ^ 32 + 1),
    BitVec.ofNat 64 (64 * 2 ^ 32 + 1), 0, 0]⟩
def stVdq (w : Nat) : State :=
  let s := stTile (·.setS 3 (BitVec.ofNat 64 w))
  { s with copies := [((0, 0), { TableCopy.reset with descs := [(1, quantDesc), (2, denseDesc)] })] }
theorem test_witness_vdq : Ready (stVdq (3 * 2 ^ 48 + 63)) [vN 31, sN 3] ∧ OwnTile (stVdq (3 * 2 ^ 48 + 63)) 2 ∧ HasDesc (stVdq (3 * 2 ^ 48 + 63)) 1 quantDesc ∧
    HasDesc (stVdq 0) 2 denseDesc ∧ denseDesc.kind ≠ 1 ∧ quantDesc.kind = 1 ∧ (stVdq 0).th.ety = .f32 ∧ quantDesc.extent 0 = 64 ∧ quantDesc.extent 1 = 4 ∧
    1024 / quantDesc.width / (1024 / etyWidth .f32) = 4 ∧ 0 + (1 + 1) * (1024 / etyWidth .f32) = 64 ∧ 64 < 1 + (1 + 1) * (1024 / etyWidth .f32) ∧
    CleanRows (stVdq (3 * 2 ^ 48 + 63)) 2 (((stVdq (3 * 2 ^ 48 + 63)).th.sv 3).toNat % 32) 1 ∧ (stVdq (3 * 2 ^ 48 + 63)).heldRow 0 2 31 = false ∧ (stVdq 0).th.rowFaults = [] :=
  ⟨ready_of rfl (by decide +kernel) rfl, ⟨by decide +kernel, by decide +kernel, .inr (by decide +kernel)⟩, ⟨by decide +kernel, by decide +kernel⟩,
    ⟨by decide +kernel, by decide +kernel⟩, by decide +kernel, by decide +kernel, by decide +kernel, by decide +kernel, by decide +kernel, by decide +kernel,
    by decide +kernel, by decide +kernel, clean_of (by decide +kernel) (by decide +kernel) (by decide +kernel), by decide +kernel, by decide +kernel⟩
/-- Reserved bits and a part that is no part of a row, with both indexes within the tensor's extents. -/
def bigDesc : Desc := { quantDesc with words := quantDesc.words.set 3 (BitVec.ofNat 64 (4 * 2 ^ 32 + 256)) }
theorem test_witness_vdq_parts : 0 + (4 + 1) * (1024 / etyWidth .f32) ≤ bigDesc.extent 0 ∧ 1024 / bigDesc.width / (1024 / etyWidth .f32) ≤ 4 ∧
    0x100 / 2 ^ 8 % 2 ^ 24 ≠ 0 ∧ bigDesc.kind = 1 ∧ quantDesc.extent 1 ≤ 4 := by decide +kernel
def vdqE : VdqEntry := ⟨7, 3, 9, 2, .f32, 2, 7, 0, 1, 0, 3, quantDesc, none⟩
theorem test_witness_vdq_fill : ((stUnit ({ · with vdqs := [vdqE] })).core 0).vdqs = [vdqE] ∧ RunsIn (stUnit ({ · with vdqs := [vdqE] })) 0 3 vdqE.uid ∧
    (stUnit ({ · with vdqs := [vdqE] })).waitsPage (dieOf 0) (.scale 0 vdqE.tok) = false ∧
    (((stUnit ({ · with vdqs := [vdqE] })).core 0).tiles[vdqE.tile.toFin][vdqE.row.toFin]).f = .empty vdqE.tok ∧
    (∀ j, j < 1024 / etyWidth vdqE.ty → (vdqE.x0 + (vdqE.part * (1024 / etyWidth vdqE.ty) + j)) / vdqE.d.group + vdqE.d.extent 0 / vdqE.d.group * vdqE.x1 = 7) ∧
    (∃ sc z, (stUnit ({ · with vdqs := [vdqE] })).groupReads 0 vdqE.d vdqE.refusal [7] = .ok [(sc, z)] ∧ fmtH.decode sc = .fin false 0 (-24)) :=
  ⟨by decide +kernel, by unfold RunsIn; decide +kernel, by decide +kernel, by decide +kernel, by decide +kernel, 0, 0, rfl, by decide +kernel⟩

/-- Directional vectors: full operands; an infinite lane, NaN lanes and finite ones; results due and not yet due. -/
theorem test_witness_directions : Ready (stTile id) [dN 15, s1.vneed] ∧ Ready (stTile id) [dN 15, vN 31] ∧ OwnTile (stTile id) 2 ∧
    Ready (stTile id) [sN 31, (⟨15, false⟩ : DSrc).need, (⟨0, true⟩ : DSrc).need] ∧ Ready (stTile id) [dN 15, (⟨15, false⟩ : DSrc).need, s1.need] ∧
    (∀ i, i < 64 → (dirValue (stTile id) 2 true 4 i) = .fin false 0 (-133)) ∧
    (dirValue stNaN 2 false 4 31).isSNaN = true ∧ (dirValue stNaN 2 false 4 32).isNaN = false ∧ (∀ v ∈ List.replicate 64 (0 : Int), v = 0) :=
  ⟨ready_of rfl (by decide +kernel) rfl, ready_of rfl (by decide +kernel) rfl, ownTile_st, ready_of rfl (by decide +kernel) rfl,
    ready_of rfl (by decide +kernel) rfl, by decide +kernel, by decide +kernel, by decide +kernel, by decide⟩
theorem test_witness_infinite_lane : let s := (stTile id).setHere { (stTile id).here with
      tiles := (stTile id).here.tiles.set 2 (Vector.replicate 32 ⟨0x7F800000, .full⟩) }
    dirValue s 2 false 4 0 = .inf false ∧ ∀ i, i < 64 → (dirValue s 2 false 4 i).isNaN = false := by decide +kernel
def dirE (due : Nat) : DirEntry := ⟨7, 3, 9, 15, due, DCell.zero, 0⟩
theorem test_witness_directional_fill : (∀ due ∈ [100, 101], ((stUnit ({ · with dirs := [dirE due] })).core 0).dirs = [dirE due] ∧
      RunsIn (stUnit ({ · with dirs := [dirE due] })) 0 3 (dirE due).uid) ∧ 100 ≤ ((stUnit ({ · with dirs := [dirE 100] })).core 0).cycle ∧
    ((stUnit ({ · with dirs := [dirE 101] })).core 0).cycle < 101 ∧
    (({ Thread.empty with uid := 9 }.setD 15 { DCell.zero with f := .empty 7 }).d[(15 : DReg).toFin]).f = .empty (dirE 100).tok := by
  unfold RunsIn; decide +kernel

/-! ## Routing -/

/-- Berth 200 in the cluster's copy; every tile is the thread's; the berth row `v4` of tile 2 names it. -/
def stRoute (b x : Nat) (f : Thread → Thread) : State :=
  let s := stTile fun t => f ((t.setS 5 (BitVec.ofNat 64 b)).setS 6 (BitVec.ofNat 64 x))
  let s := s.setHere { s.here with 
    aown := Vector.replicate 4 0x8000000000000000
    tiles := s.here.tiles.set 2 (Vector.replicate 32 ⟨BitVec.ofNat 1024 (200 * 2 ^ 32), .full⟩) }
  { s with copies := [((0, 0), { TableCopy.reset with berths := [(200, ⟨0, 0, 9, 1024⟩)] })] }
/-- One row from tile 0 to the last row of tile 1 through entry 7, deadline in the next cycle. -/
def routeB : Nat := 2 ^ 32 + 1
def routeX : Nat := 31 * 2 ^ 10 + 2 ^ 8 + 7
theorem own_route (b x : Nat) (h1 : (stRoute b x id).th.bound = some 2) (h2 : ((stRoute b x id).here.aown[(2 : TileId).toFin]).getLsbD 62 = false)
    (h3 : ownedBy (stRoute b x id).here.aown[(2 : TileId).toFin] (stRoute b x id).th = true) : OwnTile (stRoute b x id) 2 := ⟨h1, h2, .inr h3⟩
theorem test_witness_route : Ready (stRoute routeB routeX id) (((List.range 1).map fun i => ⟨.v ((⟨4, false⟩ : Src).reg + BitVec.ofNat 5 i), (⟨4, false⟩ : Src).wait⟩) ++
      [(⟨5, false⟩ : Src).need, (⟨6, false⟩ : Src).need]) ∧ OwnTile (stRoute routeB routeX id) 2 ∧ MyTile (stRoute routeB routeX id) 0 ∧
    MyTile (stRoute routeB routeX id) (BitVec.ofNat 2 (routeX / 2 ^ 8)) ∧ (stRoute routeB routeX id).th.ety = .f32 ∧
    (val (stRoute routeB routeX id) ⟨5, false⟩).toNat = routeB ∧ (val (stRoute routeB routeX id) ⟨6, false⟩).toNat = routeX ∧
    (routeB % 2 ^ 6 = 1 ∧ routeB / 2 ^ 6 % 2 ^ 26 = 0 ∧ routeX / 2 ^ 15 = 0 ∧ routeX / 2 ^ 3 % 2 ^ 5 = 0 ∧ routeX / 2 ^ 10 % 2 ^ 5 + 1 ≤ 32 ∧
      routeB / 2 ^ 32 ≠ 0 ∧ 1 / 2 ^ 32 = 0) ∧ (BitVec.ofNat 2 (routeX / 2 ^ 8) : TileId) ≠ 0 :=
  ⟨ready_of rfl (by decide +kernel) rfl, own_route _ _ (by decide +kernel) (by decide +kernel) (by decide +kernel), ⟨by decide +kernel, by decide +kernel⟩,
    ⟨by decide +kernel, by decide +kernel⟩, by decide +kernel, by decide +kernel, by decide +kernel, by decide, by decide⟩
theorem test_witness_route_pairs : (wordOf ((stRoute routeB routeX id).here.tiles[(2 : TileId).toFin][((4 : VReg) + BitVec.ofNat 5 0).toFin]).v 0).toNat / 2 ^ 40 = 0 ∧
    aget (stRoute routeB routeX id).copyHere.berths (BitVec.ofNat 8
      ((wordOf ((stRoute routeB routeX id).here.tiles[(2 : TileId).toFin][((4 : VReg) + BitVec.ofNat 5 0).toFin]).v 0).toNat / 2 ^ 32)) = some ⟨0, 0, 9, 1024⟩ ∧
    aget st0.copyHere.berths 200 = none ∧ CleanRows (stRoute routeB routeX id) 0 0 1 ∧ CleanRows (stRoute routeB routeX id) 1 31 1 ∧
    ((stRoute routeB routeX id).here.tide[(7 : BitVec 3).toFin]).opn = false ∧
    (({ (stRoute routeB routeX id).here with tide := Vector.replicate 8 { Tide.free with opn := true } } : Core).tide[(7 : BitVec 3).toFin]).opn = true ∧
    (stRoute routeB routeX id).placeCore (stRoute routeB routeX id).cur.core (stRoute routeB routeX id).th.place = some 0 ∧
    (stRoute routeB routeX id).th.place < 2 ^ 13 ∧ 2 ^ 32 % 2 ^ 6 = 0 ∧ (BitVec.ofNat 2 (7 / 2 ^ 8) : TileId) = 0 :=
  ⟨by decide +kernel, by decide +kernel, by decide +kernel, clean_of (by decide +kernel) (by decide +kernel) (by decide +kernel),
    clean_of (by decide +kernel) (by decide +kernel) (by decide +kernel), by decide +kernel, by decide +kernel, by decide +kernel, by decide +kernel, by decide, by decide⟩
/-- `RRET` with a good token and with one past bit 33; `RTBL` at both bounds of the capacity, and beyond them. -/
theorem test_witness_rret : Ready (stTile (·.setS 3 0)) [sN 3, s1.vneed] ∧ OwnTile (stTile (·.setS 3 0)) 2 ∧ ((stTile (·.setS 3 0)).th.sv 3).toNat / 2 ^ 34 = 0 ∧
    (stTile (·.setS 3 0)).placeCore 0 (((stTile (·.setS 3 0)).th.sv 3).toNat / 2 ^ 21 % 2 ^ 13) = some 0 ∧ (stTile (·.setS 3 0)).me.sends < 2 ∧
    2 ≤ ((stTile id).setMe { (stTile id).me with sends := 2 }).me.sends ∧ ((stTile (·.setS 3 0x400000000)).th.sv 3).toNat / 2 ^ 34 ≠ 0 ∧
    (stTile (·.setS 3 0x200000)).placeCore 0 (((stTile (·.setS 3 0x200000)).th.sv 3).toNat / 2 ^ 21 % 2 ^ 13) = none :=
  ⟨ready_of rfl (by decide +kernel) rfl, ⟨by decide +kernel, by decide +kernel, .inr (by decide +kernel)⟩, by decide +kernel, by decide +kernel, by decide +kernel,
    by decide +kernel, by decide +kernel, by decide +kernel⟩
def stBerth (b : Option Berth) (cap : Nat) : State :=
  let s := stT fun t => (t.setS 4 255).setS 5 (BitVec.ofNat 64 (cap * 2 ^ 32))
  s.setPart 0 { s.part 0 with berths := match b with | some b => [(255, b)] | none => [] }
theorem test_witness_rtbl : Ready (stBerth none 1) [(⟨4, false⟩ : Src).need, (⟨5, false⟩ : Src).need] ∧ (val (stBerth none 1) ⟨4, false⟩).toNat < 2 ^ 8 ∧
    (∀ c ∈ [1, 1024, 0, 1025], (val (stBerth none c) ⟨5, false⟩).toNat / 2 ^ 32 = c) ∧ Quiet (stBerth none 1) ∧
    aget ((stBerth none 1).part (stBerth none 1).partHere).berths (BitVec.ofNat 8 (val (stBerth none 1) ⟨4, false⟩).toNat) = none ∧
    (∀ y ∈ [(⟨0, 0, 9, 4⟩ : Berth), ⟨1, 0, 9, 4⟩, ⟨0, 1, 9, 4⟩], aget ((stBerth (some y) 1).part (stBerth (some y) 1).partHere).berths (BitVec.ofNat 8 (val (stBerth (some y) 1) ⟨4, false⟩).toNat) = some y) ∧
    (stBerth none 1).th.place = 0 ∧ (stBerth none 1).th.tenant = 0 :=
  ⟨ready_of rfl rfl rfl, by decide +kernel, by decide +kernel, ⟨rfl, rfl, rfl, (by decide : (0 : Word).getLsbD 63 = false), rfl, fun _ h => nomatch h⟩, by decide +kernel, by decide +kernel,
    by decide +kernel, by decide +kernel⟩

/-- An open entry of two rows, the first done unless it is the one in question; its row 0 has the choice `c`; the message of it. -/
def aChoice (st : ChoiceSt) : Choice := ⟨0x3F800000, 200, 0, 9, st⟩
def aRow (st : ChoiceSt) (alt : Option Choice) : TideRow := ⟨[aChoice st], alt, 0, true⟩
def aTide (st : ChoiceSt) (alt : Option Choice) (pol : Policy) : Tide :=
  { Tide.free with opn := true, gen := 3, tok := 7, m := 2, src := 0, dst := 1, drow := 30, policy := pol, deadline := 100, rows := [aRow st alt, aRow .unsent none] }
def stTide (t : Tide) (g : Core → Core) (m : List Msg) (q : List RowRet) : State :=
  { stC fun x => g { x with cycle := 100, tide := x.tide.set 7 t, tiles := x.tiles.set 1 (Vector.replicate 32 ⟨0, .empty 7⟩) } with msgs := m, returns := q }
def rowMsg (st : MsgStage) (t : Tide) : Msg :=
  ⟨5, rowMessage t 9 0x3F800000 (token t 7 200 0 0) 0, .tide 0 7, 0, st, some ⟨token t 7 200 0 0, 0x3F800000, 200⟩, false, 0⟩
theorem tokenNames_of {s : State} {t : Tide} {r : TideRow} {ch : Choice} (h1 : (s.core 0).tide[(7 : BitVec 3).toFin] = t) (h2 : t.opn = true)
    (h3 : (token t 7 200 0 0).toNat % 8 = (7 : BitVec 3).toNat ∧ (token t 7 200 0 0).toNat / 2 ^ 3 % 2 ^ 4 = t.gen.toNat ∧ (token t 7 200 0 0).toNat / 2 ^ 7 % 2 ^ 5 = 0 ∧
      (token t 7 200 0 0).toNat / 2 ^ 12 % 2 = 0) (h4 : t.rows[0]? = some r) (h5 : r.ch[0]? = some ch) : TokenNames s 0 (token t 7 200 0 0) 7 t 0 0 r ch :=
  ⟨⟨h3.1, h1, h2⟩, h3.2.1, ⟨h3.2.2.1, h4⟩, ⟨h3.2.2.2, h5⟩⟩
def stBerthUpdate : State := { st0 with copies := [((63, 511), { TableCopy.reset with berthq := [(1, 255, some ⟨0, 0, 9, 4⟩)] })] }
theorem test_witness_berth_update : (stBerthUpdate.copy 63 511).berthq = [(1, 255, some ⟨0, 0, 9, 4⟩)] ∧
    (∀ q ∈ stBerthUpdate.copies, q.1.2 = 511 → q.2.berthq ≠ [] → q.1.1 = 63) := by decide +kernel
/-- No earlier packet is on the way of a routed row, of its refusal and of its return. -/
theorem test_witness_row_order : (∀ st ∈ [MsgStage.flight, .again, .refused],
      (stTide (aTide .sending none .drop) id [rowMsg st (aTide .sending none .drop)] []).onTime
        ((stTide (aTide .sending none .drop) id [rowMsg st (aTide .sending none .drop)] []).msgWires (rowMsg st (aTide .sending none .drop))) = true) := by
  decide +kernel
theorem test_witness_row_send : ((stTide (aTide .unsent none .drop) id [] []).core 0).tide[(7 : BitVec 3).toFin] = aTide .unsent none .drop ∧
    (aTide .unsent none .drop).opn = true ∧ (aTide .unsent none .drop).rows[0]? = some (aRow .unsent none) ∧ (aRow .unsent none).ch[0]? = some (aChoice .unsent) ∧
    (stTide (aTide .unsent none .drop) id [] []).placeCore 0 (aChoice .unsent).place = some 0 ∧ (aTide .unsent none .drop).place < 2 ^ 13 := by decide +kernel
/-- The berth is absent, full, another tenant's, or has room; the inbox holds 61 entries, and 62. -/
theorem test_witness_row_arrival : (∀ bs ∈ [([] : List (BitVec 8 × BerthAt)), [(200, ⟨0, 4, 4⟩)], [(200, ⟨1, 4, 0⟩)], [(200, ⟨0, 4, 3⟩)]],
      ((stTide (aTide .sending none .drop) ({ · with berths := bs }) [rowMsg .flight (aTide .sending none .drop)] []).core 0).berths = bs ∧
      ((stTide (aTide .sending none .drop) ({ · with berths := bs }) [rowMsg .flight (aTide .sending none .drop)] []).core 0).inbox = ⟨[], [], []⟩) ∧
    (rowMsg .flight (aTide .sending none .drop)).entries.length = 3 ∧ ((rowMsg .flight (aTide .sending none .drop)).entries.headD default).tenant = 0 ∧
    (rowMsg .flight (aTide .sending none .drop)).gate = false ∧ (rowMsg .flight (aTide .sending none .drop)).row = some ⟨token (aTide .sending none .drop) 7 200 0 0, 0x3F800000, 200⟩ ∧
    (List.replicate 61 anEntry).length ≤ 61 ∧ 61 < (List.replicate 62 anEntry).length := by decide +kernel
theorem test_witness_row_refusal (alt : Option Choice) (pol : Policy) (h : (alt = none ∧ (pol = .drop ∨ pol = .pass ∨ pol = .next)) ∨ (alt = some (aChoice .unsent) ∧ pol = .next)) :
    TokenNames (stTide (aTide .sending alt pol) id [rowMsg .refused (aTide .sending alt pol)] []) 0 (token (aTide .sending alt pol) 7 200 0 0) 7 (aTide .sending alt pol) 0 0
      (aRow .sending alt) (aChoice .sending) ∧ RowOpen (stTide (aTide .sending alt pol) id [rowMsg .refused (aTide .sending alt pol)] []) 0 (aTide .sending alt pol) 0 ∧
    ((stTide (aTide .sending alt pol) id [rowMsg .refused (aTide .sending alt pol)] []).core 0).inbox.reserved = [] ∧ (aChoice .accepted).st ≠ .sending := by
  rcases h with ⟨rfl, rfl | rfl | rfl⟩ | ⟨rfl, rfl⟩ <;>
    exact ⟨tokenNames_of (by decide +kernel) rfl (by decide +kernel) rfl rfl,
      ⟨rfl, by decide, by decide, by decide, ⟨1, by decide, by decide, by decide⟩, by decide +kernel⟩, by decide +kernel, by decide⟩
def aReturn (w : Word) (tn : BitVec 9) : RowRet := ⟨5, 0, 0, 0, w, tn, 0, false⟩
theorem test_witness_row_return : TokenNames (stTide (aTide .accepted none .drop) id [] [aReturn (token (aTide .accepted none .drop) 7 200 0 0) 0]) 0
      (token (aTide .accepted none .drop) 7 200 0 0) 7 (aTide .accepted none .drop) 0 0 (aRow .accepted none) (aChoice .accepted) ∧
    RowOpen (stTide (aTide .accepted none .drop) id [] [aReturn (token (aTide .accepted none .drop) 7 200 0 0) 0]) 0 (aTide .accepted none .drop) 0 ∧
    (aTide .accepted none .drop).tenant = (aReturn 0 0).tenant ∧ (aTide .accepted none .drop).tenant ≠ (aReturn 0 1).tenant ∧
    (stTide (aTide .accepted none .drop) id [] [aReturn (token (aTide .accepted none .drop) 7 200 0 0) 0]).clear
      (aReturn (token (aTide .accepted none .drop) 7 200 0 0) 0).wire = true :=
  ⟨tokenNames_of (by decide +kernel) rfl (by decide +kernel) rfl rfl,
    ⟨rfl, by decide, by decide, by decide, ⟨1, by decide, by decide, by decide⟩, by decide +kernel⟩, rfl, by decide, by decide +kernel⟩
theorem test_witness_deadline : ((stTide (aTide .sending none .drop) id [] []).core 0).tide[(7 : BitVec 3).toFin] = aTide .sending none .drop ∧
    (aTide .sending none .drop).deadline ≤ ((stTide (aTide .sending none .drop) id [] []).core 0).cycle ∧
    ((stTide (aTide .sending none .drop) ({ · with cycle := 99 }) [] []).core 0).cycle < (aTide .sending none .drop).deadline ∧
    (∀ i r, (aTide .sending none .drop).rows[i]? = some r → ((aTide .sending none .drop).done.getLsbD i = true ↔ ∀ q ∈ r.ch, Resolved q)) ∧
    (∀ i, (aTide .sending none .drop).done.getLsbD i = false) ∧
    (∀ i, i < 2 → (((stTide (aTide .sending none .drop) id [] []).core 0).tiles[(1 : TileId).toFin][(BitVec.ofNat 5 (30 + i)).toFin]).f = .empty 7) ∧
    (stTide (aTide .sending none .drop) id [] []).placeCore 0 0 = some 0 := by
  refine ⟨by decide +kernel, by decide +kernel, by decide +kernel, fun i r h => ?_, fun i => by simp [aTide, Tide.free], by decide +kernel, by decide +kernel⟩
  rcases i with _ | _ | i
  · obtain rfl : aRow .sending none = r := Option.some.inj h
    exact ⟨fun h => absurd h (by decide), fun h => by have := h (aChoice .sending) (by decide); rcases this with h | h | h | h <;> cases h⟩
  · obtain rfl : aRow .unsent none = r := Option.some.inj h
    exact ⟨fun h => absurd h (by decide), fun h => by have := h (aChoice .unsent) (by decide); rcases this with h | h | h | h <;> cases h⟩
  · cases h

/-! ## The host -/

/-- The module is up and master 0 is the elected owner. -/
def stBoot (f : State → State) : State := f { st0 with boot := 1, ownctl := 4 }
theorem booted_st : Booted (stBoot id) ∧ Elected (stBoot id) ∧ OwnerIs (stBoot id) 0 ∧ ¬ OwnerIs (stBoot id) 1 ∧ (stBoot id).inval = none :=
  ⟨⟨rfl, rfl⟩, by unfold Elected; decide +kernel, ⟨by unfold Elected; decide +kernel, by decide +kernel⟩, fun h => absurd h.2 (by decide +kernel), rfl⟩
theorem test_witness_invalidate : ({ stBoot id with inval := some ⟨0, 0, 1, 1⟩ } : State).inval.isSome = true ∧
    (let q := atHomeReq (.ld 8 false) .home 7 0
     q.dev = true ∧ q.tenant = 0 ∧ q.xlat < 1 ∧ q.va < 64 + 1 ∧ 64 < q.va + q.size ∧ q.pas ≠ [] ∧ q.stage = .home) ∧ (stBoot id).reqs = [] := by decide +kernel
theorem test_witness_dirty : (stBoot id).dirty.length < 512 ∧ aget (stBoot id).dirty 589823 = none ∧ 589823 < 589824 ∧
    aget ({ stBoot id with dirty := [(0, [])] } : State).dirty 0 ≠ none ∧ (∀ p ∈ (stBoot id).clusters, p.2.nodes = []) ∧
    512 ≤ (List.replicate 512 ((0 : Nat), ([] : List Nat))).length := by decide +kernel
/-- The last place of partition 0 is written to core 1 (its second core); with VALID 0; of a cluster that failed its test. -/
def stPlaces : State := stBoot fun s => s.setPart 0 { s.part 0 with base := 0, len := 4, places := [0], ranking := [0] } |>.setDie 0 { s.die 0 with stpass := 1 }
theorem test_witness_place_table : (stPlaces.part 0).places[(0 : CoreId).toNat]? = some 0 ∧ (0x8001 : Half).toNat / 2 ^ 13 = 4 ∧ ((0x8001 : Half).setWidth 13 : CoreId) ∉ stPlaces.disabled ∧
    (stPlaces.part 0).base ≤ hilbertOf ((0x8001 : Half).setWidth 13) ∧ hilbertOf ((0x8001 : Half).setWidth 13) < 0 + 4 ∧ (stPlaces.part 0).places[(1 : CoreId).toNat]? = none ∧
    (0x0001 : Half).getLsbD 15 = false ∧ (0x8001 : Half).getLsbD 15 = true ∧ stPlaces.passed ((0x8001 : Half).setWidth 13) = true ∧
    ¬ (stPlaces.isCoupled ((0x8001 : Half).setWidth 13) = true) ∧
    ({ stPlaces with dies := [] } : State).passed ((0x8001 : Half).setWidth 13) = false ∧ stPlaces.parts.map (fun q => (q.1, q.2.places)) = [(0, [0])] := by decide +kernel
theorem test_witness_place_mine : ∀ q ∈ stPlaces.parts, ∀ i, q.2.places[i]? = some ((0x8001 : Half).setWidth 13 : CoreId) → q.1 = (0 : BitVec 6).toNat ∧ i = (0 : CoreId).toNat := by
  intro q hq i hi
  have h : stPlaces.parts.map (fun q => (q.1, q.2.places)) = [(0, [0])] := by decide +kernel
  have : (q.1, q.2.places) ∈ [((0 : Nat), ([0] : List CoreId))] := h ▸ List.mem_map_of_mem hq
  simp only [List.mem_cons, List.not_mem_nil, or_false, Prod.mk.injEq] at this
  rw [this.2] at hi
  rcases i with _ | i
  · exact absurd (Option.some.inj hi) (by decide)
  · cases hi
/-- The partition table: the whole die span for partition 63, an empty one, and one past the last core. -/
theorem test_witness_partition_table : ((stBoot id).part 63).len = 0 ∧ 8191 + 1 ≤ 8192 ∧ 8192 < 8191 + 2 ∧
    (∀ i, i < 1 → (stBoot id).occupied (hilbertCore (8191 + i)) = false) ∧ (stBoot id).occupied (hilbertCore 0) = true ∧
    ((stBoot id).parts.all fun q => decide (8191 + 1 ≤ q.2.base ∨ q.2.base + q.2.len ≤ 8191)) = true := by decide +kernel
theorem test_witness_window : OwnerIs (stBoot id) 0 ∧ (0x20001 % 8 ≠ 0) ∧ 0x1FFF8 < 0x20000 ∧ 0x28000 ≤ 0x28000 ∧ 0x28000 < 0x40000 ∧ 0x50000 ≤ 0x50000 :=
  ⟨booted_st.2.2.1, by decide⟩
/-- Device memory: the last word, the last byte, a line with a poisoned word. -/
theorem test_witness_host_memory : MapsTo (stBoot id) 2 (paMax - 7) ∧ HostAddr (stBoot id) 2 (paMax - 7) (paMax - 7) ∧ GranuleOpen (stBoot id) (8 * ((paMax - 7) / 8)) ∧
    GranuleOpen (stBoot id) (paMax / 64 * 64) ∧ (stBoot id).mem.wf = true ∧ (stBoot id).keyOf ((stBoot id).hdmTenant (8 * ((paMax - 7) / 8))) = some ⟨0, 0⟩ ∧
    (paMax - 7) % 8 = 0 ∧ (List.replicate 8 (0 : Byte)).length = 8 ∧ (stBoot id).keyOf ((stBoot id).hdmTenant (paMax / 64 * 64)) = some ⟨0, 0⟩ ∧
    (({ stBoot id with mem := (stBoot id).mem.setBad (paMax / 64 * 8 + 7) true } : State).mem.bad (paMax / 64 * 8 + 7)) = true := by
  refine ⟨⟨⟨rfl, rfl⟩, by decide, by decide +kernel, by decide⟩, ⟨0, rfl, by decide⟩, fun tn h => ?_, fun tn h => ?_, by decide +kernel, by decide +kernel, by decide +kernel,
    rfl, by decide +kernel, by decide +kernel⟩
  · exact absurd h (by rw [show aget (stBoot id).hdm (8 * ((paMax - 7) / 8) / 2 ^ 30) = none from rfl]; simp)
  · exact absurd h (by rw [show aget (stBoot id).hdm (paMax / 64 * 64 / 2 ^ 30) = none from rfl]; simp)
/-- Accesses that no head maps, that leave their line, or that meet a granule of an interface that does not run. -/
def stGranule (t : Tdi) : State := stBoot fun s => { s with hdm := [(0, 5)], ctxs := [(7, { Ctx.reset with tdi := t, tenant := 5 })] }
theorem test_witness_no_host_access : (∀ a, ¬ HostAddr (stBoot id) 3 a 0) ∧ (0 : BitVec 2) ∈ ({ stBoot id with down := [0] } : State).down ∧ paMax < paMax + 1 ∧
    ¬ ((60 : Nat) % 64 + (List.replicate 8 (0 : Byte)).length ≤ 64) ∧ ¬ GranuleOpen (stGranule .locked) 0 ∧ GranuleOpen (stGranule .run) 0 := by
  refine ⟨fun a h => ?_, by decide, by decide, by decide, fun h => ?_, fun tn h => .inr ?_⟩
  · obtain ⟨b, h, _⟩ := h
    exact absurd h (by simp [stBoot])
  · rcases h 5 rfl with h | ⟨p, hp, _, h⟩
    · exact h (7, { Ctx.reset with tdi := .locked, tenant := 5 }) (List.mem_singleton.2 rfl) rfl
    · rw [List.mem_singleton.1 hp] at h; cases h
  · obtain rfl : (5 : BitVec 9) = tn := Option.some.inj h
    exact ⟨_, List.mem_singleton.2 rfl, rfl, rfl⟩
/-- The window of a part that has not booted, and of one that has: the last entry of partition 63's places, the ranges of zeros. -/
theorem test_witness_window_reads : ¬ Booted st0 ∧ Booted (stBoot id) ∧ (stBoot id).dirtyCmd < 4 ∧ (63 : Nat) < 64 ∧ 8191 < 8192 ∧
    ((stBoot id).part 63).places[8191]? = none ∧ ((stBoot id).part 0).places[0]? = some 0 ∧ 0x3FFFFF8 % 8 = 0 ∧ 0x500000 ≤ 0x3FFFFF8 := by
  unfold Booted; decide +kernel

/-- A context in RUN with a slot written, posted or not; one command accepted. -/
def slotWords (op : Nat) : List Word := BitVec.ofNat 64 op :: List.replicate 31 0
def stCtx (op : Nat) (posted : List (BitVec 4)) (st : Tdi) : State :=
  stBoot fun s => { s with ctxs := [(4095, { Ctx.reset with tdi := st, slots := [(14, slotWords op)], posted := posted })] }
theorem test_witness_slots : OwnerIs (stCtx 1 [] .run) 0 ∧ (14 : BitVec 4) ≠ 15 ∧ (14 : BitVec 4) ∉ ((stCtx 1 [] .run).ctx 4095).posted ∧
    (14 : BitVec 4) ∈ ((stCtx 1 [14] .run).ctx 4095).posted ∧ aget ((stCtx 1 [14] .run).ctx 4095).slots 14 = some (slotWords 1) ∧
    ((stCtx 1 [] .run).ctx 4095).tdi = .run ∧ ((stCtx 1 [] .locked).ctx 4095).tdi ≠ .run :=
  ⟨⟨by unfold Elected; decide +kernel, by decide +kernel⟩, by decide, by decide +kernel, by decide +kernel, by decide +kernel, by decide +kernel, by decide +kernel⟩
theorem serves_st (f : State → State) (h : (stBoot f).boot = 1 ∧ (stBoot f).off = false) (h2 : (stBoot f).roles[(0 : Fin 2)] ≠ .failed)
    (h3 : (stBoot f).taking = none) : Serves (stBoot f) := ⟨h, h2, h3⟩
theorem test_witness_accept : Serves (stCtx 1 [14] .run) ∧ (stCtx 1 [14] .run).cmds = [] ∧
    (∀ n ∈ [1, 4, 0, 5], ((slotWords n).getD 0 0).toNat % 256 = n) :=
  ⟨serves_st _ ⟨rfl, rfl⟩ (by decide +kernel) rfl, rfl, by decide +kernel⟩

/-- A launch command of one thread at place 0, entry PC 2, under graph 0 of the context's tenant: accepted, refused for a graph of
another tenant, held for lack of an entry. -/
def launchCmd (held : Bool) : Cmd :=
  ⟨9, 4095, 14, [0x1001, 1, BitVec.ofNat 64 (2 ^ 16), 2, 0] ++ List.replicate 27 0, held, ⟨[], [], []⟩, none, none⟩
def stCmd (x : Cmd) (tn : BitVec 9) (lv : List ((Lvl × Nat) × LvEntry)) : State :=
  stBoot fun s =>
    let s := { s with ctxs := [(4095, { Ctx.reset with tdi := .run, tenant := tn })], cmds := [x] }
    s.setPart 0 { s.part 0 with levels := lv }
def openGraph : List ((Lvl × Nat) × LvEntry) := [((.graph, 0), opened 0 1)]
theorem test_witness_launch : (∀ h ∈ [false, true], (stCmd (launchCmd h) 0 openGraph).cmds = [launchCmd h] ∧ ((launchCmd h).words.getD 0 0).toNat % 256 = 1 ∧ (launchCmd h).rest = none ∧
      (stCmd (launchCmd h) 0 openGraph).launchRefusal (launchCmd h) = none ∧ (stCmd (launchCmd h) 0 openGraph).freeLaunch 0 = some 0 ∧
      (stCmd (launchCmd h) 0 openGraph).cancelled 4 ⟨0, .graph, 0⟩ = false ∧ ((stCmd (launchCmd h) 0 openGraph).cmdLaunch (launchCmd h)).n ≠ 0 ∧
      ((stCmd (launchCmd h) 0 openGraph).cmdLaunch (launchCmd h)).places = 1) ∧ (stCmd (launchCmd false) 0 openGraph).clusters.all (fun p => decide (p.2.pending.length + 1 ≤ 256)) = true ∧
    ((stCmd (launchCmd false) 1 openGraph).launchRefusal (launchCmd false)).isSome = true ∧
    1 < (({ launchCmd false with words := 0x1201 :: (launchCmd false).words.drop 1 } : Cmd).words.getD 0 0).toNat / 2 ^ 8 % 4 := by decide +kernel
/-- Every launch entry is in use. -/
def fullLaunches : List ((Lvl × Nat) × LvEntry) := ((.graph, 0), opened 0 1) :: (List.range 4096).map fun i => ((.launch, i), opened 0 1)
theorem aget_map_of_mem (x : LvEntry) (i : Nat) : ∀ l : List Nat, i ∈ l → aget (l.map fun i => ((Lvl.launch, i), x)) (.launch, i) = some x := by
  intro l
  induction l with
  | nil => intro h; cases h
  | cons j r ih =>
    intro h
    simp only [List.map_cons, aget, Prod.mk.injEq, true_and]
    split
    · rfl
    · exact ih (by rcases List.mem_cons.1 h with rfl | h; · contradiction
                   · exact h)
theorem test_witness_launch_held : (stCmd (launchCmd false) 0 fullLaunches).freeLaunch 0 = none := by
  have hp : ∀ lv, ((stCmd (launchCmd false) 0 lv).part 0).levels = lv := fun _ => rfl
  unfold State.freeLaunch lowest
  rw [List.find?_eq_none]
  intro i hi
  simp only [State.lv, agetD, hp, fullLaunches]
  rw [show aget (((Lvl.graph, 0), opened 0 1) :: (List.range 4096).map fun i => ((Lvl.launch, i), opened 0 1)) (Lvl.launch, i) = some (opened 0 1) by
    unfold aget
    rw [if_neg (by simp)]
    exact aget_map_of_mem _ i _ hi]
  decide
theorem serves_cmd (x : Cmd) (tn : BitVec 9) (lv : List ((Lvl × Nat) × LvEntry)) : Serves (stCmd x tn lv) :=
  ⟨⟨rfl, rfl⟩, (fun h => by cases (show Role.active = Role.failed from h)), rfl⟩
/-- Level commands on job 15, graph 0 and entries in every state; the tenant's and another's. -/
def lvlCmd (op w : Nat) : Cmd := ⟨9, 4095, 14, BitVec.ofNat 64 op :: (List.replicate 9 0 ++ [BitVec.ofNat 64 w]) ++ List.replicate 21 0, false, ⟨[], [], []⟩, none, none⟩
theorem test_witness_level_commands : (∀ op ∈ [2, 3, 4], (stCmd (lvlCmd op 0xF30) 0 []).cmds = [lvlCmd op 0xF30] ∧ ((lvlCmd op 0xF30).words.getD 0 0).toNat % 256 = op ∧
      ((lvlCmd op 0xF30).words.getD 0 0).toNat / 2 ^ 8 % 4 ≤ 1) ∧
    (∀ w ∈ [0xF30, 0xF31, 0x012, 0x013, 0x014], ((stCmd (lvlCmd 3 w) 0 openGraph).cmdEntry (lvlCmd 3 w)).idx < ((stCmd (lvlCmd 3 w) 0 openGraph).cmdEntry (lvlCmd 3 w)).lvl.size ∧
      ((stCmd (lvlCmd 3 w) 0 openGraph).lv ((stCmd (lvlCmd 3 w) 0 openGraph).cmdEntry (lvlCmd 3 w))).tenant = ((stCmd (lvlCmd 3 w) 0 openGraph).ctx 4095).tenant) ∧
    ((stCmd (lvlCmd 3 0xF31) 0 openGraph).cmdEntry (lvlCmd 3 0xF31)).lvl = .job ∧ ((stCmd (lvlCmd 3 0xF31) 0 openGraph).lv ⟨0, .job, 15⟩).st = .free ∧
    0xF31 / 2 ^ 32 % 2 ^ 9 = ((stCmd (lvlCmd 3 0xF31) 0 openGraph).ctx 4095).tenant.toNat ∧
    ((stCmd (lvlCmd 3 0x012) 0 [((.graph, 0), opened 0 2)]).lv ⟨0, .graph, 0⟩).st = .opened ∧ 2 ≤ ((stCmd (lvlCmd 3 0x012) 0 [((.graph, 0), opened 0 2)]).lv ⟨0, .graph, 0⟩).count ∧
    ((stCmd (lvlCmd 3 0x013) 0 [((.graph, 0), { opened 0 0 with st := .done })]).lv ⟨0, .graph, 0⟩).st = .done ∧
    ((stCmd (lvlCmd 2 0x010) 1 openGraph).lv ⟨0, .graph, 0⟩).tenant ≠ ((stCmd (lvlCmd 2 0x010) 1 openGraph).ctx 4095).tenant := by decide +kernel
/-- Commands without keys, with a key that lies within the root key, and with one that does not. -/
def keyCmd (k : KCell) : Cmd := { lvlCmd 2 0x010 with words := (lvlCmd 2 0x010).words.set 16 k.w0 |>.set 17 k.w1 }
theorem test_witness_command_keys : KeysInside (stCmd (lvlCmd 2 0x010) 0 openGraph) (lvlCmd 2 0x010) ∧
    ¬ KeysInside (stCmd (keyCmd devKey) 0 openGraph) (keyCmd devKey) ∧
    KeysInside { stCmd (keyCmd devKey) 0 openGraph with ctxs := [(4095, { Ctx.reset with root := devKey })] } (keyCmd devKey) := by
  refine ⟨fun i hi => .inl ?_, fun h => ?_, fun i hi => ?_⟩
  · revert i; decide +kernel
  · rcases h 0 (by decide) with h | h
    · exact absurd h.1 (by decide +kernel)
    · exact absurd h.1 (by decide +kernel)
  · have : i = 0 ∨ ((⟨i, hi⟩ : Fin 8) ∈ (List.finRange 8).tail) := by
      have h : ∀ i : Fin 8, i.val = 0 ∨ i ∈ (List.finRange 8).tail := by decide
      exact h ⟨i, hi⟩
    rcases this with rfl | h
    · exact .inr ⟨by decide +kernel, by decide +kernel, by decide +kernel, by decide +kernel, .inl ⟨by decide +kernel, by decide +kernel, by decide +kernel⟩⟩
    · left
      have h : ∀ i ∈ (List.finRange 8).tail, (keyCmd devKey).words.getD (16 + 2 * i.val) 0 = 0 ∧ (keyCmd devKey).words.getD (17 + 2 * i.val) 0 = 0 := by decide +kernel
      exact h _ ‹_›

/-! ## Owners, standby, interfaces, fabric, power -/

/-- An offer to master 3 that is open; none; a link that is down. -/
theorem test_witness_owners : (let s := stBoot ({ · with ownctl := 0x3C })
      s.ownctl.getLsbD 3 = true ∧ s.ownctl.toNat / 2 ^ 4 % 4 = (3 : BitVec 2).toNat ∧ s.ownctl.toNat / 2 ^ 4 % 4 ≠ (2 : BitVec 2).toNat) ∧
    (stBoot id).ownctl.getLsbD 3 = false ∧ (stBoot id).ownctl.getLsbD 2 = true ∧ (stBoot ({ · with ownctl := 0 })).ownctl.getLsbD 2 = false ∧
    (0 : BitVec 2) ∈ (stBoot ({ · with down := [0] })).down ∧ (0 : BitVec 2) ∉ (stBoot id).down := by decide +kernel
theorem test_witness_standby : (∀ w : BitVec 1, (stBoot id).roles[w.toFin] ≠ .failed ∧ (stBoot ({ · with roles := Vector.replicate 2 .failed })).roles[w.toFin] = .failed ∧
      (stBoot ({ · with beats := Vector.replicate 2 2 })).roles[w.toFin] = .active ∧ 2 ≤ (stBoot ({ · with beats := Vector.replicate 2 2 })).beats[w.toFin]) ∧
    (stBoot id).standby = true ∧ (stBoot ({ · with standby := false })).standby = false ∧
    (stBoot ({ · with owed := [.job ⟨0, .job, 3⟩] })).owed = [] ++ [.job ⟨0, .job, 3⟩] := by decide +kernel
theorem test_witness_interface : (∀ x ∈ [Tdi.unlocked, .locked, .run, .error], ((stCtx 1 [14] x).ctx 4095).tdi = x ∧ (stCtx 1 [14] x).krcmd.getLsbD 63 = false) ∧
    ({ stBoot id with krcmd := 0x8000000000000000, keyNew := some (1, none) } : State).krcmd.getLsbD 63 = true ∧
    ((stCmd (lvlCmd 3 0) 0 [((.job, 15), opened 0 1)]).lv ⟨0, .job, 15⟩).st = .opened ∧
    ((stCmd (lvlCmd 3 0) 0 [((.job, 15), opened 0 1)]).lv ⟨0, .job, 15⟩).tenant = ((stCmd (lvlCmd 3 0) 0 []).ctx 4095).tenant := by decide +kernel
theorem test_witness_fabric : ({ atHomeReq (.ld 4 true) .fabric 7 0 with relaxed := false } : Req).stage = .fabric ∧
    aget ({ stBoot id with groups := [(2, ⟨[4, 5], 0, []⟩)] } : State).groups 2 = some ⟨[4, 5], 0, []⟩ ∧ 1 < [4, 5].length ∧ (1 : Nat) ≠ 0 ∧ [4, 5].length ≤ 2 ∧
    (stPage 0x600003 id).mem.wf = true ∧ (stPage 0x600003 id).keyOf 0 = some ⟨0, 0⟩ ∧ (stBoot id).off = false ∧ ({ stBoot id with off := true } : State).off = true := by
  decide +kernel
def found (r : Xlat) : Bool := match r with | .ok _ => true | _ => false
theorem found_ok {r : Xlat} (h : found r = true) : ∃ lf, r = .ok lf := by
  cases r <;> first | exact ⟨_, rfl⟩ | cases h
theorem test_witness_fabric_write : ∃ lf, (stPage 0x600003 id).translate 0 none false (64 / 8 * 8) true false = .ok lf := found_ok (by decide +kernel)

/-! ## Pairs, errors, the shadow handler -/

/-- A supervisor on core 0 with the cores of pair 1 in its partition; both enabled, or one disabled; pair numbers at the bounds. -/
def stPairs (w : Word) (off : List CoreId) : State :=
  let s := stT fun t => { t.setS 4 w with level := .sup }
  { s.setPart 0 { s.part 0 with len := 16, places := [0] } with disabled := off }
theorem test_witness_pair : Ready (stPairs 1 []) [sN 31, (⟨4, false⟩ : Src).need] ∧ (stPairs 1 []).th.level ≠ .user ∧ Quiet (stPairs 1 []) ∧ (val (stPairs 1 []) ⟨4, false⟩).toNat < 2 ^ 12 ∧
    MayCouple (stPairs 1 []) ((val (stPairs 1 []) ⟨4, false⟩).setWidth 12) ∧ (BitVec.ofNat 13 (2 * 1 + 1) : CoreId) ∈ (stPairs 1 [3]).disabled ∧
    2 ^ 12 ≤ (val (stPairs 0x1000 []) ⟨4, false⟩).toNat := by
  refine ⟨ready_of rfl rfl rfl, by decide +kernel, ⟨rfl, rfl, rfl, (by decide : (0 : Word).getLsbD 63 = false), rfl, fun _ h => nomatch h⟩, by decide +kernel,
    ⟨by decide +kernel, ⟨0, by decide +kernel⟩, ?_, by decide +kernel, by decide +kernel⟩, by decide +kernel, by decide +kernel⟩
  decide +kernel
/-- A pair that is due for its first, second and third disagreement, one that is not due, and one that must not stop yet. -/
def stPairRec (p : Nat → PairRec) (fails : Nat) : State :=
  let k := (stSlot { Slot.free with st := .ready } id).core 0
  { stSlot { Slot.free with st := .ready } id with pairs := [(0, { p fails with snap := (k, []) })], clusters := [] }
def duePair (due : Bool) (fails : Nat) : PairRec := ⟨4, 0, fails, due, (Core.reset, [])⟩
theorem test_witness_checkpoint : (∀ f ∈ [0, 1, 2], ∃ p, aget (stPairRec (duePair true) f).pairs 0 = some p ∧ p.due = true ∧ p.fails = f ∧
      (p.snap.1.slots[(3 : SlotId)]).st = .ready) ∧ (stPairRec (duePair true) 0).reqs = [] ∧ (stPairRec (duePair true) 0).clusters = [] ∧
    ((stPairRec (duePair false) 0).core 0).retired < 0 + 4096 ∧ (stPairRec (duePair false) 0).gatedCount 0 < 512 ∧
    (((stPairRec (duePair false) 0).core 0).slots[(3 : SlotId)]).st = .ready ∧ (∀ n : SlotId, (((stPairRec (duePair false) 0).core 0).slots[n]).st ≠ .draining) := by
  refine ⟨fun f hf => ⟨_, rfl, rfl, rfl, ?_⟩, by decide +kernel, rfl, by decide +kernel, by decide +kernel, by decide +kernel, by decide +kernel⟩
  simp only [List.mem_cons, List.not_mem_nil, or_false] at hf
  obtain rfl | rfl | rfl := hf <;> decide +kernel
theorem test_witness_soft_errors : (((stTile id).here.slots[(0 : SlotId)]).st ≠ .free ∧ ((stTile id).here.slots[(0 : SlotId)]).st ≠ .disabled) ∧
    (((stTile id).here.slots[(0 : SlotId)]).th.s[(31 : SReg).toFin]).f = .full ∧ (((stTile id).here.slots[(0 : SlotId)]).th.k[(7 : KReg).toFin]).f = .full ∧
    (((stTile id).here.slots[(0 : SlotId)]).th.d[(15 : DReg).toFin]).f = .full ∧ ((stTile id).here.slots[(0 : SlotId)]).th.bound = some 2 ∧
    ownedBy (stTile id).here.aown[(2 : TileId).toFin] ((stTile id).here.slots[(0 : SlotId)]).th = true ∧ paMax / 8 ≤ paMax / 8 := by decide +kernel
/-- The thread of number 9 is alone on its core. -/
theorem test_witness_lost_row : let s := stSlot { Slot.free with st := .ready, th := { (bound Thread.empty) with uid := 9 } } ({ · with aown := Vector.replicate 4 0x8000000000000000 })
    let s := s.setHere { s.here with slots := (Vector.replicate 16 Slot.free).set 3 s.here.slots[(3 : SlotId)] }
    ((s.here.slots[(3 : SlotId)]).th.bound = some 2 ∧ ownedBy s.here.aown[(2 : TileId).toFin] (s.here.slots[(3 : SlotId)]).th = true ∧
      (s.here.slots[(3 : SlotId)]).th.rowFaults = []) ∧ ∀ j : SlotId, j ≠ 3 → (s.here.slots[j]).st = .free ∧ (s.here.slots[j]).th.uid ≠ 9 := by decide +kernel
/-- A piece miss with no handler, with one at PC 4, and with one that runs; `XLW` and `XRET` in the handler. -/
def aShadow : Shadow := ⟨2, 255, 3, Vector.replicate 16 Cell.zero, KCell.zero⟩
def stShadow (x : Word) : State := stTC (fun t => { (keyed t).setS 16 x with shadow := some aShadow }) ({ · with pxvec := 4 })
theorem test_witness_piece_miss : (stC ({ · with pxvec := 4 })).here.pxvec ≠ 0 ∧ st0.here.pxvec = 0 ∧ (∀ n : SlotId, ((stC ({ · with pxvec := 4 })).here.slots[n]).th.shadow = none) ∧
    GoodPC (stC ({ · with pxvec := 4 })) (stC ({ · with pxvec := 4 })).here.pxvec ∧ ((stShadow 0).here.slots[(0 : SlotId)]).st = .ready ∧
    ((stShadow 0).here.slots[(0 : SlotId)]).th.shadow.isSome = true :=
  ⟨by decide +kernel, rfl, by decide +kernel, ⟨by decide +kernel, by decide +kernel, by decide +kernel⟩, by decide +kernel, by decide +kernel⟩
theorem test_witness_shadow : Ready (stShadow 0) [kN 1, s1.need, s1.need] ∧ (stShadow 0).th.shadow = some aShadow ∧ ((stShadow 0).th.k[(1 : KReg).toFin]).tag = true ∧
    ((stShadow 0).th.k[(7 : KReg).toFin]).tag = false ∧ ((stShadow 0).th.sv 16).getLsbD 63 = false ∧ ((stShadow 0x8000000000000000).th.sv 16).getLsbD 63 = true ∧
    ((stShadow 0).setTh (leaveShadow (stShadow 0).th)).targetSub aShadow.pc = none ∧ st0.th.shadow = none :=
  ⟨ready_of rfl rfl rfl, rfl, rfl, by decide +kernel, by decide +kernel, by decide +kernel, by decide +kernel, rfl⟩
theorem test_witness_encoding_fault : st0.pair = none ∧ 31 < 32 ∧ 3 < 4 ∧ 15 < 16 := ⟨rfl, by decide⟩

/-! ## Steps and encodings -/

/-- A NOP and a HALT placed where `step` fetches: the thread issues, the bundle is the one at its PC, and it is the instruction. -/
def stStep : State := State.reset.withFetchWord 16 0x1400
def stUnits : State := State.tick exec { stStep with turn := [], fresh := stStep.fresh + 32 } 0
def stFetch : State := let v : State := { stUnits with cur := ⟨0, 0, 0, 1⟩, pair := none }
  v.setMe { v.me with last := some v.now, key := v.now }
def okOf (x : Except State (State × List Half)) : Option (State × List Half) := match x with | .ok p => some p | .error _ => none
theorem of_okOf {x : Except State (State × List Half)} (h : (okOf x).isSome = true) : x = .ok ((okOf x).get h) := by
  cases x with
  | ok p => rfl
  | error e => cases h
theorem fetch_some : (okOf stFetch.fetch).isSome = true := by decide +kernel
def stNext : State × List Half := (okOf stFetch.fetch).get fetch_some
theorem stNext_eq : stFetch.fetch = .ok stNext := of_okOf fetch_some
theorem eq_pair {x : Except State (State × List Half)} {p : State × List Half} (h : x = .ok p) : x = .ok (p.1, p.2) := h
theorem stNext_bundle : decodeBundle stNext.2 (stNext.1.th.pc / 64 * 64) (stNext.1.th.pc / 2 % 32) = .ok (.one .halt) := ok_of (by decide +kernel)
theorem test_witness_step : ∃ rest n unit u l, Issues stStep 0 rest n unit u l ∧ decodeBundle l (u.th.pc / 64 * 64) (u.th.pc / 2 % 32) = .ok (.one .halt) := by
  refine ⟨[], 0, stUnits, stNext.1, stNext.2, ⟨by decide +kernel, by decide +kernel, rfl, by decide +kernel, by decide +kernel, by decide +kernel, ?_, by decide +kernel⟩,
    stNext_bundle⟩
  have h := eq_pair stNext_eq
  rw [stFetch] at h
  exact h
theorem test_witness_encoding : (Instr.add .wrap 8 ⟨8, false⟩ ⟨10, false⟩).wf = true ∧ encode (.add .wrap 8 ⟨8, false⟩ ⟨10, false⟩) = some [0x2088, 0x4280] ∧
    (unpackHead 0x2088).p = false ∧ (unpackHead 0x2088).tl.toNat = [(0x4280 : Half)].length ∧ decodeWords 0x2088 [0x4280] = .ok (.add .wrap 8 ⟨8, false⟩ ⟨10, false⟩) :=
  ⟨rfl, rfl, rfl, rfl, rfl⟩
def goesOn (x : Host.Outcome State Fault Refusal) : Bool := match x with | .next _ => true | _ => false
theorem goesOn_next {x : Host.Outcome State Fault Refusal} (h : goesOn x = true) : ∃ t, x = .next t := by
  cases x <;> first | exact ⟨_, rfl⟩ | cases h
theorem test_witness_canonical : stStep.mem.wf = true ∧ ∃ t, step stStep = .next t := ⟨by decide +kernel, goesOn_next (by decide +kernel)⟩
theorem test_witness_only_scalars : (Instr.movc 31, [sN 31]) ∈ scalarForms 31 s1 s1 (.imm 0) 0 0 15 0 1 .wrap .ss false ∧ Ready st0 [sN 31] ∧
    (Instr.cmpi .eq 7 s1 0, [s1.need]) ∈ [(Instr.cmp .eq 7 s1 s1, [s1.need, s1.need]), (.cmpi .eq 7 s1 0, [s1.need])] ∧ Ready st0 [s1.need] :=
  ⟨by simp [scalarForms], ready_of rfl rfl rfl, by simp, ready_of rfl rfl rfl⟩

/-! ## Values from the examples of spec/ -/

/-- R241: each row is format, sign, significand, exponent, mode, `OSAT`, encoding and flags. -/
def rounds (f : Fmt) (s : Bool) (m : Nat) (e : Int) (mode : RMode) (osat : Bool) (w : Nat) (fl : Flags) : Bool :=
  roundFin f ⟨mode, osat, false⟩ s m e == ⟨w, fl⟩
theorem test_encodings_bf16_fp16 : (rounds fmtBf false 1 0 .rne true 0x3F80 0 && rounds fmtBf true 2 0 .rne true 0xC000 0 &&
    rounds fmtBf false 255 120 .rne true 0x7F7F 0 && rounds fmtBf false 1 (-126) .rne true 0x0080 0 &&
    rounds fmtBf false 1 (-133) .rne true 0x0001 0 && rounds fmtBf false 257 (-8) .rne true 0x3F80 flNX &&
    rounds fmtH false 1 0 .rne true 0x3C00 0 && rounds fmtH false 65504 0 .rne true 0x7BFF 0 &&
    rounds fmtH false 1 (-14) .rne true 0x0400 0 && rounds fmtH false 1 (-24) .rne true 0x0001 0 &&
    rounds fmtH false 65520 0 .rne true 0x7C00 (flOF ||| flNX)) = true := by decide +kernel
theorem test_encodings_fp8 : (rounds fmtE4 false 1 0 .rne true 0x38 0 && rounds fmtE4 false 1 (-6) .rne true 0x08 0 &&
    rounds fmtE4 false 1 (-9) .rne true 0x01 0 && rounds fmtE4 false 5404319552844595 (-54) .rne true 0x2A flNX &&
    rounds fmtE4 false 300 0 .rne true 0x79 flNX && rounds fmtE4 false 460 0 .rne true 0x7E flNX &&
    rounds fmtE4 false 460 0 .rup true 0x7E (flOF ||| flNX) && rounds fmtE4 true 500 0 .rne false 0xFF (flOF ||| flNX) &&
    rounds fmtE4 false 1 (-10) .rne true 0x00 (flUF ||| flNX) && rounds fmtE5 false 1 0 .rne true 0x3C 0 &&
    rounds fmtE5 false 57344 0 .rne true 0x7B 0 && rounds fmtE5 false 1 (-16) .rne true 0x01 0 &&
    rounds fmtE5 false 60000 0 .rne true 0x7B flNX && rounds fmtE5 false 100000 0 .rne true 0x7C (flOF ||| flNX)) = true := by
  decide +kernel
/-- R149: 2⁻¹⁰²² × 0.5 under UFE traps with UF and the default result; under MASK the exact tiny result raises nothing. -/
theorem test_underflow_example : (fMul fmtD ⟨.rne, false, true⟩ 0x0010000000000000 0x3FE0000000000000 = ⟨0x0008000000000000, flUF⟩) ∧
    fMul fmtD ⟨.rne, false, false⟩ 0x0010000000000000 0x3FE0000000000000 = ⟨0x0008000000000000, 0⟩ := by decide +kernel
/-- R174: PA 0x2_4681_0040 goes to slice 4. R253, R254: unit 3 under XOR-8 holds logical chunk 0 in stored chunk 3. -/
theorem test_slice_example : sliceOf 0x246810040 = 4 := by decide
theorem test_swizzle_example : swizzled 1 (3 * 128) = 3 * 128 + 3 * 16 ∧ swizzled 0 (3 * 128) = 3 * 128 := by decide
/-- R125, R126, R131 at their ends: an amount of 63, signed and unsigned order of −1 and 1, a field of all 64 bits. -/
def stX (a b : Word) : State := (st0.setTh (st0.th.setS 4 a)).setTh ((st0.th.setS 4 a).setS 5 b)
def val3 (i : Instr) (s : State) : Option Word := match exec i s with | .next t => some (t.th.sv 3) | _ => none
theorem test_sar_63 : val3 (.sar 3 ⟨4, false⟩ (.imm 63)) (stX 0x8000000000000000 0) = some 0xFFFFFFFFFFFFFFFF := by decide +kernel
theorem test_max_signs : val3 (.max false 3 ⟨4, false⟩ ⟨5, false⟩) (stX (-1) 1) = some 1 ∧
    val3 (.max true 3 ⟨4, false⟩ ⟨5, false⟩) (stX (-1) 1) = some (-1) := by decide +kernel
theorem test_div_corner : val3 (.div false 3 ⟨4, false⟩ ⟨5, false⟩) (stX 0x8000000000000000 (-1)) = some 0x8000000000000000 ∧
    val3 (.rem false 3 ⟨4, false⟩ ⟨5, false⟩) (stX 0x8000000000000000 (-1)) = some 0 := by decide +kernel
theorem test_div_zero : val3 (.div true 3 ⟨4, false⟩ ⟨5, false⟩) (stX 7 0) = some 0xFFFFFFFFFFFFFFFF ∧
    val3 (.rem true 3 ⟨4, false⟩ ⟨5, false⟩) (stX 7 0) = some 7 := by decide +kernel
/-- R259: group 11 of tensor 7 has its scale at byte 1,046 and its zero point in bits [7:4] of byte 1,157; code 13 is 1.5. -/
def tensor7 : Desc := ⟨0, #v[0x6D00000000000400, 0, 0, 0x0000002000000040, 0x0000000100000001, 0x0000004000000001, 0, 0]⟩
theorem test_group_example : tensor7.scaleAt 11 = 1046 ∧ tensor7.zeroBit 11 = 8 * 1157 + 4 ∧ tensor7.groups = 64 ∧
    vdqLane fmtS 0x3400 13 7 = ⟨0x3FC00000, 0⟩ := by decide +kernel
/-- R287: with K = 0 and accumulate the lanes stay, a NaN with its payload among them; with overwrite they become +0. -/
def flat (n : Nat) : Plane := ⟨.loaded, 0, n, 0, some tensor7, false, [], [], []⟩
theorem test_mma_k0 : outRow .bf16 false (flat 2) tensor7 tensor7 .rne 0 0 0x7F800001FFC00123#1024 = (0x7F800001FFC00123, 0) ∧
    outRow .bf16 true (flat 2) tensor7 tensor7 .rne 0 0 0x57F800001FFC00123#1024 = (0x50000000000000000, 0) := by decide +kernel
/-- R265: +∞ with −∞ raises NV, beside a quiet NaN as well. -/
theorem test_sum_invalid : fusedSum [⟨.inf false, 0⟩, ⟨.inf true, 0⟩, ⟨.nan false 0 true, 0⟩] = ⟨0x7FC00000, flNV⟩ := by decide +kernel
/-! ## Registers put together at a read, lists of pages, writes at every level -/

/-- A supervisor's core in partition 0, and one outside every partition; the queues of its die and of its suspended threads at rest. -/
def stIn (lv : Level) (f : State → State) : State :=
  let s := stT ({ · with level := lv })
  f (s.setPart 0 { s.part 0 with base := 0, len := 16, places := [0], ranking := [0] })
theorem test_witness_built_registers : Ready (stIn .sup id) [sN 3] ∧ (stIn .sup id).th.level ≠ .user ∧
    (stIn .sup id).partOf (stIn .sup id).cur.core = some 0 ∧ (let s := stIn .sup fun s => s.setPart 0 { s.part 0 with base := 16 }
     Ready s [sN 3] ∧ s.th.level ≠ .user ∧ s.partOf s.cur.core = none ∧ s.part 64 = Partition.reset) ∧
    (0x112, lvldataOf (stIn .sup id)) ∈ builtRegs (stIn .sup id) 0 ∧
    (let x := (stIn .sup id).die (dieOf (stIn .sup id).cur.core)
     x.fqstat.toNat % 2 ^ 9 = 0 ∧ x.pageq.length ≤ 256) ∧
    (stIn .sup id).here.suspb.toNat % 2 ^ 19 = 0 ∧ (stIn .sup id).here.susp.length ≤ 128 ∧
    csrRead (stIn .sup id).view (stIn .sup id) 0x140 ≠ none ∧ BitVec.ofNat 12 (0x140 + (63 : TrackId).toNat) = 0x17F :=
  ⟨ready_of rfl rfl rfl, by decide +kernel, by decide +kernel, ⟨ready_of rfl rfl rfl, by decide +kernel, by decide +kernel, by decide +kernel⟩, by simp [builtRegs], by decide +kernel,
    by decide +kernel, by decide +kernel, by decide +kernel, by decide⟩
/-- Numbers that a user thread, a supervisor and the monitor reach; FQSTAT with bit 63 set and clear. -/
theorem test_witness_writes_by_level : Full st0 [sN 3] ∧ NoLoop st0 st0.th ∧ st0.th.level = .user ∧
    (0x013, { st0.here with rlate := (0 : Word).setWidth 32 }) ∈ coreWrites st0.here 0 ∧ ¬ 0x100 ≤ (0x013 : BitVec 12).toNat ∧
    (0x001 : BitVec 12) ∈ readOnly ∧ ¬ 0x100 ≤ (0x001 : BitVec 12).toNat ∧ Full (stIn .sup id) [sN 3] ∧
    NoLoop (stIn .sup id) (stIn .sup id).th ∧ (0x10D : BitVec 12) ∈ readOnly ∧ ¬ 0x200 ≤ (0x10D : BitVec 12).toNat ∧
    (0x109, { st0.here with qweight := mix 0 0 31 0 }) ∈ coreWrites st0.here 0 ∧ ¬ 0x200 ≤ (0x109 : BitVec 12).toNat ∧
    (stT (·.setS 3 0x8000000000000000)).th.sv 3 = 0x8000000000000000 ∧ (0x8000000000000000 : Word).getLsbD 63 = true ∧
    ((stIn .sup id).th.sv 3).getLsbD 63 = false :=
  ⟨full_of rfl, rfl, rfl, by simp [coreWrites], by decide, by decide, by decide, full_of rfl, rfl, by decide, by decide, by simp [coreWrites],
    by decide, rfl, by decide, by decide +kernel⟩
/-- `TRAP` from a user thread with a supervisor's vector, from the monitor, and inside the monitor's handler; and in a pair. -/
theorem test_witness_trap_instruction : (let i : TrapInfo := ⟨0x16, (7 : Half).setWidth 64, BitVec.ofNat 64 (stTrap id).nextPC, 0⟩
      ¬ PastSupervisor (stTrap id).th i ∧ VectorOk (stTrap id) .sup i) ∧
    (let s := stTrap ({ · with level := .mon })
     let i : TrapInfo := ⟨0x16, (7 : Half).setWidth 64, BitVec.ofNat 64 s.nextPC, 0⟩
     PastSupervisor s.th i ∧ s.th.mcause.getLsbD 61 = false ∧ VectorOk s .mon i ∧ s.here.mvec.getLsbD 0 = false) ∧
    (let s := stTrap ({ · with level := .mon, mcause := 0x2000000000000000 })
     PastSupervisor s.th ⟨0x16, 0, 0, 0⟩ ∧ s.th.mcause.getLsbD 61 = true) ∧ Full (stTrap id) (need2 3 s1 s1) := by
  refine ⟨⟨?_, by unfold VectorOk; decide +kernel⟩, ⟨.inl (by decide +kernel), by decide +kernel, by unfold VectorOk; decide +kernel, by decide +kernel⟩,
    ⟨.inl (by decide +kernel), by decide +kernel⟩, full_of rfl⟩
  rintro (h | h | h)
  · exact absurd h (by decide +kernel)
  · exact absurd h (by decide +kernel)
  · exact absurd h.1 (by decide)
/-- Five threads over two places, filled and spread: place 1 has none, and has two. -/
def fiveThreads (spread : Bool) : Launch := { (default : Launch) with places := 2, n := 5, spread := spread }
theorem test_witness_spread : (fiveThreads false).countAt 0 = 5 ∧ (fiveThreads false).countAt 1 = 0 ∧ (fiveThreads true).countAt 1 = 2 ∧
    (fiveThreads true).nthIndex 1 1 = 3 ∧ (fiveThreads false).nthIndex 0 4 = 4 := by decide +kernel

/-! ## Numbers of every kind in every format -/

/-- One and two in each format; a signalling and a quiet NaN, both infinities, an E4M3 number; integers of each width. -/
theorem test_witness_numbers : (∀ f ∈ fmtE4 :: ieee, ∃ m e, f.decode ((2 ^ (f.eb - 1) - 1) * 2 ^ (f.p - 1)) = .fin false m e ∧ m ≠ 0) ∧
    (∀ f ∈ ieee, (f.decode f.infBits = .inf false ∧ f.decode (f.signBit true + f.infBits) = .inf true) ∧
      (f.decode (f.infBits + 1)).isSNaN = true ∧ (f.decode f.defNaN).isNaN = true ∧ (f.decode f.defNaN).isSNaN = false ∧
      f.infBits < 2 ^ f.width ∧ f.infBits + 1 < 2 ^ f.width) := by
  refine ⟨fun f hf => ?_, by decide +kernel⟩
  simp only [ieee, List.mem_cons, List.not_mem_nil, or_false] at hf
  obtain rfl | rfl | rfl | rfl | rfl | rfl := hf <;> exact ⟨_, _, rfl, by decide +kernel⟩
theorem test_witness_rounded_sums : sumRounded fmtS ⟨.rne, false, false⟩ false 3 0 true 1 1 = ⟨0x3F800000, 0⟩ ∧
    sumRounded fmtS ⟨.rdn, false, false⟩ false 1 1 true 2 0 = ⟨0x80000000, 0⟩ ∧ sumRounded fmtS ⟨.rdn, false, false⟩ false 0 1 false 0 0 = ⟨0, 0⟩ := by
  decide +kernel
theorem test_witness_orders : ValLt (fmtS.decode 0xBF800000) (fmtS.decode 0x3F800000) ∧ ValEq (fmtS.decode 0x80000000) (fmtS.decode 0) ∧
    (fmtS.decode 0x80000000).sign = true ∧ (fmtS.decode 0).sign = false ∧ ¬ ValLt (fmtS.decode 0) (fmtS.decode 0xFF800000) ∧
    ¬ ValEq (fmtS.decode 0x7FC00000) (fmtS.decode 0x7FC00000) ∧ (fmtS.decode 0x7F800001).isSNaN = true := by
  refine ⟨?_, ?_, by decide +kernel, by decide +kernel, ?_, ?_, by decide +kernel⟩ <;>
    first | (show _ < _; decide +kernel) | (show signed _ _ = signed _ _; decide +kernel) | (intro h; exact absurd h (by decide +kernel)) | (intro h; cases h)
/-- 5/2 in units of 2^-1: to the nearest even, away, up and down; and a conversion that saturates. -/
theorem test_witness_integral : RoundedToInt .rne false 5 (-1) 2 ∧ RoundedToInt .rna false 5 (-1) 3 ∧ RoundedToInt .rup false 5 (-1) 3 ∧
    RoundedToInt .rtz true 5 (-1) 2 ∧ ((127 : Nat) : Int) < signed false 128 ∧ signed true 129 < -(128 : Int) := by
  refine ⟨⟨fun h => ?_, fun h => ?_, fun _ => ?_⟩, ⟨fun h => ?_, fun h => ?_, fun _ => ?_⟩, ⟨fun h => ?_, fun h => ?_, fun h => ?_⟩,
    ⟨fun h => ?_, fun h => ?_, fun h => ?_⟩, by decide, by decide⟩ <;> first | (unfold LeDy; decide) | (simp [Down, Up, Near] at h)
/-- Overflow in each direction: 2^200 in binary32 down, up and to the nearest; and the exact magnitude 1. -/
theorem test_witness_overflow : (∀ m ∈ [RMode.rne, .rna, .rup, .rdn, .rtz], (roundFin fmtS ⟨m, false, false⟩ false 1 200).fl &&& flOF ≠ 0 ∧
      (roundFin fmtS ⟨m, false, false⟩ false 1 0).fl = 0) ∧ Down .rdn false ∧ Up .rup false ∧ Near .rne :=
  ⟨by decide +kernel, .inr (.inl ⟨rfl, rfl⟩), .inl ⟨rfl, rfl⟩, .inl rfl⟩

/-! ## Rows' records, page faults, fences, adds that meet -/

/-- An `LDV` with seven records that its thread holds and one load to a row outstanding. -/
def stRecords (n : Nat) : State :=
  let s := stTile ({ · with rowFaults := List.replicate n ⟨2, 5, ⟨0, 2, 0x14, 0, 0, 0⟩⟩ })
  { s with reqs := [{ s.newReq s.view ⟨true, 0, 0, 2, 0⟩ 128 .ldv .tok true with row := some (2, 6) }] }
theorem test_witness_row_records : rowRecords (stRecords 6) < 8 ∧ 8 ≤ rowRecords (stRecords 7) ∧ relaxedOut (stRecords 7) < 8 ∧
    (stRecords 7).heldRow 0 2 31 = false ∧ Ready (stRecords 7) (vN 31 :: [] ++ [kN 2]) ∧ InDevice (stRecords 7) 2 0xFFF80 128 128 [.read] 0xFFF80 ∧
    Form (stRecords 7) (.ldv true 31) (.ldvIndexed true 31) (.ldv true 31 (.base 2 0x3F80)) 2 0x3F80 [] :=
  ⟨by decide +kernel, by decide +kernel, by decide +kernel, by decide +kernel, ready_of rfl (by decide +kernel) rfl,
    inDevice_of rfl rfl (by decide +kernel) (by decide +kernel) (by decide +kernel) (by decide +kernel) (by decide +kernel) (by decide),
    .inl ⟨0x3F80, rfl, by decide, rfl⟩⟩
/-- The thread of the access at an absent page has parked; the page was touched before, or never; the answers that Waliasal gives. -/
def stAbsent (w : WaitOn) (q : Req → Req) (f : Die → Die) (k : Tenant → Tenant) : State :=
  let s := (stPage 0 q).setSlot 0 0 { (stPage 0 q).me with st := .parked, wait := w }
  let s := s.setDie 0 (f { s.die 0 with active := [0] })
  { s with tenants := [(0, k (s.tenant 0))] }
def walkReq : Req := theReq (stPage 0 ({ · with stage := .walk }))
theorem test_witness_page_waits : (let s := stAbsent .access ({ · with stage := .walk }) id id;
      Lone s walkReq ∧ Waits s walkReq ∧ walkReq.stage = .walk ∧ LeafAt s 0 64 leafAddr ∧ (tableWord s leafAddr).getLsbD 0 = false ∧
      Serving s ∧ (s.die 0).pageq = [] ∧ 0 ∈ (s.die 0).active ∧ ((none, 0) : Option Nat × Nat) ∉ (s.tenant 0).touched) ∧
    (let s := stAbsent .access id id (fun k => { k with touched := [(none, 0)] });
      ((none, 0) : Option Nat × Nat) ∈ (s.tenant 0).touched) ∧
    (let s := stAbsent .access id (fun d => { d with pageq := [⟨0, none, 64, false, false, [.thread 0 0 0]⟩] }) id;
      ({ s with reqs := [] } : State).reqs = [] ∧ (s.die 0).pageq = [⟨0, none, 64, false, false, [.thread 0 0 0]⟩]) ∧
    (stAbsent .woken id id id |>.slotAt 0 0).wait = .woken ∧ (stAbsent .woken id id id).lvrctl.getLsbD 63 = false := by
  refine ⟨⟨⟨rfl, rfl, rfl, by decide +kernel, rfl, by decide +kernel⟩, by unfold Waits; decide +kernel, by decide +kernel, ?_, by decide +kernel,
    by unfold Serving; decide +kernel, by decide +kernel, by decide +kernel, by decide +kernel⟩, by decide +kernel, ⟨rfl, by decide +kernel⟩,
    by decide +kernel, by decide +kernel⟩
  exact ⟨0x102000, 0x104000, by unfold Names; decide +kernel, by unfold Names; decide +kernel, by decide⟩
/-- A fence that waits at package scope with two slices to probe; one whose probe is out; one that is through. -/
def stFence (m : Word) (l : List Probe) : State :=
  let s := stT ({ · with tmask := m })
  { s.setSlot 0 0 { s.me with st := .parked, wait := .fence .package [] } with probes := l }
theorem test_witness_fence_probes : (let s := stFence 5 []
      (s.slotAt 0 0).st = .parked ∧ (s.slotAt 0 0).wait = .fence .package [] ∧ (s.slotAt 0 0).held = none ∧ (s.slotAt 0 0).seen = none ∧
      (s.slotAt 0 0).th.dstore = none ∧ s.reqs = [] ∧ (s.core 0).arrayq = [] ∧ s.fabricStores = [] ∧ s.lvrctl.getLsbD 63 = false ∧
      (s.slotAt 0 0).th.tmask ≠ 0 ∧ Scope.package ≠ .core) ∧
    (∃ p ∈ (stFence 0 [⟨0, 0, 0, 0, 0, false, 0⟩]).probes, p.uid = ((stFence 0 []).slotAt 0 0).th.uid) ∧
    (loopStep ((stFence 0 []).slotAt 0 0).th ((stFence 0 []).slotAt 0 0).width).2.2 = none := by decide +kernel
/-- A posted store on its way to a probe's slice; two adds of one port group at their home. -/
theorem test_witness_store_before_probe : (let y : Req := { atHomeReq (.st 8 1) .home 7 0 with relaxed := true, inj := 0 }
      y.dev = true ∧ y.stage = .home ∧ y.gate = false ∧ y.far = none ∧ y.op.atHome = false ∧ y.relaxed = true ∧ y.slice < 64 ∧ y.inj < 1) ∧
    (let s := stHome [atHomeReq (.amo .add 8 1 0) .home 7 0, atHomeReq (.amo .add 8 2 0) .home 8 1] id
     (clusterOf (atHomeReq (.amo .add 8 1 0) .home 7 0).core).toNat % 8 = (clusterOf (atHomeReq (.amo .add 8 2 0) .home 8 1).core).toNat % 8 ∧
      (atHomeReq (.amo .add 8 1 0) .home 7 0).inj ≤ (atHomeReq (.amo .add 8 2 0) .home 8 1).inj ∧
      ∀ y ∈ s.reqs, (s.slotAt y.core y.slot).held = none ∧ ∀ e ∈ (s.core y.core).arrayq, e.uid = y.uid → e.op ≠ .mswap) := by decide +kernel
theorem test_witness_paths : pathTo 5 1234 0 = 5 ∧ pathTo 5 1234 11 = 1234 ∧ pathTo 2047 0 11 = 0 := by decide +kernel

/-! ## Messages passed by, threads that may not move, slots of equal rank -/

/-- `RECV` finds an entry of another tenant before the one it takes. -/
theorem test_witness_recv_skips : (let e : InEntry := { anEntry with tenant := 1 }
      (stMsg .recorded ⟨[e, anEntry], [], []⟩).here.inbox.entries = [e] ++ anEntry :: [] ∧ (∀ y ∈ [e], ¬ Takes st0.th y) ∧ Takes st0.th anEntry ∧
      anEntry.bad = [] ∧ anEntry.task = none ∧ (anEntry.words.headD 0).toNat / 2 ^ 56 ≠ 1 ∧ (24 : SReg).toNat ≤ 24 ∧ (24 : SReg) + 0 ≠ 0) ∧
    (stMsg .recorded ⟨[{ anEntry with tenant := 1 }, anEntry], [], []⟩).here.inbox.refused = [] := by unfold Takes; decide +kernel
/-- A thread that may migrate, and those that each condition of R228 keeps: a binding, a claim, a `d` register, a handler, a mask. -/
theorem test_witness_movable : (stTwo id id).mayMigrate 0 Thread.empty = true ∧
    (∀ t ∈ [{ Thread.empty with tileb := 0x80 }, { Thread.empty with hclaim := 1 }, { Thread.empty with fpMask := true },
      { Thread.empty with ecause := 0x2000000000000000 }, { Thread.empty with dstore := some ⟨0, 2, 5, 0, 0, 0⟩ },
      { Thread.empty with d := Thread.empty.d.set 3 { DCell.zero with f := .empty 1 } }], (stTwo id id).mayMigrate 0 t = false) ∧
    (let s := (stResv .granted [.reserved 0 0 0]).setSlot 0 0 { (stResv .granted []).slotAt 0 0 with th := { Thread.empty with hclaim := 1 } }
     s.mayMigrate 0 (s.slotAt 0 0).th = false ∧ (s.slotAt 0 0).th.uid = (aResv .granted).uid ∧ (s.slotAt 0 0).st = .parked) ∧
    (stDrain (.migrate 1 1)).mayMigrate 0 ((stDrain (.migrate 1 1)).slotAt 0 0).th = true := by decide +kernel
/-- No packet of an earlier injection is on the way of a request, a packet, a release. -/
theorem test_witness_ways : (stResv .flight []).onTime (aResv .flight).wires = true ∧ (stResv .granted []).onTime (aResv .granted).wires = true ∧
    ({ stResv .flight [.reserved 0 0 0] with packets := [aPacket], resvs := [] } : State).clear aPacket.wire = true ∧
    ({ st0 with releases := [⟨4, 0, 0, 15⟩] } : State).clear (⟨4, 0, 0, 15⟩ : Release).wire = true := by decide +kernel
/-- Slots 2 and 5 are READY with equal keys, slot 7 has issued 7 cycles ago; and no slot may issue. -/
def stKeys : State :=
  let on (k : Nat) (l : Option Nat) : Slot := { Slot.free with st := .ready, key := k, last := l }
  st0.setHere { st0.here with cycle := 100, slots := (((Vector.replicate 16 Slot.free).set 2 (on 3 none)).set 5 (on 3 (some 92))).set 7 (on 1 (some 93)) }
theorem test_witness_least_key : IssueCandidate stKeys 0 2 ∧ IssueCandidate stKeys 0 5 ∧ ¬ IssueCandidate stKeys 0 7 ∧ stKeys.issueSlot 0 = some 2 ∧
    (stSlot Slot.free id).issueSlot 0 = none := by
  refine ⟨⟨by decide +kernel, fun l h => ?_⟩, ⟨by decide +kernel, fun l h => ?_⟩, fun h => ?_, by decide +kernel, by decide +kernel⟩
  · exact absurd h (by rw [show (stKeys.slotAt 0 2).last = none by decide +kernel]; intro h; cases h)
  · rw [show (stKeys.slotAt 0 5).last = some 92 by decide +kernel] at h
    cases h; decide +kernel
  · exact absurd (h.2 93 (by decide +kernel)) (by decide +kernel)
/-- Records 0 and 2 are in use; device memory is in its form; and the thread parked first on `RECV` is not the one that wakes. -/
theorem test_witness_records : (let s := stSlot { Slot.free with st := .draining, drain := .suspend } ({ · with susp := [⟨1, Thread.empty, 0⟩, ⟨2, Thread.empty, 2⟩] })
      s.mem.wf = true ∧ (s.core 0).susp.length < 128 ∧ s.drained 0 3 = true) ∧
    (let s := stPark .recv ({ · with inbox := ⟨[anEntry], [], []⟩ })
     ∀ m : SlotId, (s.slotAt 0 m).wait = .recv → ¬ (s.slotAt 0 m).parkSeq < (s.slotAt 0 3).parkSeq) := by decide +kernel

/-! ## Waliasal's roles, interfaces, the fabric -/

/-- Reports are owed while core 0 has failed, and while core 2 works off what it left: with a command open, with a doorbell posted, with
neither. -/
def stTaking (cmds : List Cmd) (posted : List (BitVec 4)) : State :=
  stBoot ({ · with
    roles := (Vector.replicate 2 Role.active).set 0 .standby, taking := some 40, owed := [.job ⟨0, .job, 3⟩, .notice 2], cmds := cmds
    ctxs := [(5, { Ctx.reset with posted := posted })] })
theorem test_witness_owed : ¬ Owes (stBoot id) ∧ Owes (stBoot ({ · with roles := Vector.replicate 2 .failed })) ∧ Owes (stTaking [] []) ∧
    (stTaking [] []).roles[(0 : Fin 2)] = .standby ∧ (stTaking [] []).taking = some 40 ∧
    (∃ x ∈ (stTaking [lvlCmd 3 0] []).cmds, x.seq < 40 ∧ x.held = false) ∧ (∃ p ∈ (stTaking [] [3]).ctxs, p.2.posted ≠ [] ∧ p.1.toNat < (6 : BitVec 12).toNat) ∧
    (¬ ∃ x ∈ (stTaking [] []).cmds, x.seq < 40 ∧ x.held = false) ∧ (∀ p ∈ (stTaking [] []).ctxs, p.2.posted = []) ∧
    (stTaking [] []).owed.length < 2047 ∧ (stTaking [] []).owed[1]? = some (.notice 2) := by unfold Owes; decide +kernel
/-- Interface 5 alone is there, unlocked, locked, running, in error, with the granules of two tenants; a discard of a key may be under way. -/
def stTdi (x : Tdi) : State := stBoot ({ · with ctxs := [(5, { Ctx.reset with tenant := 3, tdi := x })], hdm := [(7, 3)] })
theorem stTdi_ctx (x : Tdi) (d : BitVec 12) : (stTdi x).ctx d = if d = 5 then { Ctx.reset with tenant := 3, tdi := x } else Ctx.reset := by
  show agetD [((5 : BitVec 12), _)] d Ctx.reset = _
  unfold agetD aget
  split <;> rename_i h
  · subst h; simp
  · rw [if_neg (show ¬ d = 5 from fun e => h e.symm)]; rfl
theorem test_witness_interfaces : (∀ x ∈ [Tdi.unlocked, .locked, .run, .error], (stTdi x).boot = 1 ∧ (stTdi x).off = false ∧
      ((stTdi x).ctxs.map fun p => p.1).Nodup ∧ ((stTdi x).ctx 5).tdi = x ∧ (stTdi x).krcmd.getLsbD 63 = false) ∧
    (∀ x ∈ [Tdi.locked, .run], ∃ d, ((stTdi x).ctx d).tdi = .locked ∨ ((stTdi x).ctx d).tdi = .run) ∧
    (∀ d, ¬ (((stTdi .unlocked).ctx d).tdi = .locked ∨ ((stTdi .unlocked).ctx d).tdi = .run)) ∧
    ((stTdi .run).ctx 5).tenant = agetD (stTdi .run).hdm 7 0 ∧ ((stTdi .run).ctx 5).tenant = (0x203 : Word).setWidth 9 ∧
    ((stTdi .run).ctx 5).tenant ≠ agetD (stTdi .run).hdm 8 0 ∧ FrozenItem 0x100 ∧ FrozenItem 0x8FF ∧ ¬ FrozenItem 7 ∧ ¬ FrozenItem 0x900 := by
  refine ⟨by decide +kernel, ?_, fun d => ?_, by decide +kernel, by decide +kernel, by decide +kernel, by unfold FrozenItem; decide, by unfold FrozenItem; decide,
    by unfold FrozenItem; decide, by unfold FrozenItem; decide⟩
  · intro x hx
    simp only [List.mem_cons, List.not_mem_nil, or_false] at hx
    obtain rfl | rfl := hx
    · exact ⟨5, by decide +kernel⟩
    · exact ⟨5, by decide +kernel⟩
  · rw [stTdi_ctx]
    split <;> decide
theorem test_witness_dark : ¬ Booted st0 ∧ ¬ Booted (stBoot ({ · with boot := 0x81 })) ∧ ¬ Booted (stBoot ({ · with off := true })) := by
  unfold Booted; decide +kernel
/-- An access that waits on the fabric, with room for one more try; one that another part asked for and that is answered here. -/
def farReq : Req := { atHomeReq (.ld 4 true) .reply 7 0 with far := some (3, 11, 12), reply := some (.words [5] false), dst := .tok }
theorem test_witness_fabric_accesses : (let q := atHomeReq (.ld 4 true) .fabric 7 0
      let s := stBoot ({ · with reqs := [q] })
      s.reqs = [q] ∧ q.stage = .fabric ∧ q.relaxed = false ∧ q.op = .ld 4 true ∧ (∀ e ∈ (s.core q.core).arrayq, e.uid = q.uid → e.op ≠ .mswap) ∧
      q.retry < 255) ∧
    (let s := stBoot ({ · with reqs := [farReq] })
     s.reqs = [farReq] ∧ farReq.far = some (3, 11, 12) ∧ farReq.stage = .reply ∧ farReq.reply = some (.words [5] false) ∧ farReq.upd = none ∧
      farReq.dst = .tok ∧ farReq.gate = false) ∧
    (let x : Group := ⟨[4, 5], 0, []⟩
     1 < x.members.length ∧ 1 ≠ x.rank ∧ 0 = x.rank ∧ x.members.length ≤ 2) ∧
    (∀ z ∈ (stHome [atHomeReq (.lds .take) .waiting 7 0, atHomeReq (.sts .fill 9) .home 8 1] id).reqs,
      ∀ e ∈ ((stHome [] id).core z.core).arrayq, e.uid = z.uid → e.op ≠ .mswap) := by decide +kernel

/-! ## Pairs that are decoupled, errors in storage, a handler that runs -/

/-- Pair 1 is coupled, at a checkpoint, with nothing held back; the interval is young. -/
def coupled : State := { stPairs 1 [] with pairs := [(1, ⟨4, 0, 0, false, (Core.reset, [])⟩)] }
theorem test_witness_decouple : Quiet { coupled with pairs := [] } ∧ Ready coupled [sN 31, (⟨4, false⟩ : Src).need] ∧ coupled.th.level ≠ .user ∧
    val coupled ⟨4, false⟩ = (1 : BitVec 12).setWidth 64 ∧ MayCouple coupled 1 ∧ coupled.pairs = [(1, ⟨4, 0, 0, false, (Core.reset, [])⟩)] ∧
    (coupled.core (BitVec.ofNat 13 (2 * (1 : BitVec 12).toNat))).retired = 0 ∧ coupled.gatedCount (BitVec.ofNat 13 (2 * (1 : BitVec 12).toNat)) = 0 ∧
    (stPairRec (duePair false) 0).gatedCount 0 + (stPairRec (duePair false) 0).loggedCount 0 < 512 := by
  refine ⟨⟨rfl, rfl, rfl, (by decide : (0 : Word).getLsbD 63 = false), rfl, fun _ h => nomatch h⟩, ready_of rfl rfl rfl, by decide +kernel, by decide +kernel,
    ⟨by decide +kernel, ⟨0, by decide +kernel⟩, ?_, by decide +kernel, by decide +kernel⟩, rfl, by decide +kernel, by decide +kernel, by decide +kernel⟩
  decide +kernel
/-- A register of a caller's window, a word of an inbox entry, a row of a tile to which no thread is bound. -/
theorem test_witness_storage_errors : (let s := stSlot { Slot.free with st := .ready, th := { Thread.empty with callers := [Vector.replicate 16 Cell.zero] } } id
      ((s.core 0).slots[(3 : SlotId)]).th.callers[(0 : Fin 8).val]? = some (Vector.replicate 16 Cell.zero) ∧
      ((Vector.replicate 16 Cell.zero : Vector Cell 16)[(15 : Fin 16)]).f = .full ∧ ((s.core 0).slots[(3 : SlotId)]).st ≠ .free) ∧
    ((stMsg .flight ⟨[anEntry], [], []⟩).core 0).inbox.entries[0]? = some anEntry ∧
    (∀ n : SlotId, ((st0.core 0).slots[n]).th.bound ≠ some 2) := by decide +kernel
/-- The handler of another piece runs in a slot of the core. -/
theorem test_witness_handler_runs : ∃ n : SlotId, ((stTC (fun t => { t with shadow := some aShadow }) ({ · with pxvec := 4 })).here.slots[n]).st = .ready ∧
    ((stTC (fun t => { t with shadow := some aShadow }) ({ · with pxvec := 4 })).here.slots[n]).th.shadow.isSome = true := ⟨0, by decide +kernel⟩

end Sys2Proof.Tests
end

section
/-! PROOF. What a bundle of one head answers when it is ready: the one-source, two-source and shift forms of the scalar
instructions come to their end with the value that the form computes (R29, R31, R95, R96). -/
namespace Sys2Proof.CoreInstructions
open Sys2Proof Sys2Proof.Machine Sys2Proof.Claims

variable {s : State} {d : SReg} {a b : Src}

theorem plain_ready {ns : List Need} (h : Ready s ns) (body : View → State → Head) :
    plain ns body s = .next (s.settle (body s.view s)) :=
  plain_full ns body s h.single h.full

/-- A ready bundle whose head changes the thread alone, and neither the PC nor a loop register of it, completes. -/
theorem plain_setTh {ns : List Need} (h : Ready s ns) (f : View → State → Thread) (hp : (f s.view s).pc = s.th.pc)
    (h0 : (f s.view s).lc0 = s.th.lc0) (h1 : (f s.view s).lc1 = s.th.lc1) (e0 : (f s.view s).le0 = s.th.le0)
    (e1 : (f s.view s).le1 = s.th.le1) :
    plain ns (fun v s => .ok (s.setTh (f v s))) s = .next (done (s.setTh (f s.view s))) := by
  rw [plain_ready h, State.settle_ok s (s.setTh (f s.view s))]
  · rfl
  · rw [State.th_setTh, State.loopStep_congr s.th _ _ hp h0 h1 e0 e1]
    exact h.noLoop

/-- R95: a scalar result of a ready bundle is written, and the bundle is done. -/
theorem plain_putS {ns : List Need} (h : Ready s ns) (d : SReg) (f : View → State → Word) :
    plain ns (fun v s => putS d (f v s) s) s = .next (wrote s d (f s.view s)) :=
  plain_setTh h (fun v s => s.th.setS d (f v s)) (by simp) (by simp) (by simp) (by simp) (by simp)

/-- R127: likewise a condition. -/
theorem plain_putC {ns : List Need} (h : Ready s ns) (c : BitVec 3) (f : View → Bool) :
    plain ns (fun v s => putC c (f v) s) s = .next (done (s.setTh (s.th.setC c (f s.view)))) :=
  plain_setTh h (fun v s => s.th.setC c (f v)) rfl rfl rfl rfl rfl

theorem alu2_ready (h : Ready s (need2 d a b)) (f : Word → Word → Word) :
    alu2 f d a b s = .next (wrote s d (f (val s a) (val s b))) :=
  plain_putS h d fun v _ => f (v.s a) (v.s b)

theorem alu1_ready (h : Ready s (need1 d a)) (f : Word → Word) : alu1 f d a s = .next (wrote s d (f (val s a))) :=
  plain_putS h d fun v _ => f (v.s a)

theorem amount_view (s : State) (m : ShAmt) : m.amount s.view = amount s m := by
  cases m with
  | reg r => exact congrArg (· % 64) (Nat.div_one _)
  | imm n => rfl

theorem shift_ready {m : ShAmt} (h : Ready s ([sN d, a.need] ++ m.needs)) (f : Word → Nat → Word) :
    shift f d a m s = .next (wrote s d (f (val s a) (amount s m))) := by
  rw [← amount_view]
  exact plain_putS h d fun v _ => f (v.s a) (m.amount v)

end Sys2Proof.CoreInstructions
end

section
/-! PROOF. The decoder over heads and tails written out by their fields (R33, R38, R40): what each shared row of the table
answers, and the checks that come first. -/
namespace Sys2Proof.CoreInstructions
open Sys2Proof Sys2Proof.Machine Sys2Proof.Claims

section
variable {α β : Type} (n t : Nat)

@[simp] theorem need_some_bind (x : α) (k : α → Except EncFault β) : (need n t (some x) >>= k) = k x := rfl
@[simp] theorem need_none_bind (k : α → Except EncFault β) : (need n t none >>= k) = .error ⟨n, t⟩ := rfl
@[simp] theorem req_true_bind (k : Unit → Except EncFault β) : (req n t true >>= k) = k () := rfl
@[simp] theorem req_false_bind (k : Unit → Except EncFault β) : (req n t false >>= k) = .error ⟨n, t⟩ := rfl
@[simp] theorem pure_eq_ok (x : α) : (pure x : Except EncFault α) = .ok x := rfl

end

@[simp] theorem unpack_tailsA (a : Src) (f : BitVec 4) (t2 t3 : Half) :
    unpackTR (tailsA a f t2 t3).t1 = ⟨a.reg, 0#5, a.wait, false, f⟩ := unpack_packTR _
@[simp] theorem unpack_tailsAB (a b : Src) (f : BitVec 4) (t2 t3 : Half) :
    unpackTR (tailsAB a b f t2 t3).t1 = ⟨a.reg, b.reg, a.wait, b.wait, f⟩ := unpack_packTR _
@[simp] theorem tailsA_t2 (a : Src) (f : BitVec 4) (t2 t3 : Half) : (tailsA a f t2 t3).t2 = t2 := rfl
@[simp] theorem tailsAB_t2 (a b : Src) (f : BitVec 4) (t2 t3 : Half) : (tailsAB a b f t2 t3).t2 = t2 := rfl
/-- R38: without B the tail's B and WB are zero. -/
@[simp] theorem noB_of_zero (a : BitVec 5) (wa : Bool) (f : BitVec 4) : TR.noB ⟨a, 0#5, wa, false, f⟩ = true := rfl
@[simp] theorem srcA_mk (a : Src) (b : BitVec 5) (wb : Bool) (f : BitVec 4) : TR.srcA ⟨a.reg, b, a.wait, wb, f⟩ = a := rfl
@[simp] theorem srcB_mk (a : BitVec 5) (wa : Bool) (b : Src) (f : BitVec 4) : TR.srcB ⟨a, b.reg, wa, b.wait, f⟩ = b := rfl

@[simp] theorem sOfD_setWidth (d : SReg) : sOfD (d.setWidth 6) = some d := by
  have hd : (d.setWidth 6).toNat < 32 := by
    rw [BitVec.toNat_setWidth_of_le (by decide)]; exact d.isLt
  rw [sOfD, if_pos hd, BitVec.setWidth_setWidth_of_le _ (by decide), BitVec.setWidth_eq]

@[simp] theorem c8OfD_setWidth (c : BitVec 3) : c8OfD (c.setWidth 6) = some c := by
  have hc : (c.setWidth 6).toNat < 8 := by
    rw [BitVec.toNat_setWidth_of_le (by decide)]; exact c.isLt
  rw [c8OfD, if_pos hc, BitVec.setWidth_setWidth_of_le _ (by decide), BitVec.setWidth_eq]

theorem c8OfD_large {e : BitVec 6} (he : 8 ≤ e.toNat) : c8OfD e = none := if_neg (by omega)

@[simp] theorem f01_ite (u : Bool) : f01 (if u then 1 else 0) = some u := by cases u <;> rfl
theorem f0_ne {f : BitVec 4} (h : f ≠ 0) : f0 f = none := if_neg h
theorem f01_large {f : BitVec 4} (h : 2 ≤ f.toNat) : f01 f = none := by
  rw [f01, if_neg (by rintro rfl; simp at h), if_neg (by rintro rfl; simp at h)]

/-- A row whose first check is its function code refuses the codes that are not its own (R40). -/
theorem need_bind_refused {α : Type} {o : Option α} (h : o = none) (k : α → Except EncFault Instr) :
    (need 1 1 o >>= k) = .error ⟨1, 1⟩ := by rw [h, need_none_bind]

section
variable {F : Type} {ofCode : BitVec 4 → Option F} (mk : F → SReg → Src → Src → Instr) (op : BitVec 7)
  (a b : Src) {f : BitVec 4} (t2 t3 : Half)

/-- `d := A op B`: the row decodes when its function code is one of the row's. -/
theorem decABf_ok {x : F} (hf : ofCode f = some x) (d : SReg) :
    decABf ofCode mk (head op 1 (d.setWidth 6)) (tailsAB a b f t2 t3) = .ok (mk x d a b) := by
  simp [decABf, head, hf]

/-- Any other function code is refused before the head is looked at (R40). -/
theorem decABf_refused (hf : ofCode f = none) (h : HeadW) :
    decABf ofCode mk h (tailsAB a b f t2 t3) = .error ⟨1, 1⟩ := by
  simp [decABf, hf]

end

end Sys2Proof.CoreInstructions
end

section
/-! PROOF. Words and integers: the model's wraps, clamps and extensions (R7) as operations on bit vectors. -/
namespace Sys2Proof.CoreInstructions
open Sys2Proof Sys2Proof.Machine Sys2Proof.Claims

theorem ofNat_wrapN (w : Nat) (z : Int) : BitVec.ofNat w (wrapN w z) = BitVec.ofInt w z := by
  have hcast : ((2 ^ w : Nat) : Int) = 2 ^ w := Int.natCast_pow 2 w
  have hpos : (0 : Int) < (2 ^ w : Nat) := Int.natCast_pos.2 (Nat.two_pow_pos w)
  apply BitVec.eq_of_toNat_eq
  rw [BitVec.toNat_ofNat, BitVec.toNat_ofInt, wrapN, ← hcast]
  refine Nat.mod_eq_of_lt ?_
  rw [Int.toNat_lt (Int.emod_nonneg z (Int.ne_of_gt hpos))]
  exact Int.emod_lt_of_pos z hpos

@[simp] theorem word_wrapN (z : Int) : word (wrapN 64 z) = BitVec.ofInt 64 z := ofNat_wrapN 64 z

theorem word_toNat (x : Word) : word x.toNat = x := BitVec.ofNat_toNat 64 x

theorem sxN_toNat (w : Nat) (x : Nat) (hw : 0 < w) : sxN w x = (BitVec.ofNat w x).toInt := by
  have hp : 2 ^ w = 2 * 2 ^ (w - 1) := by rw [← Nat.pow_succ']; congr 1; omega
  simp only [sxN, BitVec.toInt_eq_toNat_cond, BitVec.toNat_ofNat]
  push_cast
  split <;> split <;> omega

/-- R7: the sign-extension of the low bits of a word. -/
theorem signExt_eq (n : Nat) (w : Word) (hn : 0 < n) : signExt n w = (w.setWidth n).signExtend 64 := by
  rw [signExt, sxN_toNat n _ hn, BitVec.ofNat_toNat, BitVec.signExtend]

theorem word_satS (z : Int) : word (satS 64 z) = BitVec.ofInt 64 (clamp (-2 ^ (63 : Nat)) (2 ^ (63 : Nat) - 1) z) := by
  unfold satS
  split
  · rw [show clamp (-2 ^ (63 : Nat)) (2 ^ (63 : Nat) - 1) z = -2 ^ (63 : Nat) by unfold clamp; omega]; decide
  · split
    · rw [show clamp (-2 ^ (63 : Nat)) (2 ^ (63 : Nat) - 1) z = 2 ^ (63 : Nat) - 1 by unfold clamp; omega]; decide
    · rw [show clamp (-2 ^ (63 : Nat)) (2 ^ (63 : Nat) - 1) z = z by unfold clamp; omega, word_wrapN]

theorem word_satU (z : Int) : word (satU 64 z) = BitVec.ofInt 64 (clamp 0 (2 ^ (64 : Nat) - 1) z) := by
  unfold satU
  split
  · rw [show clamp 0 (2 ^ (64 : Nat) - 1) z = 0 by unfold clamp; omega]; decide
  · split
    · rw [show clamp 0 (2 ^ (64 : Nat) - 1) z = 2 ^ (64 : Nat) - 1 by unfold clamp; omega]; decide
    · rw [show clamp 0 (2 ^ (64 : Nat) - 1) z = z.toNat by unfold clamp; omega, BitVec.ofInt_natCast, word]

/-- The high half of an integer of 128 bits. -/
theorem extractLsb'_ofInt_high (z : Int) : (BitVec.ofInt 128 z).extractLsb' 64 64 = BitVec.ofInt 64 (z / 2 ^ 64) := by
  apply BitVec.eq_of_toNat_eq
  simp only [BitVec.extractLsb'_toNat, BitVec.toNat_ofInt, Nat.shiftRight_eq_div_pow]
  omega

end Sys2Proof.CoreInstructions
end

section
/-! PROOF. The integer arithmetic (R121 to R123): what the model computes, as operations on bit vectors, and the settled
statement. -/
namespace Sys2Proof.CoreInstructions
open Sys2Proof Sys2Proof.Machine Sys2Proof.Claims

/-! ## Values -/

/-- The 32-bit forms compute on the low halves (R121). -/
theorem sxN_low (x : Word) : sxN 32 x.toNat = (x.setWidth 32).toInt := by
  rw [sxN_toNat 32 _ (by decide), BitVec.ofNat_toNat]

theorem signExt_word_wrapN (z : Int) : signExt 32 (word (wrapN 32 z)) = (BitVec.ofInt 32 z).signExtend 64 := by
  rw [signExt_eq 32 _ (by decide), word, BitVec.setWidth_ofNat_of_le (by decide), ofNat_wrapN]

theorem addValue_wrap (x y : Word) : addValue .wrap x y = x + y := by
  rw [addValue, word_wrapN, BitVec.ofInt_add, BitVec.ofInt_toInt, BitVec.ofInt_toInt]

theorem addValue_satS (x y : Word) :
    addValue .satS x y = BitVec.ofInt 64 (clamp (-2 ^ (63 : Nat)) (2 ^ (63 : Nat) - 1) (x.toInt + y.toInt)) := word_satS _

theorem addValue_satU (x y : Word) :
    addValue .satU x y = BitVec.ofNat 64 (min (2 ^ (64 : Nat) - 1) (x.toNat + y.toNat)) := by
  rw [addValue, word_satU, show clamp 0 (2 ^ (64 : Nat) - 1) ((x.toNat : Int) + y.toNat) =
    (min (2 ^ (64 : Nat) - 1) (x.toNat + y.toNat) : Nat) by unfold clamp; omega, BitVec.ofInt_natCast]

theorem addValue_word (x y : Word) : addValue .word x y = (x.setWidth 32 + y.setWidth 32 : BitVec 32).signExtend 64 := by
  rw [addValue, signExt_word_wrapN, sxN_low, sxN_low, BitVec.ofInt_add, BitVec.ofInt_toInt, BitVec.ofInt_toInt]

theorem ofInt_sub (w : Nat) (x y : BitVec w) : BitVec.ofInt w (x.toInt - y.toInt) = x - y := by
  rw [Int.sub_eq_add_neg, BitVec.ofInt_add, BitVec.ofInt_neg, BitVec.ofInt_toInt, BitVec.ofInt_toInt, BitVec.sub_eq_add_neg]

theorem subValue_wrap (x y : Word) : subValue .wrap x y = x - y := by rw [subValue, word_wrapN, ofInt_sub]

theorem subValue_satS (x y : Word) :
    subValue .satS x y = BitVec.ofInt 64 (clamp (-2 ^ (63 : Nat)) (2 ^ (63 : Nat) - 1) (x.toInt - y.toInt)) := word_satS _

theorem subValue_satU (x y : Word) : subValue .satU x y = BitVec.ofNat 64 (x.toNat - y.toNat) := by
  rw [subValue, word_satU, show clamp 0 (2 ^ (64 : Nat) - 1) ((x.toNat : Int) - y.toNat) = (x.toNat - y.toNat : Nat) by
    unfold clamp; omega, BitVec.ofInt_natCast]

theorem subValue_word (x y : Word) : subValue .word x y = (x.setWidth 32 - y.setWidth 32 : BitVec 32).signExtend 64 := by
  rw [subValue, signExt_word_wrapN, sxN_low, sxN_low, ofInt_sub]

/-- `ADDI` is `ADD` of the extended immediate, save that its unsigned clamp reads the immediate signed (R121). -/
theorem addiValue_satU (x : Word) (imm : Half) :
    addiValue .satU x imm = BitVec.ofInt 64 (clamp 0 (2 ^ (64 : Nat) - 1) (x.toNat + imm.toInt)) := word_satU _

theorem addiValue_wrap (x : Word) (imm : Half) : addiValue .wrap x imm = x + imm.signExtend 64 := addValue_wrap _ _

theorem addiValue_satS (x : Word) (imm : Half) :
    addiValue .satS x imm = BitVec.ofInt 64 (clamp (-2 ^ (63 : Nat)) (2 ^ (63 : Nat) - 1) (x.toInt + imm.toInt)) := by
  rw [← BitVec.toInt_signExtend_of_le (x := imm) (show 16 ≤ 64 by decide)]
  exact addValue_satS _ _

theorem setWidth_signExtend (imm : Half) : (imm.signExtend 64).setWidth 32 = imm.signExtend 32 := by
  rw [← BitVec.signExtend_eq_setWidth_of_le _ (by decide)]
  exact congrArg (BitVec.ofInt 32) (BitVec.toInt_signExtend_of_le (by decide))

theorem addiValue_word (x : Word) (imm : Half) :
    addiValue .word x imm = (x.setWidth 32 + imm.signExtend 32 : BitVec 32).signExtend 64 := by
  rw [← setWidth_signExtend]
  exact addValue_word _ _

theorem mulValue_eq (x y : Word) : mulValue x y = BitVec.ofInt 64 (x.toInt * y.toInt) := word_wrapN _

/-- R122: the low half of the product is that of both readings. -/
theorem ofInt_mul_toInt (x y : Word) : BitVec.ofInt 64 (x.toInt * y.toInt) = BitVec.ofNat 64 (x.toNat * y.toNat) := by
  rw [BitVec.ofInt_mul, BitVec.ofInt_toInt, BitVec.ofInt_toInt, BitVec.ofNat_mul, BitVec.ofNat_toNat, BitVec.ofNat_toNat,
    BitVec.setWidth_eq, BitVec.setWidth_eq]

/-- The high half of a product is that of the product of 128 bits of the extended sources. -/
theorem mulh_high (X Y : BitVec 128) (p : Int) (h : p = X.toInt * Y.toInt) :
    word (wrapN 64 (p / 2 ^ 64)) = (X * Y).extractLsb' 64 64 := by
  rw [word_wrapN, ← extractLsb'_ofInt_high, h, BitVec.ofInt_mul, BitVec.ofInt_toInt, BitVec.ofInt_toInt]

theorem toInt_zext (x : Word) : (x.setWidth 128).toInt = x.toNat := by
  rw [BitVec.toInt_setWidth, Int.bmod_eq_of_le] <;> omega

theorem toInt_sext (x : Word) : (x.signExtend 128).toInt = x.toInt := BitVec.toInt_signExtend_of_le (by decide)

theorem mulhValue_ss (x y : Word) : mulhValue .ss x y = (x.signExtend 128 * y.signExtend 128).extractLsb' 64 64 :=
  mulh_high _ _ _ (by rw [toInt_sext, toInt_sext])
theorem mulhValue_uu (x y : Word) : mulhValue .uu x y = (x.setWidth 128 * y.setWidth 128).extractLsb' 64 64 :=
  mulh_high _ _ _ (by rw [toInt_zext, toInt_zext])
theorem mulhValue_su (x y : Word) : mulhValue .su x y = (x.signExtend 128 * y.setWidth 128).extractLsb' 64 64 :=
  mulh_high _ _ _ (by rw [toInt_sext, toInt_zext])

theorem ofInt_tdiv (x y : Word) : BitVec.ofInt 64 (x.toInt.tdiv y.toInt) = x.sdiv y :=
  BitVec.eq_of_toInt_eq (by rw [BitVec.toInt_ofInt, BitVec.toInt_sdiv])

/-- R123: the quotient by 0 is all ones; the one that overflows wraps. -/
theorem divValue_signed (x y : Word) : divValue false x y = if y = 0 then -1 else x.sdiv y := by
  rw [← ofInt_tdiv, ← word_wrapN]
  rfl

theorem divValue_unsigned (x y : Word) : divValue true x y = if y = 0 then -1 else x / y := by
  rw [divValue, if_pos rfl, ← BitVec.toNat_udiv, word_toNat]
  rfl

theorem remValue_signed (x y : Word) : remValue false x y = if y = 0 then x else x.srem y := by
  rw [← BitVec.ofInt_toInt (x := x.srem y), BitVec.toInt_srem, ← word_wrapN]
  rfl

theorem remValue_unsigned (x y : Word) : remValue true x y = if y = 0 then x else x % y := by
  rw [remValue, if_pos rfl, ← BitVec.toNat_umod, word_toNat]

/-! ## Settling -/

theorem addSubWriteTheirResult : AddSubWriteTheirResult := by
  intro s d a b imm
  refine ⟨fun h => ?_, fun h => ?_⟩
  · have hadd (f : AddF) : exec (.add f d a b) s = .next (wrote s d (addValue f (val s a) (val s b))) :=
      alu2_ready h (addValue f)
    have hsub (f : AddF) : exec (.sub f d a b) s = .next (wrote s d (subValue f (val s a) (val s b))) :=
      alu2_ready h (subValue f)
    simp only [hadd, hsub, addValue_wrap, addValue_satS, addValue_satU, addValue_word, subValue_wrap, subValue_satS,
      subValue_satU, subValue_word, and_self]
  · have haddi (f : AddF) : exec (.addi f d a imm) s = .next (wrote s d (addiValue f (val s a) imm)) :=
      alu1_ready h (addiValue f · imm)
    simp only [haddi, addiValue_wrap, addiValue_satS, addiValue_satU, addiValue_word, and_self]

theorem mulDivWriteTheirResult : MulDivWriteTheirResult := by
  intro s d a b h
  have hmul : exec (.mul d a b) s = .next (wrote s d (mulValue (val s a) (val s b))) := alu2_ready h mulValue
  have hmulh (f : MulhF) : exec (.mulh f d a b) s = .next (wrote s d (mulhValue f (val s a) (val s b))) :=
    alu2_ready h (mulhValue f)
  have hdiv (u : Bool) : exec (.div u d a b) s = .next (wrote s d (divValue u (val s a) (val s b))) :=
    alu2_ready h (divValue u)
  have hrem (u : Bool) : exec (.rem u d a b) s = .next (wrote s d (remValue u (val s a) (val s b))) :=
    alu2_ready h (remValue u)
  simp only [hmul, hmulh, hdiv, hrem, mulValue_eq, ofInt_mul_toInt, mulhValue_ss, mulhValue_uu, mulhValue_su,
    divValue_signed, divValue_unsigned, remValue_signed, remValue_unsigned, and_self]

/-! ## Encodings -/

/-- R121: the codes that no form of `ADD`, `SUB` and `ADDI` has. -/
theorem addF_ofCode_none {f : BitVec 4} (h : f = 3 ∨ 5 ≤ f.toNat) : AddF.ofCode f = none := by
  revert f; decide

theorem mulhF_ofCode_none {f : BitVec 4} (h : 3 ≤ f.toNat) : MulhF.ofCode f = none := by
  revert f; decide

theorem addi_ok {f : BitVec 4} {x : AddF} (hf : AddF.ofCode f = some x) (d : SReg) (a : Src) (imm t3 : Half) :
    decodeHead (head 0x12 2 (d.setWidth 6)) (tailsA a f imm t3) = .ok (.addi x d a imm) := by
  change need 1 1 _ >>= _ = _
  simp [head, hf]

theorem arithmeticIsEncoded : ArithmeticIsEncoded := by
  refine ⟨fun d a b t2 t3 imm => ⟨?_, decABf_ok _ 0x13 a b t2 t3 (show f0 0 = some () from rfl) d, ?_, ?_⟩, ?_⟩
  · intro x hx
    have hf : AddF.ofCode x.1 = some x.2 := by revert x; decide
    exact ⟨decABf_ok _ 0x10 a b t2 t3 hf d, decABf_ok _ 0x11 a b t2 t3 hf d, addi_ok hf d a imm t3⟩
  · intro x hx
    have hf : MulhF.ofCode x.1 = some x.2 := by revert x; decide
    exact decABf_ok _ 0x14 a b t2 t3 hf d
  · intro u
    exact ⟨decABf_ok _ 0x15 a b t2 t3 (f01_ite u) d, decABf_ok _ 0x16 a b t2 t3 (f01_ite u) d⟩
  · rintro op tl e a b f t2 t3 (⟨rfl | rfl | rfl, hf⟩ | ⟨rfl, hf⟩ | ⟨rfl, hf⟩ | ⟨rfl | rfl, hf⟩)
    · exact decABf_refused _ a b t2 t3 (addF_ofCode_none hf) _
    · exact decABf_refused _ a b t2 t3 (addF_ofCode_none hf) _
    · exact need_bind_refused (by rw [unpack_tailsAB]; exact addF_ofCode_none hf) _
    · exact decABf_refused _ a b t2 t3 (f0_ne hf) _
    · exact decABf_refused _ a b t2 t3 (mulhF_ofCode_none hf) _
    · exact decABf_refused _ a b t2 t3 (f01_large hf) _
    · exact decABf_refused _ a b t2 t3 (f01_large hf) _

/-- Settles O1: each form comes to its end with the value it computes, and that value is the rule's. -/
theorem integerArithmeticWritesItsResult : Obligations.IntegerArithmeticWritesItsResult :=
  ⟨addSubWriteTheirResult, mulDivWriteTheirResult, arithmeticIsEncoded⟩

end Sys2Proof.CoreInstructions
end

section
/-! PROOF. The bitwise instructions, the shifts and the rotation (R124, R125). -/
namespace Sys2Proof.CoreInstructions
open Sys2Proof Sys2Proof.Machine Sys2Proof.Claims

/-! ## Values -/

theorem shlValue_eq (x : Word) (n : Nat) : shlValue x n = x <<< n :=
  BitVec.eq_of_toNat_eq (by rw [shlValue, word, BitVec.toNat_ofNat, BitVec.toNat_shiftLeft, Nat.shiftLeft_eq])

theorem shrValue_eq (x : Word) (n : Nat) : shrValue x n = x >>> n := by
  rw [shrValue, ← Nat.shiftRight_eq_div_pow, ← BitVec.toNat_ushiftRight, word_toNat]

theorem sarValue_eq (x : Word) (n : Nat) : sarValue x n = x.sshiftRight n := by
  rw [sarValue, word_wrapN, BitVec.sshiftRight_eq, Int.shiftRight_eq_div_pow]
  exact congrArg (fun k => BitVec.ofInt 64 (x.toInt / k)) (Int.natCast_pow 2 n).symm

/-- R125: the bits that leave a word at the right come in at the left, where they meet none that stay. -/
theorem rotrValue_eq (x : Word) (n : Nat) (hn : n < 64) : rotrValue x n = x.rotateRight n := by
  have hlow : x.toNat / 2 ^ n < 2 ^ (64 - n) := by
    rw [Nat.div_lt_iff_lt_mul (Nat.two_pow_pos n), ← Nat.pow_add, Nat.sub_add_cancel (Nat.le_of_lt hn)]
    exact x.isLt
  have hhigh : x.toNat * 2 ^ (64 - n) % 2 ^ 64 = x.toNat % 2 ^ n * 2 ^ (64 - n) := by
    rw [show 2 ^ 64 = 2 ^ n * 2 ^ (64 - n) by rw [← Nat.pow_add, Nat.add_sub_cancel' (Nat.le_of_lt hn)], Nat.mul_mod_mul_right]
  apply BitVec.eq_of_toNat_eq
  rw [BitVec.rotateRight_eq_rotateRightAux_of_lt hn, BitVec.rotateRightAux, BitVec.toNat_or, BitVec.toNat_ushiftRight,
    BitVec.toNat_shiftLeft, Nat.shiftRight_eq_div_pow, Nat.shiftLeft_eq, hhigh, Nat.or_comm, ← Nat.shiftLeft_eq,
    ← Nat.shiftLeft_add_eq_or_of_lt hlow, Nat.shiftLeft_eq, rotrValue, word, BitVec.toNat_ofNat, Nat.add_comm, Nat.mod_eq_of_lt]
  calc x.toNat % 2 ^ n * 2 ^ (64 - n) + x.toNat / 2 ^ n
      < (x.toNat % 2 ^ n + 1) * 2 ^ (64 - n) := by rw [Nat.add_mul]; omega
    _ ≤ 2 ^ n * 2 ^ (64 - n) := Nat.mul_le_mul_right _ (Nat.mod_lt _ (Nat.two_pow_pos _))
    _ = 2 ^ 64 := by rw [← Nat.pow_add, Nat.add_sub_cancel' (Nat.le_of_lt hn)]

theorem amount_lt (s : State) (m : ShAmt) : amount s m < 64 := by
  cases m with
  | reg b => exact Nat.mod_lt _ (by decide)
  | imm n => exact n.isLt

/-! ## Settling -/

theorem bitwiseWriteTheirResult : BitwiseWriteTheirResult := by
  refine ⟨fun s d a b h => ⟨alu2_ready h (· &&& ·), alu2_ready h (· ||| ·), alu2_ready h (· ^^^ ·),
    alu2_ready h (fun x y => x &&& ~~~y)⟩, ?_, fun d a b t2 t3 => ?_⟩
  · rintro op tl d a b wa wb f t2 t3 (rfl | rfl | rfl | rfl) hf <;>
      exact decABf_refused _ ⟨a, wa⟩ ⟨b, wb⟩ t2 t3 (f0_ne hf) _
  · have h0 : f0 0 = some () := rfl
    exact ⟨decABf_ok _ 0x17 a b t2 t3 h0 d, decABf_ok _ 0x18 a b t2 t3 h0 d, decABf_ok _ 0x19 a b t2 t3 h0 d,
      decABf_ok _ 0x1A a b t2 t3 h0 d⟩

theorem shifts_ready (s : State) (d : SReg) (a : Src) (m : ShAmt) (h : Ready s ([sN d, a.need] ++ m.needs)) :
    exec (.shl d a m) s = .next (wrote s d (val s a <<< amount s m)) ∧
    exec (.shr d a m) s = .next (wrote s d (val s a >>> amount s m)) ∧
    exec (.sar d a m) s = .next (wrote s d ((val s a).sshiftRight (amount s m))) ∧
    exec (.rotr d a m) s = .next (wrote s d ((val s a).rotateRight (amount s m))) := by
  rw [← shlValue_eq, ← shrValue_eq, ← sarValue_eq, ← rotrValue_eq _ _ (amount_lt s m)]
  exact ⟨shift_ready h shlValue, shift_ready h shrValue, shift_ready h sarValue, shift_ready h rotrValue⟩

/-! ## Encodings -/

section
variable (mk : SReg → Src → ShAmt → Instr) (op : BitVec 7) (d : SReg) (a b : Src) (t2 t3 : Half)

theorem decShift_reg : decShift mk (head op 1 (d.setWidth 6)) (tailsAB a b 0 t2 t3) = .ok (mk d a (.reg b)) := by
  simp [decShift, head]

theorem decShift_imm (hb : b.wait = false) :
    decShift mk (head op 1 (d.setWidth 6)) (tailsAB a b 1 t2 t3) = .ok (mk d a (.imm (b.reg.setWidth 6))) := by
  simp [decShift, head, hb]

theorem decShift_imm_high (hb : b.wait = false) :
    decShift mk (head op 1 (d.setWidth 6)) (tailsAB a b 2 t2 t3) = .ok (mk d a (.imm (b.reg.setWidth 6 + 32))) := by
  have hn : BitVec.ofNat 6 (32 + b.reg.toNat) = b.reg.setWidth 6 + 32 := by
    rw [BitVec.ofNat_add, BitVec.ofNat_toNat, BitVec.add_comm]
    rfl
  simp [decShift, head, hb, hn]

theorem decShift_wait {f : BitVec 4} (hf : f = 1 ∨ f = 2) (hb : b.wait = true) :
    decShift mk (head op 1 (d.setWidth 6)) (tailsAB a b f t2 t3) = .error ⟨5, 1⟩ := by
  rcases hf with rfl | rfl <;> simp [decShift, head, hb]

theorem decShift_refused {f : BitVec 4} (hf : 3 ≤ f.toNat) (h : HeadW) :
    decShift mk h (tailsAB a b f t2 t3) = .error ⟨1, 1⟩ := by
  have hno : (f == 0 || f == 1 || f == 2) = false := by revert f; decide
  simp only [decShift, unpack_tailsAB, hno, req_false_bind]

end

theorem shiftsAreEncoded {x : BitVec 7 × (SReg → Src → ShAmt → Instr)}
    (hx : x ∈ ([(0x1B, Instr.shl), (0x1C, Instr.shr), (0x1D, Instr.sar), (0x1E, Instr.rotr)] :
      List (BitVec 7 × (SReg → Src → ShAmt → Instr)))) (tl : BitVec 2) (e : BitVec 6) (w : Tails) :
    decodeHead (head x.1 tl e) w = decShift x.2 (head x.1 tl e) w := by
  simp only [List.mem_cons, List.not_mem_nil, or_false] at hx
  rcases hx with rfl | rfl | rfl | rfl <;> rfl

theorem shiftsWriteTheirResult : ShiftsWriteTheirResult := by
  refine ⟨shifts_ready, fun x hx tl e d a b f t2 t3 => ?_⟩
  have hdec := shiftsAreEncoded hx
  refine ⟨?_, ?_, ?_, fun hf hb => ?_, fun hf => ?_⟩
  · rintro rfl
    exact (hdec ..).trans (decShift_reg ..)
  · rintro rfl hb
    exact (hdec ..).trans (decShift_imm _ _ _ _ _ _ _ hb)
  · rintro rfl hb
    exact (hdec ..).trans (decShift_imm_high _ _ _ _ _ _ _ hb)
  · exact (hdec ..).trans (decShift_wait _ _ _ _ _ _ _ hf hb)
  · exact (hdec ..).trans (decShift_refused _ _ _ _ _ hf _)

/-- Settles O2: the model's values are the operations on bit vectors, a rotation because its two parts share no bit. -/
theorem bitwiseAndShiftsWriteTheirResult : Obligations.BitwiseAndShiftsWriteTheirResult :=
  ⟨bitwiseWriteTheirResult, shiftsWriteTheirResult⟩

end Sys2Proof.CoreInstructions
end

section
/-! PROOF. The condition registers: compares, `SEL` and `MOVC` (R97, R127, R128, R133). -/
namespace Sys2Proof.CoreInstructions
open Sys2Proof Sys2Proof.Machine Sys2Proof.Claims

/-! ## Values -/

/-- R127: the model's relation is the one of the statement. -/
theorem relHolds_eq (r : Rel) (x y : Word) : relHolds r x y = holds r x y := by
  cases r with
  | eq | ne | lt | ltu | tst => rfl
  | ge => exact (BitVec.sle_eq_decide ..).symm
  | geu => rfl

/-- The number whose bits below `n` are given, summed as `MOVC` does (R133). -/
def sumBits (f : Nat → Bool) (n : Nat) : Nat :=
  (List.range n).foldl (fun acc i => if f i then acc + 2 ^ i else acc) 0

theorem sumBits_succ (f : Nat → Bool) (n : Nat) : sumBits f (n + 1) = (if f n then sumBits f n + 2 ^ n else sumBits f n) := by
  rw [sumBits, List.range_succ, List.foldl_append]
  rfl

theorem sumBits_lt (f : Nat → Bool) (n : Nat) : sumBits f n < 2 ^ n := by
  induction n with
  | zero => exact Nat.one_pos
  | succ n ih =>
    rw [sumBits_succ, Nat.pow_succ]
    split <;> omega

theorem testBit_sumBits (f : Nat → Bool) (n i : Nat) : (sumBits f n).testBit i = (decide (i < n) && f i) := by
  induction n with
  | zero => exact Nat.zero_testBit i
  | succ n ih =>
    have hlt := sumBits_lt f n
    rw [sumBits_succ]
    rcases Nat.lt_trichotomy i n with hi | rfl | hi
    · have hbit : (if f n then sumBits f n + 2 ^ n else sumBits f n).testBit i = (sumBits f n).testBit i := by
        split
        · rw [Nat.add_comm, Nat.testBit_two_pow_add_gt hi]
        · rfl
      simp [hbit, ih, hi, Nat.lt_succ_of_lt hi]
    · cases hf : f i <;> simp [Nat.testBit_lt_two_pow hlt, Nat.add_comm, Nat.testBit_two_pow_add_eq]
    · have hsmall : (if f n then sumBits f n + 2 ^ n else sumBits f n) < 2 ^ i :=
        calc _ < 2 ^ (n + 1) := by rw [← sumBits_succ]; exact sumBits_lt f (n + 1)
          _ ≤ 2 ^ i := Nat.pow_le_pow_right (by decide) hi
      simp [Nat.testBit_lt_two_pow hsmall, show ¬ i < n + 1 by omega]

theorem condWord_eq (s : State) (v : View) : s.condWord v = word (sumBits (fun i => v.cond (BitVec.ofNat 4 i)) 16) := rfl

/-- R133: bit i of the word that `MOVC` reads is condition i, and the bits from 16 on are zero. -/
theorem getLsbD_condWord (s : State) (v : View) {i : Nat} (hi : i < 64) :
    (s.condWord v).getLsbD i = (decide (i < 16) && v.cond (BitVec.ofNat 4 i)) := by
  rw [condWord_eq, word, BitVec.getLsbD_ofNat, testBit_sumBits, decide_eq_true hi, Bool.true_and]

/-! ## Settling -/

theorem conditionFormsWriteTheirResult : ConditionFormsWriteTheirResult := by
  intro s r c d a b imm n
  refine ⟨fun h => ?_, fun h => ⟨?_, ?_⟩, fun h => ?_, fun h => ?_⟩
  · rw [← relHolds_eq]
    exact plain_putC h c fun v => relHolds r (v.s a) (v.s b)
  · rw [← relHolds_eq]
    exact plain_putC h c fun v => relHolds r (v.s a) (imm.signExtend 64)
  · exact plain_setTh h (fun v s => { s.th with c := (v.s a).setWidth 8 }) rfl rfl rfl rfl rfl
  · exact plain_putS h d fun v _ => if v.cond n then v.s a else v.s b
  · exact ⟨s.condWord s.view, plain_putS h d fun v s => s.condWord v, fun i hi => getLsbD_condWord s s.view hi,
      getLsbD_condWord s s.view (by decide), getLsbD_condWord s s.view (by decide)⟩

/-! ## Encodings -/

section
variable {f : BitVec 4} {r : Rel} (hf : Rel.ofCode f = some r) (c : BitVec 3) (a b : Src) (imm t2 t3 : Half)
include hf

theorem cmp_ok : decodeHead (head 0x21 1 (c.setWidth 6)) (tailsAB a b f t2 t3) = .ok (.cmp r c a b) := by
  change need 1 1 _ >>= _ = _
  simp [head, hf]

theorem cmpi_ok : decodeHead (head 0x22 2 (c.setWidth 6)) (tailsA a f imm t3) = .ok (.cmpi r c a imm) := by
  change need 1 1 _ >>= _ = _
  simp [head, hf]

theorem cmp_refused_dest {e : BitVec 6} (he : 8 ≤ e.toNat) :
    decodeHead (head 0x21 1 e) (tailsAB a b f t2 t3) = .error ⟨5, 0⟩ := by
  change need 1 1 _ >>= _ = _
  simp [head, hf, c8OfD_large he]

theorem cmpi_refused_dest {e : BitVec 6} (he : 8 ≤ e.toNat) :
    decodeHead (head 0x22 2 e) (tailsA a f imm t3) = .error ⟨5, 0⟩ := by
  change need 1 1 _ >>= _ = _
  simp [head, hf, c8OfD_large he]

end

theorem rel_ofCode_none {f : BitVec 4} (h : 7 ≤ f.toNat) : Rel.ofCode f = none := by
  revert f; decide

theorem movc_ok (d : SReg) (t2 t3 : Half) :
    decodeHead (head 0x2B 1 (d.setWidth 6)) (tailsA ⟨0, false⟩ 0 t2 t3) = .ok (.movc d) := by
  change need 1 1 _ >>= _ = _
  simp [head, f01, TR.noA]

theorem movcWr_ok (a : Src) (t2 t3 : Half) : decodeHead (head 0x2B 1 0) (tailsA a 1 t2 t3) = .ok (.movcWr a) := by
  change need 1 1 _ >>= _ = _
  simp [head, f01]

theorem conditionFormsAreEncoded : ConditionFormsAreEncoded := by
  refine ⟨fun d c n a b t2 t3 imm => ⟨fun x hx => ?_,
    decABf_ok (fun c d a b => .sel d a b c) 0x23 a b t2 t3 (show fAll n = some n from rfl) d, movc_ok d t2 t3, movcWr_ok a t2 t3⟩, ?_⟩
  · have hf : Rel.ofCode x.1 = some x.2 := by revert x; decide
    exact ⟨cmp_ok hf c a b t2 t3, cmpi_ok hf c a imm t3,
      fun e he => ⟨cmp_refused_dest hf a b t2 t3 he, cmpi_refused_dest hf a imm t3 he⟩⟩
  · rintro op tl e a b f t2 t3 (⟨rfl | rfl, hf⟩ | ⟨rfl, hf⟩)
    · exact need_bind_refused (by rw [unpack_tailsAB]; exact rel_ofCode_none hf) _
    · exact need_bind_refused (by rw [unpack_tailsAB]; exact rel_ofCode_none hf) _
    · exact need_bind_refused (by rw [unpack_tailsAB]; exact f01_large hf) _

/-- Settles O3: the value of a compare is its relation, and the word that `MOVC` sums up has the conditions as its bits. -/
theorem conditionsAreWrittenAndRead : Obligations.ConditionsAreWrittenAndRead :=
  ⟨conditionFormsWriteTheirResult, conditionFormsAreEncoded⟩

end Sys2Proof.CoreInstructions
end

section
/-! PROOF. Replaced fields of a word: the arithmetic that the model does with them (R129, R131), bit by bit. -/
namespace Sys2Proof.CoreInstructions
open Sys2Proof Sys2Proof.Machine Sys2Proof.Claims

/-- A number with its `n` bits from `lo` on replaced: below the field, the field, and above it. -/
theorem replaceField_eq (x v lo n : Nat) :
    x - x / 2 ^ lo % 2 ^ n * 2 ^ lo + v % 2 ^ n * 2 ^ lo =
      2 ^ lo * (2 ^ n * (x / 2 ^ lo / 2 ^ n) + v % 2 ^ n) + x % 2 ^ lo := by
  have hx : x = 2 ^ lo * (2 ^ n * (x / 2 ^ lo / 2 ^ n)) + 2 ^ lo * (x / 2 ^ lo % 2 ^ n) + x % 2 ^ lo := by
    rw [← Nat.mul_add, Nat.div_add_mod, Nat.div_add_mod]
  rw [Nat.mul_comm (_ % 2 ^ n), Nat.mul_comm (v % 2 ^ n), Nat.mul_add]
  omega

theorem testBit_replaceField (x v lo n i : Nat) :
    (x - x / 2 ^ lo % 2 ^ n * 2 ^ lo + v % 2 ^ n * 2 ^ lo).testBit i =
      if lo ≤ i ∧ i < lo + n then v.testBit (i - lo) else x.testBit i := by
  rw [replaceField_eq, Nat.testBit_two_pow_mul_add _ (Nat.mod_lt _ (Nat.two_pow_pos _)),
    Nat.testBit_two_pow_mul_add _ (Nat.mod_lt _ (Nat.two_pow_pos _))]
  simp only [Nat.testBit_mod_two_pow, Nat.testBit_div_two_pow]
  rcases Nat.lt_or_ge i lo with hlo | hlo
  · rw [if_pos hlo, if_neg (by omega), decide_eq_true hlo, Bool.true_and]
  · rw [if_neg (by omega)]
    rcases Nat.lt_or_ge i (lo + n) with hn | hn
    · rw [if_pos (by omega), if_pos ⟨hlo, hn⟩, decide_eq_true (by omega), Bool.true_and]
    · rw [if_neg (by omega), if_neg (by omega)]
      congr 1
      omega

/-- A word whose set bits are those of a field. -/
def IsFieldMask (m : Word) (lo n : Nat) : Prop := ∀ i, i < 64 → m.getLsbD i = decide (lo ≤ i ∧ i < lo + n)

theorem word_replaceField {m : Word} {lo n : Nat} (hm : IsFieldMask m lo n) (x v : Word) :
    word (x.toNat - x.toNat / 2 ^ lo % 2 ^ n * 2 ^ lo + v.toNat % 2 ^ n * 2 ^ lo) = (x &&& ~~~m) ||| (v <<< lo &&& m) := by
  apply BitVec.eq_of_getLsbD_eq
  intro i hi
  simp only [word, BitVec.getLsbD_ofNat, testBit_replaceField, BitVec.getLsbD_or, BitVec.getLsbD_and, BitVec.getLsbD_not,
    BitVec.getLsbD_shiftLeft, hm i hi, hi, decide_true, Bool.true_and]
  by_cases hf : lo ≤ i ∧ i < lo + n
  · simp [hf, show ¬ i < lo by omega, BitVec.testBit_toNat]
  · simp [hf, BitVec.testBit_toNat]

/-- Ones below `n`, moved up to a field. -/
theorem isFieldMask_shiftLeft {u : Word} {n : Nat} (hu : u.toNat = 2 ^ n - 1) (lo : Nat) : IsFieldMask (u <<< lo) lo n := by
  intro i hi
  rw [BitVec.getLsbD_shiftLeft, ← BitVec.testBit_toNat, hu, Nat.testBit_two_pow_sub_one]
  simp only [hi, decide_true, Bool.true_and, ← decide_not, ← Bool.decide_and]
  exact decide_eq_decide.2 (by omega)

theorem isFieldMask_fieldMask (pos : BitVec 6) (len : BitVec 7) (h : len.toNat ≤ 64) :
    IsFieldMask (fieldMask pos len) pos.toNat len.toNat := by
  have hpow : 2 ^ len.toNat ≤ 2 ^ 64 := Nat.pow_le_pow_right (by decide) h
  have hpos : 0 < 2 ^ len.toNat := Nat.two_pow_pos _
  have hone : (1#128 <<< len.toNat).toNat = 2 ^ len.toNat := by
    rw [BitVec.toNat_shiftLeft, Nat.shiftLeft_eq, BitVec.toNat_ofNat]
    omega
  refine isFieldMask_shiftLeft ?_ _
  rw [BitVec.toNat_setWidth, BitVec.toNat_sub, hone, BitVec.toNat_ofNat]
  omega

end Sys2Proof.CoreInstructions
end

section
/-! PROOF. Minimum and maximum, immediates, counts, bit fields and the carry-less product (R126, R129 to R132). -/
namespace Sys2Proof.CoreInstructions
open Sys2Proof Sys2Proof.Machine Sys2Proof.Claims

/-! ## Minimum and maximum -/

theorem minValue_signed (x y : Word) : minValue false x y = if y.slt x then y else x := by
  rw [minValue, if_neg (by decide), BitVec.slt_eq_decide]
  simp only [decide_eq_true_eq, ← Int.not_le, ite_not]

theorem minValue_unsigned (x y : Word) : minValue true x y = if y.ult x then y else x := by
  rw [minValue, if_pos rfl, BitVec.ult_eq_decide]
  simp only [decide_eq_true_eq, ← Nat.not_le, ite_not]

/-- The two orders differ at equal values alone, where either source is the greater. -/
theorem maxValue_signed (x y : Word) : maxValue false x y = if x.slt y then y else x := by
  rw [maxValue, if_neg (by decide), BitVec.slt_eq_decide]
  rcases Int.lt_trichotomy x.toInt y.toInt with h | h | h
  · rw [if_pos (Int.le_of_lt h), if_pos (decide_eq_true h)]
  · rw [BitVec.eq_of_toInt_eq h, ite_self, ite_self]
  · rw [if_neg (Int.not_le.2 h), if_neg (by rw [decide_eq_true_eq]; omega)]

theorem maxValue_unsigned (x y : Word) : maxValue true x y = if x.ult y then y else x := by
  rw [maxValue, if_pos rfl, BitVec.ult_eq_decide]
  rcases Nat.lt_trichotomy x.toNat y.toNat with h | h | h
  · rw [if_pos (Nat.le_of_lt h), if_pos (decide_eq_true h)]
  · rw [BitVec.eq_of_toNat_eq h, ite_self, ite_self]
  · rw [if_neg (Nat.not_le.2 h), if_neg (by rw [decide_eq_true_eq]; omega)]

/-! ## Immediates and bit fields -/

theorem setWidth_and_low (imm : Half) : imm.setWidth 64 &&& 0xFFFF#64 = imm.setWidth 64 := by
  apply BitVec.eq_of_toNat_eq
  rw [BitVec.toNat_and, BitVec.toNat_setWidth_of_le (by decide), show (0xFFFF#64).toNat = 2 ^ 16 - 1 from rfl,
    Nat.and_two_pow_sub_one_of_lt_two_pow imm.isLt]

/-- R129: a halfword of a word replaced is a field of 16 bits replaced. -/
theorem lihValue_eq (k : BitVec 2) (x : Word) (imm : Half) :
    lihValue k x imm = (x &&& ~~~(0xFFFF#64 <<< (16 * k.toNat))) ||| (imm.setWidth 64 <<< (16 * k.toNat)) := by
  have h := word_replaceField (isFieldMask_shiftLeft (u := 0xFFFF#64) (n := 16) rfl (16 * k.toNat)) x (imm.setWidth 64)
  rw [← BitVec.shiftLeft_and_distrib, setWidth_and_low, BitVec.toNat_setWidth_of_le (by decide)] at h
  rw [← h, lihValue, setBits, bits, show 16 * k.toNat + 15 + 1 - 16 * k.toNat = 16 by omega, word]

/-- R131: the field that `BFX` reads. -/
theorem ofNat_field (x : Word) (pos len : Nat) : BitVec.ofNat len (x.toNat / 2 ^ pos % 2 ^ len) = x.extractLsb' pos len := by
  apply BitVec.eq_of_toNat_eq
  rw [BitVec.toNat_ofNat, Nat.mod_mod, BitVec.extractLsb'_toNat, Nat.shiftRight_eq_div_pow]

theorem bfxValue_zero (x : Word) (pos len : Nat) : bfxValue false pos len x = (x.extractLsb' pos len).setWidth 64 := by
  apply BitVec.eq_of_toNat_eq
  rw [BitVec.toNat_setWidth, BitVec.extractLsb'_toNat, Nat.shiftRight_eq_div_pow]
  exact BitVec.toNat_ofNat _ _

theorem bfxValue_sign (x : Word) (pos len : Nat) (h1 : 1 ≤ len) (h2 : len ≤ 64) :
    bfxValue true pos len x = (x.extractLsb' pos len).signExtend 64 := by
  rw [bfxValue, if_pos rfl, signExt_eq _ _ h1, word, BitVec.setWidth_ofNat_of_le h2, ofNat_field]

theorem bfiValue_eq (x y : Word) (pos : BitVec 6) (len : BitVec 7) (h : len.toNat ≤ 64) :
    bfiValue pos.toNat len.toNat x y = (x &&& ~~~fieldMask pos len) ||| (y <<< pos.toNat &&& fieldMask pos len) :=
  word_replaceField (isFieldMask_fieldMask pos len h) x y

theorem wfField_iff (pos : BitVec 6) (len : BitVec 7) :
    wfField pos len = true ↔ 1 ≤ len.toNat ∧ pos.toNat + len.toNat ≤ 64 := by
  simp [wfField]

/-! ## Counts -/

/-- R130: the number of bits before the first one that is set, counted from the top or the bottom. -/
theorem clzValue_spec (trail : Bool) (x : Word) :
    ∃ n, n ≤ 64 ∧ clzValue trail x = BitVec.ofNat 64 n ∧ (∀ i, i < n → bit x (if trail then i else 63 - i) = false) ∧
      (n < 64 → bit x (if trail then n else 63 - n) = true) := by
  unfold clzValue
  split
  · next n hn =>
    obtain ⟨hbit, hmem, hfirst⟩ := List.find?_range_eq_some.1 hn
    rw [List.mem_range] at hmem
    exact ⟨n, Nat.le_of_lt hmem, rfl, fun i hi => by simpa using hfirst i hi, fun _ => hbit⟩
  · next hn =>
    refine ⟨64, Nat.le_refl 64, rfl, fun i hi => ?_, fun h => absurd h (by decide)⟩
    simpa using List.find?_eq_none.1 hn i (List.mem_range.2 hi)

/-- The elements with a property, counted one by one. -/
theorem length_filter_eq_sum {α : Type} (p : α → Bool) (l : List α) :
    (l.filter p).length = (l.map fun i => (p i).toNat).sum := by
  induction l with
  | nil => rfl
  | cons x l ih => cases hx : p x <;> simp [hx, ih, Nat.add_comm]

theorem popcValue_eq (x : Word) :
    popcValue x = BitVec.ofNat 64 (((List.range 64).map fun i => (x.getLsbD i).toNat).sum) :=
  congrArg word (length_filter_eq_sum (bit x) _)

/-! ## The carry-less product -/

/-- One step of the product changes bit k by the bit that `x` has at i and `y` at k − i (R132). -/
theorem testBit_clmul_step (x y : Word) (acc i k : Nat) :
    (if bit x i then Nat.xor acc (y.toNat * 2 ^ i) else acc).testBit k =
      (acc.testBit k != (x.getLsbD i && decide (i ≤ k) && y.getLsbD (k - i))) := by
  have hx : bit x i = x.getLsbD i := rfl
  cases h : x.getLsbD i
  · simp [hx, h]
  · rw [hx, h, if_pos rfl]
    exact (Nat.testBit_xor ..).trans (by rw [Nat.testBit_mul_two_pow, BitVec.testBit_toNat, Bool.true_and])

theorem testBit_foldl_clmul (x y : Word) (k : Nat) (l : List Nat) (acc : Nat) :
    (l.foldl (fun acc i => if bit x i then Nat.xor acc (y.toNat * 2 ^ i) else acc) acc).testBit k =
      l.foldl (fun p i => p != (x.getLsbD i && decide (i ≤ k) && y.getLsbD (k - i))) (acc.testBit k) := by
  induction l generalizing acc with
  | nil => rfl
  | cons i l ih => rw [List.foldl_cons, List.foldl_cons, ih, testBit_clmul_step]

theorem testBit_clmulN (x y : Word) (k : Nat) : (clmulN x y).testBit k = clmulBit x y k :=
  (testBit_foldl_clmul x y k _ 0).trans (by rw [Nat.zero_testBit]; rfl)

theorem getLsbD_clmulValue_low (x y : Word) {i : Nat} (hi : i < 64) :
    (clmulValue false x y).getLsbD i = clmulBit x y i := by
  rw [clmulValue, if_neg (by decide), word, BitVec.getLsbD_ofNat, decide_eq_true hi, Bool.true_and, testBit_clmulN]

theorem getLsbD_clmulValue_high (x y : Word) {i : Nat} (hi : i < 64) :
    (clmulValue true x y).getLsbD i = clmulBit x y (i + 64) := by
  rw [clmulValue, if_pos rfl, word, BitVec.getLsbD_ofNat, decide_eq_true hi, Bool.true_and, Nat.testBit_div_two_pow,
    testBit_clmulN]

end Sys2Proof.CoreInstructions
end

section
/-! PROOF. The statement about minimum, maximum and the instructions over bits (R126, R129 to R132), settled. -/
namespace Sys2Proof.CoreInstructions
open Sys2Proof Sys2Proof.Machine Sys2Proof.Claims

/-! ## Results -/

theorem minMaxWriteTheirResult : MinMaxWriteTheirResult := by
  refine ⟨fun s d a b h => ?_, ?_, fun u d a b t2 t3 => ?_⟩
  · rw [← minValue_signed, ← minValue_unsigned, ← maxValue_signed, ← maxValue_unsigned]
    exact ⟨alu2_ready h (minValue false), alu2_ready h (maxValue false), alu2_ready h (minValue true),
      alu2_ready h (maxValue true)⟩
  · rintro op tl d a b wa wb f t2 t3 (rfl | rfl) hf <;>
      exact decABf_refused _ ⟨a, wa⟩ ⟨b, wb⟩ t2 t3 (f01_large hf) _
  · exact ⟨decABf_ok _ 0x1F a b t2 t3 (f01_ite u) d, decABf_ok _ 0x20 a b t2 t3 (f01_ite u) d⟩

/-- `CLZ` (R130) of a ready bundle, by the first bit set in either direction. -/
theorem clz_ready {s : State} {d : SReg} {a : Src} (h : Ready s (need1 d a)) (trail : Bool) :
    ∃ n, n ≤ 64 ∧ exec (.clz trail d a) s = .next (wrote s d (BitVec.ofNat 64 n)) ∧
      (∀ i, i < n → bit (val s a) (if trail then i else 63 - i) = false) ∧
      (n < 64 → bit (val s a) (if trail then n else 63 - n) = true) := by
  obtain ⟨n, hn, hval, hfirst, hbit⟩ := clzValue_spec trail (val s a)
  exact ⟨n, hn, hval ▸ alu1_ready h (clzValue trail), hfirst, hbit⟩

theorem bit_top (x : Word) {i : Nat} (hi : i < 64) : x.getMsbD i = bit x (63 - i) := by
  rw [BitVec.getMsbD, decide_eq_true hi, Bool.true_and]
  rfl

theorem bitInstructionsWriteTheirResult : BitInstructionsWriteTheirResult := by
  intro s d a b imm k pos len
  refine ⟨fun h => plain_putS h d fun _ _ => imm.signExtend 64, fun h => ⟨?_, ?_, clz_ready h true, ?_, fun hf => ?_⟩,
    fun h => ⟨fun hf => ?_, ?_, ?_⟩⟩
  · rw [← lihValue_eq]
    exact alu1_ready h (lihValue k · imm)
  · obtain ⟨n, hn, hexec, hfirst, hbit⟩ := clz_ready h false
    exact ⟨n, hn, hexec, fun i hi => (bit_top _ (by omega)).trans (hfirst i hi), fun hlt => (bit_top _ hlt).trans (hbit hlt)⟩
  · rw [← popcValue_eq]
    exact alu1_ready h popcValue
  · obtain ⟨h1, h2⟩ := (wfField_iff pos len).1 hf
    rw [← bfxValue_zero, ← bfxValue_sign _ _ _ h1 (by omega)]
    exact ⟨alu1_ready h (bfxValue false pos.toNat len.toNat), alu1_ready h (bfxValue true pos.toNat len.toNat)⟩
  · obtain ⟨h1, h2⟩ := (wfField_iff pos len).1 hf
    rw [← bfiValue_eq _ _ _ _ (by omega)]
    exact alu2_ready h (bfiValue pos.toNat len.toNat)
  · exact ⟨_, alu2_ready h (clmulValue false), fun i hi => getLsbD_clmulValue_low _ _ hi⟩
  · exact ⟨_, alu2_ready h (clmulValue true), fun i hi => getLsbD_clmulValue_high _ _ hi⟩

/-! ## Encodings -/

theorem li_ok (d : SReg) (imm t2 t3 : Half) : decodeHead (head 0x24 1 (d.setWidth 6)) ⟨imm, t2, t3⟩ = .ok (.li d imm) := by
  change req 4 0 _ >>= _ = _
  simp [head]

theorem lih_ok (k : BitVec 2) (d : SReg) (a : Src) (imm t3 : Half) :
    decodeHead (head 0x25 2 (d.setWidth 6)) (tailsA a (k.setWidth 4) imm t3) = .ok (.lih k d a imm) := by
  have hk : decide ((k.setWidth 4).toNat < 4) = true := by revert k; decide
  have hpos : (k.setWidth 4).setWidth 2 = k := by revert k; decide
  change req 1 1 _ >>= _ = _
  simp only [head, unpack_tailsA, hk, req_true_bind, beq_self_eq_true, sOfD_setWidth, need_some_bind, noB_of_zero, srcA_mk,
    tailsA_t2, pure_eq_ok, hpos]

theorem clz_ok (u : Bool) (d : SReg) (a : Src) (t2 t3 : Half) :
    decodeHead (head 0x26 1 (d.setWidth 6)) (tailsA a (if u then 1 else 0) t2 t3) = .ok (.clz u d a) := by
  change need 1 1 _ >>= _ = _
  simp only [head, unpack_tailsA, f01_ite, need_some_bind, beq_self_eq_true, req_true_bind, sOfD_setWidth, noB_of_zero,
    srcA_mk, pure_eq_ok]

theorem popc_ok (d : SReg) (a : Src) (t2 t3 : Half) :
    decodeHead (head 0x27 1 (d.setWidth 6)) (tailsA a 0 t2 t3) = .ok (.popc d a) := by
  change req 1 1 _ >>= _ = _
  simp [head]

/-- The check that `BFX` and `BFI` make of their field tail (R54). -/
def fieldCheck (ti : Half) : Bool :=
  ti.extractLsb' 13 3 == 0 && 1 ≤ (ti.extractLsb' 6 7).toNat && (ti.setWidth 6).toNat + (ti.extractLsb' 6 7).toNat ≤ 64

section
variable (pos : BitVec 6) (len : BitVec 7)

theorem toNat_fieldTail : ((0#3 ++ len) ++ pos : Half).toNat = len.toNat * 64 + pos.toNat := by
  have hpos := pos.isLt
  simp only [BitVec.toNat_append, BitVec.toNat_ofNat, Nat.zero_mod, Nat.zero_shiftLeft, Nat.zero_or]
  rw [← Nat.shiftLeft_add_eq_or_of_lt hpos, Nat.shiftLeft_eq]

theorem fieldTail_pos : ((0#3 ++ len) ++ pos : Half).setWidth 6 = pos := by
  have hpos := pos.isLt
  apply BitVec.eq_of_toNat_eq
  rw [BitVec.toNat_setWidth, toNat_fieldTail]
  omega

theorem fieldTail_len : ((0#3 ++ len) ++ pos : Half).extractLsb' 6 7 = len := by
  have hpos := pos.isLt
  have hlen := len.isLt
  apply BitVec.eq_of_toNat_eq
  rw [BitVec.extractLsb'_toNat, toNat_fieldTail, Nat.shiftRight_eq_div_pow]
  omega

theorem fieldTail_top : ((0#3 ++ len) ++ pos : Half).extractLsb' 13 3 = 0 := by
  have hpos := pos.isLt
  have hlen := len.isLt
  apply BitVec.eq_of_toNat_eq
  rw [BitVec.extractLsb'_toNat, toNat_fieldTail, Nat.shiftRight_eq_div_pow]
  change _ = 0
  omega

theorem fieldCheck_tail (h : wfField pos len = true) : fieldCheck ((0#3 ++ len) ++ pos) = true := by
  rw [fieldCheck, fieldTail_pos, fieldTail_len, fieldTail_top]
  exact h

end

/-- A field of length 0 or that ends above bit 63, or a tail with a bit above the fields, fails the check. -/
theorem fieldCheck_false {ti : Half} (h : wfField (ti.setWidth 6) (ti.extractLsb' 6 7) = false ∨ 2 ^ (13 : Nat) ≤ ti.toNat) :
    fieldCheck ti = false := by
  rw [fieldCheck, Bool.and_assoc]
  rcases h with h | h
  · exact (congrArg _ h).trans (Bool.and_false _)
  · have htop : (ti.extractLsb' 13 3 == 0) = false := by
      have hti := ti.isLt
      rw [beq_eq_false_iff_ne, Ne, ← BitVec.toNat_inj, BitVec.extractLsb'_toNat, Nat.shiftRight_eq_div_pow]
      change ¬ _ = 0
      omega
    rw [htop, Bool.false_and]

section
variable (u : Bool) (d : SReg) (a b : Src) (ti t3 : Half)

/-- `BFX` and `BFI` up to the check of their field tail. -/
theorem bfx_check : decodeHead (head 0x28 2 (d.setWidth 6)) (tailsA a (if u then 1 else 0) ti t3) =
    (req 5 2 (fieldCheck ti) >>= fun _ => .ok (.bfx u d a (ti.setWidth 6) (ti.extractLsb' 6 7))) := by
  change need 1 1 _ >>= _ = _
  simp only [head, unpack_tailsA, f01_ite, beq_self_eq_true, req_true_bind, sOfD_setWidth, need_some_bind, noB_of_zero]
  rfl

theorem bfi_check : decodeHead (head 0x29 2 (d.setWidth 6)) (tailsAB a b 0 ti t3) =
    (req 5 2 (fieldCheck ti) >>= fun _ => .ok (.bfi d a b (ti.setWidth 6) (ti.extractLsb' 6 7))) := by
  change req 1 1 _ >>= _ = _
  simp only [head, unpack_tailsAB, beq_self_eq_true, req_true_bind, sOfD_setWidth, need_some_bind]
  rfl

end

/-- Likewise where the first check is a condition. -/
theorem req_bind_refused {c : Bool} (h : c = false) (k : Unit → Except EncFault Instr) :
    (req 1 1 c >>= k) = .error ⟨1, 1⟩ := by rw [h, req_false_bind]

theorem bitInstructionsAreEncoded : BitInstructionsAreEncoded := by
  refine ⟨fun d a b t2 t3 imm k pos len => ⟨li_ok d imm t2 t3, lih_ok k d a imm t3, popc_ok d a t2 t3, fun hf => ?_,
    fun u => ⟨clz_ok u d a t2 t3, fun hf => ?_, decABf_ok _ 0x2A a b t2 t3 (f01_ite u) d⟩⟩, ?_,
    fun d a b u ti t3 hf => ?_⟩
  · rw [bfi_check, fieldCheck_tail pos len hf, req_true_bind, fieldTail_pos, fieldTail_len]
  · rw [bfx_check, fieldCheck_tail pos len hf, req_true_bind, fieldTail_pos, fieldTail_len]
  · rintro op tl e a b f t2 t3 (⟨rfl, hf⟩ | ⟨rfl | rfl | rfl, hf⟩ | ⟨rfl | rfl, hf⟩)
    · exact req_bind_refused (by rw [unpack_tailsAB]; exact decide_eq_false (Nat.not_lt.2 hf)) _
    · exact need_bind_refused (by rw [unpack_tailsAB]; exact f01_large hf) _
    · exact need_bind_refused (by rw [unpack_tailsAB]; exact f01_large hf) _
    · exact decABf_refused _ a b t2 t3 (f01_large hf) _
    · exact req_bind_refused (by rw [unpack_tailsAB]; exact beq_eq_false_iff_ne.2 hf) _
    · exact req_bind_refused (by rw [unpack_tailsAB]; exact beq_eq_false_iff_ne.2 hf) _
  · rw [bfx_check, bfi_check, fieldCheck_false hf, req_false_bind, req_false_bind]
    exact ⟨rfl, rfl⟩

/-- Settles O4: fields are replaced bit by bit, counts end at the first bit set, and the product is summed without carries. -/
theorem minMaxAndBitFieldsWriteTheirResult : Obligations.MinMaxAndBitFieldsWriteTheirResult :=
  ⟨minMaxWriteTheirResult, bitInstructionsWriteTheirResult, bitInstructionsAreEncoded⟩

end Sys2Proof.CoreInstructions
end

section
/-! PROOF. Control transfer (R32, R98 to R101): the target of a branch, its checks, and what a branch answers. -/
namespace Sys2Proof.CoreInstructions
open Sys2Proof Sys2Proof.Machine Sys2Proof.Claims

variable {s : State}

/-! ## Targets and their checks -/

theorem branchTarget_of_isTarget {b : BTarget} {t : Nat} (h : IsTarget s b t) : branchTarget s.th.pc b = t := by
  rw [branchTarget, ← h, Int.toNat_natCast]

theorem targetTrap_none {t : Nat} (h : s.targetSub t = none) : s.targetTrap t = none := by
  rw [State.targetTrap, h]

/-- R32: the trap of a bad target, at the head that executes. -/
theorem targetTrap_some {t sub : Nat} (h1 : s.pair = none) (h : s.targetSub t = some sub) :
    s.targetTrap t = some ⟨0x01, encInfo s.cur.hcount (s.th.pc / 2 % 32) 0 sub, word t, 0⟩ := by
  simp only [State.targetTrap, h, State.encTrap, State.headIdx, h1]
  rfl

/-- The check of a target in a line that can be read. -/
theorem targetSub_of_line {t : Nat} {l : List Half} (h0 : t / 2 % 32 ≠ 0)
    (hl : s.lineAt s.cur.core s.me (t / 64 * 64) = .ok l) : s.targetSub t = targetFault l (t / 2 % 32) := by
  rw [State.targetSub, if_neg h0, hl]

/-- R101: a line that cannot be read refuses no target. -/
theorem targetSub_of_no_line {t : Nat} (h0 : t / 2 % 32 ≠ 0)
    (hl : ∀ l, s.lineAt s.cur.core s.me (t / 64 * 64) ≠ .ok l) : s.targetSub t = none := by
  rw [State.targetSub, if_neg h0]
  split
  · next l h => exact absurd h (hl l)
  · rfl

theorem targetSub_zero {t : Nat} (h0 : t / 2 % 32 = 0) : s.targetSub t = some 10 := by
  rw [State.targetSub, if_pos h0]

/-- The model's check finds each fault of a target that R32 names. -/
theorem targetSub_of_badTarget {t sub : Nat} (h : BadTarget s t sub) : s.targetSub t = some sub := by
  rcases h with ⟨rfl, h⟩ | ⟨rfl, l, hl, hpos, hle, hsecond⟩
  · by_cases h0 : t / 2 % 32 = 0
    · exact targetSub_zero h0
    · obtain ⟨l, hl, hgt⟩ := h.resolve_left h0
      rw [targetSub_of_line h0 hl, targetFault, if_pos (Or.inr hgt)]
  · rw [targetSub_of_line (by omega) hl, targetFault, if_neg (by omega), hsecond]
    rfl

theorem badTarget_sub {t sub : Nat} (h : BadTarget s t sub) : sub = 10 ∨ sub = 11 :=
  h.imp And.left And.left

/-- R40: the information word of a fault at a head, with no tail. -/
theorem encInfo_head (hcount head sub : Nat) (h : sub < 16) :
    encInfo hcount (head % 32) 0 sub = BitVec.ofNat 64 (hcount % 32 * 2 ^ (11 : Nat) + head % 32 * 2 ^ (6 : Nat) + sub) := by
  have hsum : hcount % 32 * 2 ^ (11 : Nat) + head % 32 % 32 * 64 + 0 % 4 * 16 + sub % 16 =
      hcount % 32 * 2 ^ (11 : Nat) + head % 32 * 2 ^ (6 : Nat) + sub := by omega
  exact congrArg (BitVec.ofNat 64) hsum

/-! ## The end of a transfer -/

theorem settle_goTo {t : Nat} (h : s.targetSub t = none) : s.settle (goTo s t) = went s t := by
  rw [goTo, targetTrap_none h, State.settle_jump, went]

theorem settle_goTo_bad {t sub : Nat} (h1 : s.pair = none) (h : BadTarget s t sub) :
    s.settle (goTo s t) = targetFails s t sub := by
  have hsub : sub < 16 := by rcases badTarget_sub h with rfl | rfl <;> decide
  rw [goTo, targetTrap_some h1 (targetSub_of_badTarget h), State.settle_trap,
    State.markLost_other _ _ (show 0x01 ≠ 0x0B by decide), targetFails, encInfo_head _ _ _ hsub, word]

/-- The checks of a register value in order (R101): bit 0, then the bits above an address, then those of a branch. -/
theorem goReg_odd {w : Word} (h : w.getLsbD 0 = true) : goReg s w = .trap ⟨0x06, 0, w, 0⟩ := by
  rw [goReg, State.jumpTrap, bit, if_pos h]

theorem bits_top_eq_zero {w : Word} : bits w 63 52 = 0 ↔ w.toNat < 2 ^ (52 : Nat) := by
  have hw := w.isLt
  rw [bits]
  omega

theorem goReg_wide {w : Word} (h0 : w.getLsbD 0 = false) (h : 2 ^ (52 : Nat) ≤ w.toNat) :
    goReg s w = .trap { kinfo 8 none 0 w with info2 := w } := by
  rw [goReg, State.jumpTrap, bit, if_neg (by rw [h0]; decide), if_pos (by rw [Ne, bits_top_eq_zero]; omega)]

/-- A value that is a PC is checked as a branch's target. -/
theorem goReg_pc {w : Word} (h0 : w.getLsbD 0 = false) (h : w.toNat < 2 ^ (52 : Nat)) : goReg s w = goTo s w.toNat := by
  rw [goReg, State.jumpTrap, bit, if_neg (by rw [h0]; decide), if_neg (by rw [Ne, bits_top_eq_zero]; omega)]
  rfl

/-! ## Branches at issue -/

theorem plain_none (h1 : s.pair = none) (body : View → State → Head) :
    plain [] body s = .next (s.settle (body s.view s)) :=
  plain_full [] body s h1 (by simp)

theorem exec_br {b : BTarget} {t : Nat} (h1 : s.pair = none) (ht : IsTarget s b t) :
    exec (.br b) s = .next (s.settle (goTo s t)) :=
  (plain_none h1 fun v s => goTo s (branchTarget v.th.pc b)).trans (by rw [← branchTarget_of_isTarget ht]; rfl)

theorem exec_bc (h1 : s.pair = none) (n : Bool) (c : CReg) (b : BTarget) :
    exec (.bc n c b) s =
      .next (s.settle (if s.view.cond c != n then goTo s (branchTarget s.th.pc b) else .ok s)) :=
  plain_none h1 fun v s => if v.cond c != n then goTo s (branchTarget v.th.pc b) else .ok s

theorem exec_bc_taken {n : Bool} {c : CReg} {b : BTarget} {t : Nat} (h1 : s.pair = none) (hc : s.view.cond c ≠ n)
    (ht : IsTarget s b t) : exec (.bc n c b) s = .next (s.settle (goTo s t)) := by
  rw [exec_bc h1, if_pos (bne_iff_ne.2 hc), branchTarget_of_isTarget ht]

theorem exec_jmp {r : SReg} (h1 : s.pair = none) (hf : Full s [sN r]) :
    exec (.jmp r) s = .next (s.settle (goReg s (s.th.sv r))) :=
  plain_full [sN r] (fun v s => goReg s (v.sd r)) s h1 hf

/-- A ready bundle that names no register and changes nothing is done. -/
theorem settle_same (h : Ready s []) : s.settle (.ok s) = done s := State.settle_ok s s h.noLoop

theorem exec_nop (h : Ready s []) (d : BitVec 6) (hs : List Half) : exec (.nop d hs) s = .next (done s) :=
  (plain_none h.single fun _ s => .ok s).trans (by rw [settle_same h])

theorem exec_bc_not_taken {n : Bool} {c : CReg} (h : Ready s []) (hc : s.view.cond c = n) (b : BTarget) :
    exec (.bc n c b) s = .next (done s) := by
  rw [exec_bc h.single, if_neg (by simp [hc]), settle_same h]

/-! ## Settling -/

theorem branchesMoveThePC : BranchesMoveThePC := by
  intro s d hs n c b r t
  refine ⟨fun h => ⟨exec_nop h d hs, fun hc => exec_bc_not_taken h hc b⟩, fun h1 ht hok => ?_, fun h1 hf hgood => ?_⟩
  · rw [exec_br h1 ht, settle_goTo hok]
    exact ⟨rfl, fun hc => by rw [exec_bc_taken h1 hc ht, settle_goTo hok]⟩
  · obtain ⟨heven, hlow, hok⟩ := hgood
    rw [exec_jmp h1 hf, goReg_pc heven hlow, settle_goTo hok]

theorem branchTargetsAreChecked : BranchTargetsAreChecked := by
  intro s n c b r t sub h1
  refine ⟨fun ht hbad => ?_, fun hf => ⟨fun hodd => ?_, fun heven hwide => ?_, fun heven hlow hbad => ?_, ?_⟩⟩
  · rw [exec_br h1 ht, settle_goTo_bad h1 hbad]
    exact ⟨rfl, fun hc => by rw [exec_bc_taken h1 hc ht, settle_goTo_bad h1 hbad]⟩
  · refine ⟨⟨0x06, 0, s.th.sv r, 0⟩, rfl, rfl, ?_⟩
    rw [exec_jmp h1 hf, goReg_odd hodd, State.settle_trap, State.markLost_other _ _ (show 0x06 ≠ 0x0B by decide)]
  · refine ⟨{ kinfo 8 none 0 (s.th.sv r) with info2 := s.th.sv r }, rfl, rfl, ?_⟩
    rw [exec_jmp h1 hf, goReg_wide heven hwide, State.settle_trap, State.markLost_other _ _ (show 0x05 ≠ 0x0B by decide)]
  · rw [exec_jmp h1 hf, goReg_pc heven hlow, settle_goTo_bad h1 hbad]
  · rintro x h0 rfl hx
    exact targetSub_of_no_line h0 hx

/-! ## Encodings -/

/-- R32: a branch immediate holds the line delta above the head index. -/
theorem unpackBT_append (b : BTarget) : unpackBT (b.delta ++ b.index) = b := by
  obtain ⟨delta, index⟩ := b
  have hi := index.isLt
  have hd := delta.isLt
  have hn : (delta ++ index : Half).toNat = delta.toNat * 32 + index.toNat := by
    rw [BitVec.toNat_append, ← Nat.shiftLeft_add_eq_or_of_lt hi, Nat.shiftLeft_eq]
  simp only [unpackBT, BTarget.mk.injEq, ← BitVec.toNat_inj, BitVec.extractLsb'_toNat, hn, Nat.shiftRight_eq_div_pow]
  omega

theorem br_ok (b : BTarget) (t2 t3 : Half) : decodeHead (head 0x01 1 0) ⟨b.delta ++ b.index, t2, t3⟩ = .ok (.br b) := by
  change req 4 0 _ >>= _ = _
  simp [head, unpackBT_append]

/-- R100: D holds N, a zero and the condition. -/
theorem bc_ok (n : Bool) (c : CReg) (b : BTarget) (t2 t3 : Half) :
    decodeHead (head 0x02 1 ((if n then 1#1 else 0#1) ++ 0#1 ++ c)) ⟨b.delta ++ b.index, t2, t3⟩ = .ok (.bc n c b) := by
  have hfields : (((if n then 1#1 else 0#1) ++ 0#1 ++ c : BitVec 6).getLsbD 4 = false) ∧
      (((if n then 1#1 else 0#1) ++ 0#1 ++ c : BitVec 6).getLsbD 5 = n) ∧
      ((if n then 1#1 else 0#1) ++ 0#1 ++ c : BitVec 6).setWidth 4 = c := by revert n c; decide
  obtain ⟨h4, h5, hc⟩ := hfields
  change req 4 0 _ >>= _ = _
  simp only [head, h4, h5, hc, unpackBT_append, beq_self_eq_true, Bool.not_false, req_true_bind, pure_eq_ok]

theorem bc_refused {e : BitVec 6} (he : e.getLsbD 4 = true) (w : Tails) : decodeHead (head 0x02 1 e) w = .error ⟨5, 0⟩ := by
  change req 4 0 _ >>= _ = _
  simp only [head, he, beq_self_eq_true, Bool.not_true, req_true_bind, req_false_bind]

theorem jmp_ok (r : SReg) (w : Tails) : decodeHead (head 0x03 0 (r.setWidth 6)) w = .ok (.jmp r) := by
  change req 4 0 _ >>= _ = _
  simp [head]

theorem branchesAreEncoded : BranchesAreEncoded := fun _ n c b r _ t2 t3 =>
  ⟨fun _ => rfl, br_ok b t2 t3, bc_ok n c b t2 t3, fun he => bc_refused he _, jmp_ok r _⟩

/-! ## The next PC -/

/-- With both loop counts 0 the loop step does nothing (R112). -/
theorem loopStep_idle {t : Thread} (h0 : t.lc0 = 0) (h1 : t.lc1 = 0) (n : Nat) : loopStep t n = (t.lc0, t.lc1, none) := by
  simp [loopStep, h0, h1]

/-- The end of a bundle that meets no loop: of the thread, the PC alone moves. -/
theorem th_advance {h w : Nat} (hl : loopStep s.th w = (s.th.lc0, s.th.lc1, none)) :
    (s.advance h w).th = { s.th with pc := nextPc s.th.pc h w, fpMask := false } := by
  simp only [State.advance, hl]
  refine (State.th_setHere_slots _ _ ?_).trans (State.th_setTh _ _)
  rfl

theorem nextPc_eq {line h hcount w : Nat} (hh : h ≤ 31) :
    nextPc (64 * line + 2 * h) hcount w =
      if h + w > hcount then 64 * line + 64 + 2 else 64 * line + 2 * h + 2 * w := by
  rw [nextPc, show (64 * line + 2 * h) % 64 / 2 = h by omega, show (64 * line + 2 * h) % 64 = 2 * h by omega,
    Nat.add_sub_cancel]

theorem nextPCFollowsTheBundle : NextPCFollowsTheBundle := by
  intro s line h h0 h1 hpc _ hle hmax _
  have hth := th_advance (h := s.cur.hcount) (loopStep_idle h0 h1 s.cur.width)
  have hnext := nextPc_eq (line := line) (hcount := s.cur.hcount) (w := s.cur.width) (Nat.le_trans hle hmax)
  rw [done, hth, hpc, hnext]

/-- Settles O7: each branch answers as its target's check does, and a bundle without a transfer moves the PC alone. -/
theorem branchesAndBundlesMoveThePC : Obligations.BranchesAndBundlesMoveThePC :=
  ⟨branchesMoveThePC, branchTargetsAreChecked, branchesAreEncoded, nextPCFollowsTheBundle⟩

end Sys2Proof.CoreInstructions
end
